-- ==== Sys2Proof/Word.lean ====
section
/-! DEFINITION. The words of the machine (R4) and the numbers of its register files (R113). -/

namespace Sys2Proof

/-- Byte, 8 bits (R4). -/
abbrev Byte := BitVec 8
/-- Word, 32 bits (R4). -/
abbrev Word32 := BitVec 32
/-- Doubleword, 64 bits (R4): a scalar register. -/
abbrev Dword := BitVec 64
/-- A 64 B scratchpad chunk (R242) as a little-endian string. -/
abbrev Chunk := BitVec 512
/-- A 128 B global line (R11) as a little-endian string. -/
abbrev Line := BitVec 1024
/-- A vector register, 16,384 bits (R113, R114). -/
abbrev VWord := BitVec 16384
/-- A mask register, 512 bits (R113). -/
abbrev KWord := BitVec 512
/-- A 384-bit bundle (R105). -/
abbrev Bundle := BitVec 384

/-- Scalar register number (R113). -/
abbrev SReg := Fin 64
/-- Vector register number (R113). -/
abbrev VReg := Fin 16
/-- Mask register number (R113). -/
abbrev KReg := Fin 8
/-- Ring handle number (R113). -/
abbrev HReg := Fin 16
/-- Binding register number (R113). -/
abbrev BReg := Fin 16

end Sys2Proof
end

