-- ==== Sys2Proof/Syntax.lean ====
section
/-! DEFINITION. The steps of the machine: one constructor per row of the table of operations and events. The slot
instructions carry the fields of their entries (R107: a field not listed is zero and is not carried); the events carry
what names the thing they happen to. -/

namespace Sys2Proof

/-- Element format codes 0x0 to 0xD (R44). -/
inductive Ty where
  | f64 | f32 | f16 | bf16 | e4m3 | e5m2 | i8 | i16 | i32 | i64 | n8 | n16 | n32 | n64
  deriving DecidableEq, Repr

/-- Rounding codes 0 to 4 and 7 (R49). `ctx` is also "unchanged" of FPMODE (R163). -/
inductive Rm where
  | rne | rtz | rup | rdn | rna | ctx
  deriving DecidableEq, Repr

/-- BRC conditions 0 to 5 (R152). -/
inductive Cond where
  | eq | ne | lt | ge | ltu | geu
  deriving DecidableEq, Repr

/-- Scope codes 0 to 4 (R22, R126). -/
inductive Scope where
  | core | clus | die | pkg | sys
  deriving DecidableEq, Repr

/-- Size codes 0 to 6 of m.k (R289). -/
inductive Size where
  | b | h | w | d | bs | hs | ws
  deriving DecidableEq, Repr

/-- Operations 0 to 8 of AMO, SAMO and RED (R311). -/
inductive AmoOp where
  | swap | add | and | or | xor | min | max | minu | maxu
  deriving DecidableEq, Repr

/-- Comparison codes 0 to 5 of ACQ and ACQP (R368). -/
inductive AcqCmp where
  | eq | ne | ge | geu | gt | gtu
  deriving DecidableEq, Repr

/-- The mode part of FPMODE's immediate, 0 to 2 (R163). -/
inductive ModeSel where
  | keep | exposed | interlocked
  deriving DecidableEq, Repr

/-- The second operand of the vector instructions marked bsrc (R183). -/
inductive BSrc where
  | vec (b : VReg)
  | scal (n : SReg)
  | imm (v : BitVec 21)
  deriving DecidableEq, Repr

/-- The source of VBCAST (R198). -/
inductive BcSrc where
  | elem (a : VReg) (idx : BitVec 11)
  | scal (n : SReg)
  | imm (v : BitVec 21)
  deriving DecidableEq, Repr

/-- The forms 0 to 2 of KMOV (R196). -/
inductive KMov where
  | mask (d a : KReg)
  | toChunk (d : KReg) (j : Fin 8) (n : SReg)
  | fromChunk (n : SReg) (a : KReg) (j : Fin 8)
  deriving DecidableEq, Repr

/-- Fields common to the element-wise vector instructions: format, destination, first source, governing mask and v.z
(R109). -/
structure VOp where
  ty : Ty
  d  : VReg
  a  : VReg
  k  : KReg
  z  : Bool
  deriving DecidableEq, Repr

/-- The Billet immediate (R207): format 0 to 3, first block, block count less one, offset in 16 B units. -/
structure BlkImm where
  fmt : Fin 4
  j0  : Fin 8
  bc  : Fin 8
  o   : BitVec 7
  deriving DecidableEq, Repr

/-- A remote place in m.imm (R301). -/
structure Place where
  die  : Fin 8
  clus : Fin 12
  core : Fin 4
  half : Bool
  deriving DecidableEq, Repr

/-- A home-die hint: 0 to 7, or none for 0xF (R23). -/
abbrev Hint := Option (Fin 8)

/-- A register that has no row of its own (R9): the registers that the step REGISTER_WRITE sets. -/
inductive MgmtReg where
  | htbase (die : Nat)               -- R277, die 8 is the hearth die
  | bellows (die : Nat)              -- R433
  | lrq (q : Nat)                    -- R397, setting lrq.en
  | keySlot (n : Nat) (k1 k2 : BitVec 256) -- R287, the two keys
  | lqstat (q : Nat)                 -- R67, w1c of lqstat.ovr
  | lqch (q : Nat)                   -- R429, lqch.head
  | slotmap (core : Nat)             -- R93, by the management core
  | pmctl (core : Nat)               -- R417, without pm.go
  | retireBank (core bank : Nat)     -- R259, ordered by the management core
  | freeFrame (die : Nat)            -- R271, a frame for the free-frame list
  | ftRemove (asid : Nat)            -- R271, removal of a directory record
  | saveArea                         -- R231, R419: a save area for the management core's own pre-emptions
  deriving DecidableEq, Repr

/-- What a request to another chip's home asks (R285, R396). -/
inductive PeerOp where
  | read (len : Nat)
  | grant
  | write (len data be : Nat)
  | red (op : AmoOp) (w val : Nat)
  | fred (ty : Ty) (val : Nat)
  | amo (op : AmoOp) (w val : Nat)
  | cas (w exp val : Nat)
  | sync
  | rel (val : Dword) (hi : Nat)
  deriving DecidableEq, Repr

/-- A packet of the fabric by class (R396). -/
inductive Packet where
  /-- Class 0: a SEND message with its sender's number and the time of its release (R381). -/
  | msg (src dst id queue gin lt : Nat) (bytes : List Byte)
  /-- Class 1: a request with its requester's logical time (R339). -/
  | peerReq (src dst id va asid lt : Nat) (op : PeerOp)
  /-- Class 2: an answer; the sequence tag stands in a write's, and the time that raises the requester's (R338). -/
  | peerRep (dst id code wts : Nat) (tag : Option Nat) (bytes : List Byte)
  /-- Class 3. -/
  | coll (src dst id tag gin : Nat) (bytes : List Byte)
  /-- Class 4: a cancel token. -/
  | cancel (dst gin : Nat)
  /-- Class 4: room asked of a link receive queue or of the inbox, its answer, and a message held whole (R398). -/
  | room (src dst id : Nat) (inbox : Bool) (queue len : Nat)
  | roomRep (dst id : Nat) (ok : Bool)
  | accepted (dst id : Nat)
  deriving DecidableEq, Repr

/-- A register of a context named by an operand (R113). -/
inductive RegRef where
  | s (n : SReg)
  | v (n : VReg)
  | k (n : KReg)
  deriving DecidableEq, Repr

/-- The steps of the machine. -/
inductive Instr where
  /-- Opcode 0 in any slot (R107). -/
  | nop
  -- control, C slot (R152 to R164)
  | br (off : BitVec 24)
  | brc (cond : Cond) (a b : SReg) (off : BitVec 24)
  | call (a : SReg) (off : BitVec 24)
  | ret (a : SReg)
  | jmpi (a : SReg) (imm : BitVec 28)
  | loop (a b : SReg) (len : BitVec 16) (md sk : Bool)
  | loopi (cimm : BitVec 10) (b : SReg) (len : BitVec 16) (md sk : Bool)
  | lexit
  | lidx (d : SReg) (n : Fin 6)
  | trap (code : BitVec 28)
  | sysrd (d : SReg) (sysreg : BitVec 16)
  | syswr (a : SReg) (sysreg : BitVec 16)
  | fpmode (d : SReg) (rm : Rm) (mode : ModeSel)
  | cyc (d : SReg)
  -- scalar integer, C or S slot (R165 to R169)
  | add (d a b : SReg)
  | sub (d a b : SReg)
  | addi (d a : SReg) (imm : BitVec 28)
  | and (d a b : SReg)
  | or (d a b : SReg)
  | xor (d a b : SReg)
  | andi (d a : SReg) (imm : BitVec 28)
  | ori (d a : SReg) (imm : BitVec 28)
  | xori (d a : SReg) (imm : BitVec 28)
  | shl (d a b : SReg)
  | shr (d a b : SReg)
  | sra (d a b : SReg)
  | shli (d a : SReg) (n : Fin 64)
  | shri (d a : SReg) (n : Fin 64)
  | srai (d a : SReg) (n : Fin 64)
  | mul (d a b : SReg)
  | mulh (d a b : SReg)
  | mulhu (d a b : SReg)
  | div (d a b : SReg)
  | divu (d a b : SReg)
  | rem (d a b : SReg)
  | remu (d a b : SReg)
  | min (d a b : SReg)
  | max (d a b : SReg)
  | minu (d a b : SReg)
  | maxu (d a b : SReg)
  | seq (d a b : SReg)
  | slt (d a b : SReg)
  | sltu (d a b : SReg)
  | sel (d a b : SReg)
  | clz (d a : SReg)
  | ctz (d a : SReg)
  | popc (d a : SReg)
  | li (d : SReg) (imm : BitVec 32) (sh : Fin 4)
  | bfx (d a : SReg) (p : Fin 64) (w : BitVec 7) (sx : Bool)
  | bfi (d a : SReg) (p : Fin 64) (w : BitVec 7)
  -- scalar floating point (R170 to R174)
  | fadd (ty : Ty) (d a b : SReg) (rm : Rm) (sat : Bool)
  | fsub (ty : Ty) (d a b : SReg) (rm : Rm) (sat : Bool)
  | fmul (ty : Ty) (d a b : SReg) (rm : Rm) (sat : Bool)
  | ffma (ty : Ty) (d a b c : SReg) (rm : Rm) (sat : Bool)
  | fdiv (ty : Ty) (d a b : SReg) (rm : Rm) (sat : Bool)
  | fsqrt (ty : Ty) (d a : SReg) (rm : Rm) (sat : Bool)
  | fmin (ty : Ty) (d a b : SReg) (rm : Rm) (sat : Bool)
  | fmax (ty : Ty) (d a b : SReg) (rm : Rm) (sat : Bool)
  | fcmp (ty : Ty) (d a b : SReg) (pred : Ty)
  | fcvt (ty ty2 : Ty) (d a : SReg) (rm : Rm) (sat : Bool)
  -- ring handles, S slot (R175 to R178)
  | hset (h : HReg) (a : SReg)
  | hadvf (h : HReg) (a : SReg) (imm : BitVec 28)
  | hadvc (h : HReg) (a : SReg) (imm : BitVec 28)
  | hqry (d : SReg) (h : HReg) (sel : Fin 8)
  | hwait (h : HReg) (a : SReg) (n : BitVec 27) (free : Bool)
  -- vector floating point, V0 or V1 (R186 to R190)
  | vadd (o : VOp) (b : BSrc) (rm : Rm) (sat : Bool)
  | vsub (o : VOp) (b : BSrc) (rm : Rm) (sat : Bool)
  | vmul (o : VOp) (b : BSrc) (rm : Rm) (sat : Bool)
  | vfma (o : VOp) (b : BSrc) (c : VReg) (rm : Rm) (sat : Bool)
  | vfms (o : VOp) (b : BSrc) (c : VReg) (rm : Rm) (sat : Bool)
  | vfnma (o : VOp) (b : BSrc) (c : VReg) (rm : Rm) (sat : Bool)
  | vdiv (o : VOp) (b : BSrc) (rm : Rm) (sat : Bool)
  | vsqrt (o : VOp) (rm : Rm) (sat : Bool)
  | vmin (o : VOp) (b : BSrc) (sat : Bool)
  | vmax (o : VOp) (b : BSrc) (sat : Bool)
  | vabs (o : VOp) (sat : Bool)
  | vneg (o : VOp) (sat : Bool)
  | vscalb (o : VOp) (b : BSrc) (rm : Rm) (sat : Bool)
  | vrcp (o : VOp) (rm : Rm) (sat : Bool)
  | vrsq (o : VOp) (rm : Rm) (sat : Bool)
  | vexp2 (o : VOp) (rm : Rm) (sat : Bool)
  | vlog2 (o : VOp) (rm : Rm) (sat : Bool)
  -- vector integer (R191, R192)
  | viadd (o : VOp) (b : BSrc) (sat : Bool)
  | visub (o : VOp) (b : BSrc) (sat : Bool)
  | vimul (o : VOp) (b : BSrc) (sat : Bool)
  | vimad (o : VOp) (b : BSrc) (c : VReg) (sat : Bool)
  | vimin (o : VOp) (b : BSrc)
  | vimax (o : VOp) (b : BSrc)
  | vand (o : VOp) (b : BSrc)
  | vor (o : VOp) (b : BSrc)
  | vxor (o : VOp) (b : BSrc)
  | vpopc (o : VOp)
  | viabs (o : VOp) (sat : Bool)
  | vshl (o : VOp) (b : BSrc) (sat : Bool)
  | vshr (o : VOp) (b : BSrc)
  | vsra (o : VOp) (b : BSrc)
  -- compares and masks (R193 to R196)
  | vcmp (ty : Ty) (d : KReg) (a : VReg) (b : BSrc) (k : KReg) (z : Bool) (pred : Fin 8) (any : Bool)
  | vclass (ty : Ty) (d : KReg) (a : VReg) (k : KReg) (z : Bool) (set : BitVec 9) (any : Bool)
  | kand (d a b : KReg)
  | kor (d a b : KReg)
  | kxor (d a b : KReg)
  | knot (d a : KReg)
  | kpopc (n : SReg) (a : KReg)
  | kmov (f : KMov)
  -- moves and permutes (R197 to R200)
  | vmov (o : VOp)
  | vsel (o : VOp) (b : VReg) (c : KReg)
  | vbcast (ty : Ty) (d : VReg) (k : KReg) (z : Bool) (src : BcSrc)
  | viota (ty : Ty) (d : VReg) (k : KReg) (z : Bool) (base : BitVec 16) (stride : BitVec 12)
  | vperm (o : VOp) (b : VReg) (zero : Bool)
  | vrot (o : VOp) (r : BitVec 11)
  | vextr (ty : Ty) (n : SReg) (a : VReg) (i : SReg) (off : BitVec 11)
  | vins (ty : Ty) (d : VReg) (n : SReg) (i : SReg) (off : BitVec 11)
  -- reductions (R201, R202)
  | vrsum (ty : Ty) (d a : VReg) (k : KReg) (rm : Rm) (sat : Bool)
  | vrmax (ty : Ty) (d a : VReg) (k : KReg) (sat : Bool)
  | vrmin (ty : Ty) (d a : VReg) (k : KReg) (sat : Bool)
  | virsum (ty : Ty) (d a : VReg) (k : KReg) (sat : Bool)
  -- conversions and Billet (R203 to R208)
  | vcvt (o : VOp) (dst : Ty) (part : Fin 8) (rm : Rm) (sat : Bool)
  | vcvtsr (o : VOp) (dst : Ty) (part : Fin 8) (sat : Bool)
  | vqblk (ty : Ty) (d a : VReg) (rm : Rm) (sat : Bool) (blk : BlkImm)
  | vdqblk (o : VOp) (rm : Rm) (sat : Bool) (blk : BlkImm)
  | vpack (o : VOp) (b : VReg) (sat : Bool)
  | vunpk (o : VOp) (p : Bool)
  -- the issuing core's scratchpad, M slot (R293 to R297)
  | sld (d a : SReg) (sz : Size) (imm : BitVec 24)
  | sst (d a : SReg) (sz : Size) (imm : BitVec 24)
  | vsld (d : VReg) (a : SReg) (k : KReg) (imm : BitVec 24)
  | vsst (d : VReg) (a : SReg) (k : KReg) (imm : BitVec 24)
  | vslds (d : VReg) (a b : SReg) (k : KReg) (imm : BitVec 24)
  | vssts (d : VReg) (a b : SReg) (k : KReg) (imm : BitVec 24)
  | vsgath (d : VReg) (a : SReg) (b : VReg) (k : KReg) (imm : BitVec 24)
  | vsscat (d : VReg) (a : SReg) (b : VReg) (k : KReg) (imm : BitVec 24)
  | vhld (d : VReg) (h : HReg) (k : KReg) (off : BitVec 10)
  | vhst (d : VReg) (h : HReg) (k : KReg) (off : BitVec 10)
  -- full and empty words (R299)
  | ldf (d a : SReg) (sc : Scope) (imm : BitVec 24)
  | ldfe (d a : SReg) (sc : Scope) (imm : BitVec 24)
  | ste (d a : SReg) (sc : Scope) (imm : BitVec 24)
  | stf (d a : SReg) (sc : Scope) (imm : BitVec 24)
  | tagrd (d a : SReg) (imm : BitVec 24)
  | tagwr (d a : SReg) (imm : BitVec 24)
  -- scratchpads of other cores (R301 to R304)
  | rsst (d a : SReg) (sz : Size) (pl : Place) (off : BitVec 13)
  | rvst (d : VReg) (a : SReg) (k : KReg) (pl : Place) (off : BitVec 13)
  | mvst (d : VReg) (a : SReg) (k : KReg) (die : Fin 8) (clus : Fin 12) (set : BitVec 4) (off : BitVec 12)
  | rste (d a : SReg) (sc : Scope) (pl : Place) (off : BitVec 13)
  -- global memory (R307 to R315)
  | gld (d a : SReg) (sz : Size) (hint : Hint) (imm : BitVec 24)
  | gst (d a : SReg) (sz : Size) (hint : Hint) (imm : BitVec 24)
  | vgld (d : VReg) (a : SReg) (k : KReg) (hint : Hint) (imm : BitVec 24)
  | vgst (d : VReg) (a : SReg) (k : KReg) (hint : Hint) (imm : BitVec 24)
  | vggath (d : VReg) (a : SReg) (b : VReg) (k : KReg) (hint : Hint) (imm : BitVec 24)
  | vgscat (d : VReg) (a : SReg) (b : VReg) (k : KReg) (hint : Hint) (imm : BitVec 24)
  | amo (d a b : SReg) (sz : Size) (hint : Hint) (sc : Scope) (op : AmoOp)
  | cas (d a b : SReg) (sz : Size) (hint : Hint) (sc : Scope)
  | red (d a : SReg) (sz : Size) (hint : Hint) (op : AmoOp)
  | fred (d a : SReg) (hint : Hint) (ty : Ty)
  | samo (d a b : SReg) (sz : Size) (sc : Scope) (op : AmoOp)
  -- pins and cache control (R317 to R319)
  | gpf (a : SReg) (l2 : Bool) (hint : Hint) (imm : BitVec 24)
  | pin (a b : SReg) (hint : Hint) (imm : BitVec 24)
  | unpin (a b : SReg) (hint : Hint) (imm : BitVec 24)
  | gwb (a b : SReg) (hint : Hint) (sc : Scope) (imm : BitVec 24)
  | ginv (a b : SReg) (hint : Hint) (sc : Scope) (imm : BitVec 24)
  -- matrix beats, T slot (R234 to R240)
  | wload (w : Fin 32) (h : HReg) (off : Fin 32)
  | wloadNxt (w : Fin 32) (h : HReg) (off : Fin 32)
  | wloadTongs (w : Fin 32)
  | wloadNxtTongs (w : Fin 32)
  | afeed (h : HReg) (off : Fin 32)
  | accum (a : Fin 128)
  | accumSet (a : Fin 128)
  | drain (a : Fin 128)
  | drainClr (a : Fin 128)
  | tswap
  | tzero (a : Fin 128) (n : Fin 32)
  | tclose
  -- copies and timelines, E slot (R334)
  | cpy (d a b c : SReg) (sc : Scope) (eng : Fin 2) (tl : Fin 64)
  | cpyx (d a b c : SReg) (sc : Scope) (eng : Fin 2) (tl : Fin 64)
  | cpq (d : SReg) (eng : Fin 2) (sel : Fin 5)
  | tlrd (d : SReg) (tl : Fin 64) (sel : Fin 5)
  | tlwait (a : SReg) (sc : Scope) (tl : Fin 64)
  | tladv (a : SReg) (set : Bool) (tl : Fin 64)
  -- synchronisation and engines, E slot (R364)
  | fence (sc : Scope)
  | acq (n : BReg) (b : SReg) (sc : Scope) (cmp : AcqCmp)
  | rel (n : BReg) (b : SReg) (sc : Scope)
  | acqp (d : SReg) (n : BReg) (b : SReg) (sc : Scope) (cmp : AcqCmp)
  | bind (n : BReg) (a b c : SReg)
  | unbind (n : BReg)
  | wack
  | bara (k : Fin 7)
  | barw (k : Fin 7)
  | bar (k : Fin 7)
  | mregw (shadow : Bool) (reg : Fin 16) (a : SReg)
  | mregr (d : SReg) (shadow : Bool) (reg : Fin 16)
  | send (a b c : SReg) (sc : Scope) (tl : Fin 64)
  | recv (d a c : SReg) (sc : Scope) (q : Fin 64)
  | coll (a : SReg) (sc : Scope) (tab : Fin 16) (tl : Fin 64)
  | cstab (a c : SReg) (tab : Fin 16)
  | launch (a : SReg) (q : Fin 32)
  | cancel (a : SReg)
  | bown (a : SReg)
  | brel (a : SReg)
  | pwrq (d a : SReg) (other : Bool) (sel : Bool)
  -- header flags (R106)
  | restartMark
  | yield
  | quenchPoint
  | endOfTask
  -- events: what each happens to stands in the argument of the step (`Machine.Arg`)
  -- fetch, issue and results: core, ctx
  | bundleDecode
  /-- id: the line. -/
  | indexLineFill
  /-- id: the entry of the store. -/
  | dictionaryReread
  | splitBundleSecondCycle
  | contextPark
  | contextUnpark
  | resultLand
  /-- id: the result. -/
  | variableResultLand
  /-- n: the handle. -/
  | engineProducerPublish
  | correctionFreezeEnd
  | lockstepMismatch
  /-- n: the lane group. -/
  | residueMismatch
  | rollbackFetchResume
  | markEstablished
  | taskEnd
  -- scratchpad: core; id the write, n the bank or group
  | commitDrain
  | scratchpadDrainWrite
  | parityDeltaApply
  | bankSleep
  | bankWake
  | parityRebuildRow
  -- matrix engine checking: core, n the array of the pair, id the tile
  | tileComparison
  /-- n: the cluster over the package. -/
  | hardyDecision
  -- remote stores and global memory: id the message or request
  | remoteStoreArrival
  | rsteArrival
  | homeRequest
  | translationWalk
  | firstTouchAssign
  | homeWriteApply
  | reductionApply
  | writeGrantReturn
  | refusalArrival
  /-- core, ctx. -/
  | migrationRerun
  | ackArrival
  /-- n: the cluster over the package. -/
  | spillQueueReturn
  | syncWordWrite
  | promotionRequest
  | promotionReply
  | barrierComplete
  | ltTick
  | timestampRebase
  -- copy engines: id the command
  | copyAccept
  /-- n: the cluster over the package, m: the engine. -/
  | copyStart
  | copyPieceRetry
  | copyVerify
  | copyComplete
  -- fabric and collectives
  /-- core, ctx, id: the entry. -/
  | sendDrain
  /-- n: the queue. -/
  | lrqRoomGrant
  /-- n: the queue. -/
  | messageAccept
  /-- n: the link, pkt: the packet, flag: its CRC holds. -/
  | packetReceive
  /-- n: the link, m: the wavelength, flag: receive side. -/
  | wavelengthRetrain
  /-- As wavelengthRetrain; flag2: the wavelength came back. -/
  | wavelengthRetrainEnd
  /-- As wavelengthRetrain; flag2: parked, or taken up again. -/
  | wavelengthPark
  /-- n: the link. -/
  | linkDown
  | linkReturn
  /-- n: the chip, v: the entry. -/
  | routeTableWrite
  | routeEntryEffect
  /-- n: the GIN. -/
  | cancelTokenArrival
  /-- core, ctx, id: the entry. -/
  | cstabLoad
  | collAccept
  /-- id: the instance, n: the step. -/
  | collStepStart
  /-- n: source chip, m: tag, id: GIN, bytes. -/
  | collMessageArrival
  | collStepComplete
  -- launching, placing and ending
  /-- id: the group of entries. -/
  | deviceLaunchWrite
  /-- n: the queue. -/
  | queueHeadFetch
  | queueHeadReread
  | launchQueueService
  | portionHandout
  /-- n: the die. -/
  | placeTask
  /-- core, id: the launch. -/
  | preloadWrite
  /-- core, ctx. -/
  | taskStart
  | powerWindow
  /-- n: the die. -/
  | grantRecompute
  | permitAudit
  | permitAuditEnd
  /-- id: the launch. -/
  | launchComplete
  /-- n: the queue. -/
  | completionRecordWrite
  | faultRecordRemove
  -- pre-emption, debug, containment, moves
  /-- core, v: the value of PMCTL. -/
  | preemptRequest
  | debugHalt
  | resume
  /-- core, ctx. -/
  | preemptWindowExpiry
  | preemptSave
  /-- id: the launch, n: the old core, m: the new core. -/
  | launchMove
  /-- n: the cluster over the package; flag: the whole die n. -/
  | containmentReset
  /-- n: the die. -/
  | spareClusterEnable
  /-- n: the die of the table, id: the ASID, v: the virtual address, m: the new frame. -/
  | pageMove
  /-- flag: the safe tier is a chip, m: the chip. -/
  | checkpointDrainOpen
  /-- id: the unit. -/
  | checkpointUnitDrained
  | checkpointDrainClose
  | safeTierFault
  -- power on and the host
  | packagePowerOnReset
  /-- n: the queue, v: the value written. -/
  | launchQueueEnable
  | launchQueueDisable
  | launchQueueNotify
  /-- v: the GIN. -/
  | lqcanset
  | lqcanclr
  /-- v: the value written. -/
  | fqres
  /-- n: the die, v: the value written. -/
  | htinv
  | htinvComplete
  /-- n: the queue, v: the value written. -/
  | completionRingEnable
  /-- n: the queue. -/
  | lrqClose
  /-- reg: the register, v: the value. -/
  | registerWrite
  /-- id: the address, bytes. -/
  | hostPortMemoryWrite
  deriving DecidableEq, Repr

end Sys2Proof
end

