-- ==== Sys2Proof/WellFormed.lean ====
section
/-! DEFINITION. Which instructions an encoding can say: the bounds the spec puts on fields that a constructor's type does
not already bound (R122, R151, R184). An event has no encoding and is always well formed. -/

namespace Sys2Proof

/-- Width of a format in bits (R44). -/
def Ty.width : Ty → Nat
  | .f64 | .i64 | .n64 => 64
  | .f32 | .i32 | .n32 => 32
  | .f16 | .bf16 | .i16 | .n16 => 16
  | .e4m3 | .e5m2 | .i8 | .n8 => 8

/-- Elements of a vector register (R180). -/
def Ty.count (t : Ty) : Nat := 16384 / t.width

/-- The system register map (R431). -/
def validSysreg (n : Nat) : Bool :=
  n ≤ 4 || n = 0x30 || n = 0x31 || (0x100 ≤ n && n ≤ 0x112) || (0x114 ≤ n && n ≤ 0x11A) || (0x200 ≤ n && n ≤ 0x2FF)

/-- Limits of a conversion part: p < P (R203). -/
def partOk (src dst : Ty) (p : Nat) : Bool := p * min src.width dst.width < max src.width dst.width

/-- Bytes of a Billet record by format code 0 to 2 (R62, R207). -/
def recordBytes : Nat → Nat
  | 0 => 144
  | 1 => 96
  | _ => 64

/-- The limits of R207, not checked when the format code is 3. -/
def BlkImm.ok (b : BlkImm) (ty : Ty) : Bool :=
  b.fmt.val = 3 ||
    (128 * (b.j0.val + b.bc.val + 1) ≤ ty.count && 16 * b.o.toNat + (b.bc.val + 1) * recordBytes b.fmt.val ≤ 2048)

/-- LOOP and LOOPI: len is not 0, and b is used only with a skip map (R108). -/
def loopOk (b : SReg) (len : BitVec 16) (sk : Bool) : Bool := len != 0#16 && (sk || b = 0)

/-- The limits of BFX and BFI (R169). -/
def bitfieldOk (p : Fin 64) (w : BitVec 7) : Bool := 1 ≤ w.toNat && p.val + w.toNat ≤ 64

/-- The instruction has an encoding, and is what its encoding decodes to. -/
def Instr.wellFormed : Instr → Bool
  | .loop _ b len _ sk | .loopi _ b len _ sk => loopOk b len sk
  | .sysrd _ r | .syswr _ r => validSysreg r.toNat
  | .bfx _ _ p w _ | .bfi _ _ p w => bitfieldOk p w
  | .vbcast ty _ _ _ (.elem _ idx) => idx.toNat < ty.count
  | .vcvt o dst p _ _ | .vcvtsr o dst p _ => partOk o.ty dst p.val
  | .vqblk ty _ _ _ _ blk => blk.ok ty
  | .vdqblk o _ _ blk => blk.ok o.ty
  -- the word with h = 0 and off = 0 is the tongs form's (R234)
  | .wload _ h off | .wloadNxt _ h off => h != 0 || off != 0
  | .tzero a n => a.val + n.val ≤ 127
  | .cpyx d _ _ _ _ _ _ => d.val % 4 = 0 && d.val != 0
  | _ => true

end Sys2Proof
end

