-- ==== Sys2Proof/Decode.lean ====
section
/-! DEFINITION. The decoder of slot words and bundles (R101, R105 to R123), total on every word, and after it the encoder,
both written from the formats of R108 to R112 and the opcode map R117 to R121. -/

namespace Sys2Proof

/-- Why a slot word names no instruction (R123). -/
inductive DecodeErr where
  | illegalOpcode | wrongSlot | reservedField
  deriving DecidableEq, Repr

/-- The answer of a slot decoder. -/
abbrev Dec := Except DecodeErr Instr

/-- Bits [lo+n−1 : lo] of w. -/
def fld (w lo n : Nat) : Nat := w / 2 ^ lo % 2 ^ n

/-- The instruction when the unused fields are zero and the used ones hold no reserved code; the reserved-field trap
otherwise (R107, R115, R122). -/
def ok (c : Bool) (i : Instr) : Dec := if c then .ok i else .error .reservedField

/-- A coded field: its meaning, or the reserved-field trap (R122). -/
def code {α : Type} (o : Option α) : Except DecodeErr α :=
  match o with
  | some a => .ok a
  | none => .error .reservedField

/-- Scalar register number at bit lo. -/
def sr (w lo : Nat) : SReg := Fin.ofNat 64 (w / 2 ^ lo)
/-- Vector register, handle or binding number at bit lo (4 bits). -/
def vr (w lo : Nat) : Fin 16 := Fin.ofNat 16 (w / 2 ^ lo)
/-- Mask register number at bit lo (3 bits). -/
def kr (w lo : Nat) : KReg := Fin.ofNat 8 (w / 2 ^ lo)
/-- One bit. -/
def bit (w lo : Nat) : Bool := w / 2 ^ lo % 2 = 1

/-- ty codes (R44); 0xE and 0xF are reserved (R45). -/
def tyOf : Nat → Option Ty
  | 0 => some .f64 | 1 => some .f32 | 2 => some .f16 | 3 => some .bf16 | 4 => some .e4m3 | 5 => some .e5m2
  | 6 => some .i8 | 7 => some .i16 | 8 => some .i32 | 9 => some .i64
  | 10 => some .n8 | 11 => some .n16 | 12 => some .n32 | 13 => some .n64
  | _ => none

/-- The code of a format (R44). -/
def Ty.code : Ty → Nat
  | .f64 => 0 | .f32 => 1 | .f16 => 2 | .bf16 => 3 | .e4m3 => 4 | .e5m2 => 5 | .i8 => 6 | .i16 => 7 | .i32 => 8
  | .i64 => 9 | .n8 => 10 | .n16 => 11 | .n32 => 12 | .n64 => 13

/-- Rounding codes (R49). -/
def rmOf : Nat → Option Rm
  | 0 => some .rne | 1 => some .rtz | 2 => some .rup | 3 => some .rdn | 4 => some .rna | 7 => some .ctx
  | _ => none

/-- The code of a rounding mode (R49). -/
def Rm.code : Rm → Nat
  | .rne => 0 | .rtz => 1 | .rup => 2 | .rdn => 3 | .rna => 4 | .ctx => 7

/-- BRC conditions (R108). -/
def condOf : Nat → Option Cond
  | 0 => some .eq | 1 => some .ne | 2 => some .lt | 3 => some .ge | 4 => some .ltu | 5 => some .geu
  | _ => none

/-- The code of a BRC condition (R108). -/
def Cond.code : Cond → Nat
  | .eq => 0 | .ne => 1 | .lt => 2 | .ge => 3 | .ltu => 4 | .geu => 5

/-- Scope codes (R126). -/
def scopeOf : Nat → Option Scope
  | 0 => some .core | 1 => some .clus | 2 => some .die | 3 => some .pkg | 4 => some .sys
  | _ => none

/-- The code of a scope (R126). -/
def Scope.code : Scope → Nat
  | .core => 0 | .clus => 1 | .die => 2 | .pkg => 3 | .sys => 4

/-- Size codes of m.k (R289). -/
def sizeOf : Nat → Option Size
  | 0 => some .b | 1 => some .h | 2 => some .w | 3 => some .d | 4 => some .bs | 5 => some .hs | 6 => some .ws
  | _ => none

/-- The code of a size (R289). -/
def Size.code : Size → Nat
  | .b => 0 | .h => 1 | .w => 2 | .d => 3 | .bs => 4 | .hs => 5 | .ws => 6

/-- Atomic operations (R311). -/
def amoOf : Nat → Option AmoOp
  | 0 => some .swap | 1 => some .add | 2 => some .and | 3 => some .or | 4 => some .xor | 5 => some .min | 6 => some .max
  | 7 => some .minu | 8 => some .maxu
  | _ => none

/-- The code of an atomic operation (R311). -/
def AmoOp.code : AmoOp → Nat
  | .swap => 0 | .add => 1 | .and => 2 | .or => 3 | .xor => 4 | .min => 5 | .max => 6 | .minu => 7 | .maxu => 8

/-- ACQ comparisons (R368). -/
def acqOf : Nat → Option AcqCmp
  | 0 => some .eq | 1 => some .ne | 2 => some .ge | 3 => some .geu | 4 => some .gt | 5 => some .gtu
  | _ => none

/-- The code of an ACQ comparison (R368). -/
def AcqCmp.code : AcqCmp → Nat
  | .eq => 0 | .ne => 1 | .ge => 2 | .geu => 3 | .gt => 4 | .gtu => 5

/-- Mode selections of FPMODE (R163). -/
def modeOf : Nat → Option ModeSel
  | 0 => some .keep | 1 => some .exposed | 2 => some .interlocked
  | _ => none

/-- The code of a mode selection (R163). -/
def ModeSel.code : ModeSel → Nat
  | .keep => 0 | .exposed => 1 | .interlocked => 2

/-- Home-die hints (R23): 0 to 7, or 0xF for none. -/
def hintOf (n : Nat) : Option Hint :=
  if h : n < 8 then some (some ⟨n, h⟩) else if n = 15 then some none else none

/-- The code of a hint (R23). -/
def hintCode : Hint → Nat
  | some d => d.val
  | none => 15

/-- A number below n. -/
def finOf (n x : Nat) : Option (Fin n) := if h : x < n then some ⟨x, h⟩ else none

/-- A flag as a bit. -/
def Bool.code (b : Bool) : Nat := if b then 1 else 0

/-- A control operation is valid only in C (R117). -/
def ctl (c : Bool) (r : Dec) : Dec := if c then r else .error .wrongSlot
/-- A ring operation is valid only in S (R117). -/
def ring (c : Bool) (r : Dec) : Dec := if c then .error .wrongSlot else r

/-- Format RR with d, a and b used (R108). -/
def rr3 (w : Nat) (i : SReg → SReg → SReg → Instr) : Dec := ok (fld w 26 22 = 0) (i (sr w 8) (sr w 14) (sr w 20))
/-- Format RR with d and a used (R108). -/
def rr2 (w : Nat) (i : SReg → SReg → Instr) : Dec := ok (fld w 20 28 = 0) (i (sr w 8) (sr w 14))
/-- Format RI with d, a and a signed 28-bit immediate (R108). -/
def ri (w : Nat) (i : SReg → SReg → BitVec 28 → Instr) : Dec := .ok (i (sr w 8) (sr w 14) (BitVec.ofNat 28 (w / 2 ^ 20)))
/-- Format RI with a shift amount 0 to 63 (R165). -/
def riSh (w : Nat) (i : SReg → SReg → Fin 64 → Instr) : Dec :=
  ok (fld w 26 22 = 0) (i (sr w 8) (sr w 14) (Fin.ofNat 64 (w / 2 ^ 20)))
/-- Format RF with d, a, b, ty, rm, sat (R108). -/
def rf3 (w : Nat) (i : Ty → SReg → SReg → SReg → Rm → Bool → Instr) : Dec := do
  let ty ← code (tyOf (fld w 26 4))
  let rm ← code (rmOf (fld w 40 3))
  ok (fld w 30 10 = 0 && fld w 44 4 = 0) (i ty (sr w 8) (sr w 14) (sr w 20) rm (bit w 43))
/-- Format RI of the ring instructions with handle d and a (R175, R176). -/
def rhi (w : Nat) (i : HReg → SReg → BitVec 28 → Instr) : Dec :=
  ok (fld w 8 6 < 16) (i (vr w 8) (sr w 14) (BitVec.ofNat 28 (w / 2 ^ 20)))

/-- The instruction of a 48-bit word in slot C (c) or S (R117, R123). -/
def decodeCS (c : Bool) (w : Nat) : Dec :=
  match w % 256 with
  | 0x00 => ok (w = 0) .nop
  | 0x01 => ctl c (ok (fld w 8 16 = 0) (.br (BitVec.ofNat 24 (w / 2 ^ 24))))
  | 0x02 => ctl c (do
      let cond ← code (condOf (fld w 8 4))
      .ok (.brc cond (sr w 12) (sr w 18) (BitVec.ofNat 24 (w / 2 ^ 24))))
  | 0x03 => ctl c (ok (fld w 8 4 = 0 && fld w 18 6 = 0) (.call (sr w 12) (BitVec.ofNat 24 (w / 2 ^ 24))))
  | 0x04 => ctl c (ok (fld w 8 6 = 0 && fld w 20 28 = 0) (.ret (sr w 14)))
  | 0x05 => ctl c (ok (fld w 8 6 = 0) (.jmpi (sr w 14) (BitVec.ofNat 28 (w / 2 ^ 20))))
  | 0x06 => ctl c (ok (loopOk (sr w 16) (BitVec.ofNat 16 (w / 2 ^ 22)) (bit w 9) && fld w 38 10 = 0)
      (.loop (sr w 10) (sr w 16) (BitVec.ofNat 16 (w / 2 ^ 22)) (bit w 8) (bit w 9)))
  | 0x07 => ctl c (ok (loopOk (sr w 16) (BitVec.ofNat 16 (w / 2 ^ 22)) (bit w 9) && fld w 10 6 = 0)
      (.loopi (BitVec.ofNat 10 (w / 2 ^ 38)) (sr w 16) (BitVec.ofNat 16 (w / 2 ^ 22)) (bit w 8) (bit w 9)))
  | 0x08 => ctl c (ok (fld w 8 40 = 0) .lexit)
  | 0x09 => ctl c (do
      let n ← code (finOf 6 (fld w 14 6))
      ok (fld w 20 28 = 0) (.lidx (sr w 8) n))
  | 0x0A => ctl c (ok (fld w 8 12 = 0) (.trap (BitVec.ofNat 28 (w / 2 ^ 20))))
  | 0x0B => ctl c (ok (fld w 14 18 = 0 && validSysreg (fld w 32 16)) (.sysrd (sr w 8) (BitVec.ofNat 16 (w / 2 ^ 32))))
  | 0x0C => ctl c (ok (fld w 8 6 = 0 && fld w 20 12 = 0 && validSysreg (fld w 32 16))
      (.syswr (sr w 14) (BitVec.ofNat 16 (w / 2 ^ 32))))
  | 0x0D => ctl c (do
      let rm ← code (rmOf (fld w 20 3))
      let m ← code (modeOf (fld w 23 2))
      ok (fld w 14 6 = 0 && fld w 25 23 = 0) (.fpmode (sr w 8) rm m))
  | 0x0E => ctl c (ok (fld w 14 34 = 0) (.cyc (sr w 8)))
  | 0x20 => rr3 w .add
  | 0x21 => rr3 w .sub
  | 0x22 => ri w .addi
  | 0x23 => rr3 w .and
  | 0x24 => rr3 w .or
  | 0x25 => rr3 w .xor
  | 0x26 => ri w .andi
  | 0x27 => ri w .ori
  | 0x28 => ri w .xori
  | 0x29 => rr3 w .shl
  | 0x2A => rr3 w .shr
  | 0x2B => rr3 w .sra
  | 0x2C => riSh w .shli
  | 0x2D => riSh w .shri
  | 0x2E => riSh w .srai
  | 0x2F => rr3 w .mul
  | 0x30 => rr3 w .mulh
  | 0x31 => rr3 w .mulhu
  | 0x32 => rr3 w .div
  | 0x33 => rr3 w .divu
  | 0x34 => rr3 w .rem
  | 0x35 => rr3 w .remu
  | 0x36 => rr3 w .min
  | 0x37 => rr3 w .max
  | 0x38 => rr3 w .minu
  | 0x39 => rr3 w .maxu
  | 0x3A => rr3 w .seq
  | 0x3B => rr3 w .slt
  | 0x3C => rr3 w .sltu
  | 0x3D => rr3 w .sel
  | 0x3E => rr2 w .clz
  | 0x3F => rr2 w .ctz
  | 0x40 => rr2 w .popc
  | 0x41 => .ok (.li (sr w 8) (BitVec.ofNat 32 (w / 2 ^ 14)) (Fin.ofNat 4 (w / 2 ^ 46)))
  | 0x42 => ok (bitfieldOk (Fin.ofNat 64 (w / 2 ^ 20)) (BitVec.ofNat 7 (w / 2 ^ 26)) && fld w 34 14 = 0)
      (.bfx (sr w 8) (sr w 14) (Fin.ofNat 64 (w / 2 ^ 20)) (BitVec.ofNat 7 (w / 2 ^ 26)) (bit w 33))
  | 0x43 => ok (bitfieldOk (Fin.ofNat 64 (w / 2 ^ 20)) (BitVec.ofNat 7 (w / 2 ^ 26)) && fld w 33 15 = 0)
      (.bfi (sr w 8) (sr w 14) (Fin.ofNat 64 (w / 2 ^ 20)) (BitVec.ofNat 7 (w / 2 ^ 26)))
  | 0x50 => rf3 w .fadd
  | 0x51 => rf3 w .fsub
  | 0x52 => rf3 w .fmul
  | 0x53 => do
      let ty ← code (tyOf (fld w 26 4))
      let rm ← code (rmOf (fld w 40 3))
      ok (fld w 36 4 = 0 && fld w 44 4 = 0) (.ffma ty (sr w 8) (sr w 14) (sr w 20) (sr w 30) rm (bit w 43))
  | 0x54 => rf3 w .fmin
  | 0x55 => rf3 w .fmax
  | 0x56 => do
      let ty ← code (tyOf (fld w 26 4))
      let p ← code (tyOf (fld w 36 4))
      ok (fld w 30 6 = 0 && fld w 40 8 = 0) (.fcmp ty (sr w 8) (sr w 14) (sr w 20) p)
  | 0x57 => do
      let ty ← code (tyOf (fld w 26 4))
      let t2 ← code (tyOf (fld w 36 4))
      let rm ← code (rmOf (fld w 40 3))
      ok (fld w 20 6 = 0 && fld w 30 6 = 0 && fld w 44 4 = 0) (.fcvt ty t2 (sr w 8) (sr w 14) rm (bit w 43))
  | 0x58 => rf3 w .fdiv
  | 0x59 => do
      let ty ← code (tyOf (fld w 26 4))
      let rm ← code (rmOf (fld w 40 3))
      ok (fld w 20 6 = 0 && fld w 30 10 = 0 && fld w 44 4 = 0) (.fsqrt ty (sr w 8) (sr w 14) rm (bit w 43))
  | 0x60 => ring c (ok (fld w 8 6 < 16 && fld w 20 28 = 0) (.hset (vr w 8) (sr w 14)))
  | 0x61 => ring c (rhi w .hadvf)
  | 0x62 => ring c (rhi w .hadvc)
  | 0x63 => ring c (ok (fld w 14 6 < 16 && fld w 23 25 = 0) (.hqry (sr w 8) (vr w 14) (Fin.ofNat 8 (w / 2 ^ 20))))
  | 0x64 => ring c (ok (fld w 8 6 < 16) (.hwait (vr w 8) (sr w 14) (BitVec.ofNat 27 (w / 2 ^ 20)) (bit w 47)))
  | _ => .error .illegalOpcode

/-- The second operand of a bsrc instruction; the option bits [60:57] of the word are the instruction's own (R183). -/
def bsrcOf (w : Nat) : Except DecodeErr BSrc :=
  match fld w 62 2 with
  | 0 => if fld w 36 21 = 0 then .ok (.vec (vr w 20)) else .error .reservedField
  | 1 => if fld w 20 4 = 0 && fld w 42 15 = 0 then .ok (.scal (sr w 36)) else .error .reservedField
  | 2 => if fld w 20 4 = 0 then .ok (.imm (BitVec.ofNat 21 (w / 2 ^ 36))) else .error .reservedField
  | _ => .error .reservedField

/-- The fields common to element-wise instructions (R109). -/
def vopOf (w : Nat) : Except DecodeErr VOp := do
  let ty ← code (tyOf (fld w 8 4))
  .ok ⟨ty, vr w 12, vr w 16, kr w 28, bit w 31⟩

/-- d, a, B, rm, sat; c unused (R185). -/
def vb (w : Nat) (i : VOp → BSrc → Rm → Bool → Instr) : Dec := do
  let o ← vopOf w
  let b ← bsrcOf w
  let rm ← code (rmOf (fld w 32 3))
  ok (fld w 24 4 = 0 && fld w 57 5 = 0) (i o b rm (bit w 35))
/-- d, a, B, c, rm, sat (R185). -/
def vbc (w : Nat) (i : VOp → BSrc → VReg → Rm → Bool → Instr) : Dec := do
  let o ← vopOf w
  let b ← bsrcOf w
  let rm ← code (rmOf (fld w 32 3))
  ok (fld w 57 5 = 0) (i o b (vr w 24) rm (bit w 35))
/-- d, a, B, sat (R185). -/
def vbs (w : Nat) (i : VOp → BSrc → Bool → Instr) : Dec := do
  let o ← vopOf w
  let b ← bsrcOf w
  ok (fld w 24 4 = 0 && fld w 32 3 = 0 && fld w 57 5 = 0) (i o b (bit w 35))
/-- d, a, B (R185). -/
def vb0 (w : Nat) (i : VOp → BSrc → Instr) : Dec := do
  let o ← vopOf w
  let b ← bsrcOf w
  ok (fld w 24 4 = 0 && fld w 32 4 = 0 && fld w 57 5 = 0) (i o b)
/-- d, a, rm, sat; no immediate (R185). -/
def va (w : Nat) (i : VOp → Rm → Bool → Instr) : Dec := do
  let o ← vopOf w
  let rm ← code (rmOf (fld w 32 3))
  ok (fld w 20 8 = 0 && fld w 36 28 = 0) (i o rm (bit w 35))
/-- d, a, sat; no immediate (R185). -/
def vas (w : Nat) (i : VOp → Bool → Instr) : Dec := do
  let o ← vopOf w
  ok (fld w 20 8 = 0 && fld w 32 3 = 0 && fld w 36 28 = 0) (i o (bit w 35))
/-- d and a; no immediate (R185). -/
def va0 (w : Nat) (i : VOp → Instr) : Dec := do
  let o ← vopOf w
  ok (fld w 20 8 = 0 && fld w 32 32 = 0) (i o)
/-- Mask operation with the fields a mask names below 8 and the rest zero (R115, R185). -/
def kop (w : Nat) (used : Bool) (i : Instr) : Dec := ok (used && fld w 8 4 = 0 && fld w 24 12 = 0) i
/-- A reduction without rounding (R201, R202). -/
def vred (w : Nat) (i : Ty → VReg → VReg → KReg → Bool → Instr) : Dec := do
  let o ← vopOf w
  ok (fld w 20 8 = 0 && !o.z && fld w 32 3 = 0 && fld w 36 28 = 0) (i o.ty o.d o.a o.k (bit w 35))
/-- The Billet immediate (R207). -/
def blkOf (w : Nat) : BlkImm :=
  ⟨Fin.ofNat 4 (w / 2 ^ 36), Fin.ofNat 8 (w / 2 ^ 38), Fin.ofNat 8 (w / 2 ^ 41), BitVec.ofNat 7 (w / 2 ^ 44)⟩

/-- VBCAST by its source (R198). -/
def vbcastOf (o : VOp) (w : Nat) : Dec :=
  match fld w 62 2 with
  | 0 => ok (fld w 20 8 = 0 && fld w 32 4 = 0 && fld w 36 11 < o.ty.count && fld w 47 15 = 0)
      (.vbcast o.ty o.d o.k o.z (.elem o.a (BitVec.ofNat 11 (w / 2 ^ 36))))
  | 1 => ok (fld w 20 8 = 0 && fld w 32 4 = 0 && fld w 16 4 = 0 && fld w 42 20 = 0)
      (.vbcast o.ty o.d o.k o.z (.scal (sr w 36)))
  | 2 => ok (fld w 20 8 = 0 && fld w 32 4 = 0 && fld w 16 4 = 0 && fld w 57 5 = 0)
      (.vbcast o.ty o.d o.k o.z (.imm (BitVec.ofNat 21 (w / 2 ^ 36))))
  | _ => .error .reservedField

/-- The instruction of a 64-bit word in slot V0 or V1 (R118, R123). -/
def decodeV (w : Nat) : Dec :=
  match w % 256 with
  | 0x00 => ok (w = 0) .nop
  | 0x01 => vb w .vadd
  | 0x02 => vb w .vsub
  | 0x03 => vb w .vmul
  | 0x04 => vbc w .vfma
  | 0x05 => vbc w .vfms
  | 0x06 => vbc w .vfnma
  | 0x07 => vbs w .vmin
  | 0x08 => vbs w .vmax
  | 0x09 => vas w .vabs
  | 0x0A => vas w .vneg
  | 0x0B => vb w .vdiv
  | 0x0C => va w .vsqrt
  | 0x0D => va w .vrcp
  | 0x0E => va w .vrsq
  | 0x0F => va w .vexp2
  | 0x10 => va w .vlog2
  | 0x11 => vb w .vscalb
  | 0x20 => vbs w .viadd
  | 0x21 => vbs w .visub
  | 0x22 => vbs w .vimul
  | 0x23 => do
      let o ← vopOf w
      let b ← bsrcOf w
      ok (fld w 32 3 = 0 && fld w 57 5 = 0) (.vimad o b (vr w 24) (bit w 35))
  | 0x24 => vb0 w .vimin
  | 0x25 => vb0 w .vimax
  | 0x26 => vb0 w .vand
  | 0x27 => vb0 w .vor
  | 0x28 => vb0 w .vxor
  | 0x29 => vbs w .vshl
  | 0x2A => vb0 w .vshr
  | 0x2B => vb0 w .vsra
  | 0x2C => va0 w .vpopc
  | 0x2D => vas w .viabs
  | 0x30 => do
      let o ← vopOf w
      let b ← bsrcOf w
      ok (fld w 12 4 < 8 && fld w 24 4 = 0 && fld w 32 4 = 0 && fld w 61 1 = 0)
        (.vcmp o.ty (kr w 12) o.a b o.k o.z (Fin.ofNat 8 (w / 2 ^ 57)) (bit w 60))
  | 0x31 => do
      let o ← vopOf w
      ok (fld w 12 4 < 8 && fld w 20 8 = 0 && fld w 32 4 = 0 && fld w 46 18 = 0)
        (.vclass o.ty (kr w 12) o.a o.k o.z (BitVec.ofNat 9 (w / 2 ^ 36)) (bit w 45))
  | 0x38 => kop w (fld w 12 4 < 8 && fld w 16 4 < 8 && fld w 20 4 < 8 && fld w 36 28 = 0)
      (.kand (kr w 12) (kr w 16) (kr w 20))
  | 0x39 => kop w (fld w 12 4 < 8 && fld w 16 4 < 8 && fld w 20 4 < 8 && fld w 36 28 = 0)
      (.kor (kr w 12) (kr w 16) (kr w 20))
  | 0x3A => kop w (fld w 12 4 < 8 && fld w 16 4 < 8 && fld w 20 4 < 8 && fld w 36 28 = 0)
      (.kxor (kr w 12) (kr w 16) (kr w 20))
  | 0x3B => kop w (fld w 12 4 < 8 && fld w 16 4 < 8 && fld w 20 4 = 0 && fld w 36 28 = 0) (.knot (kr w 12) (kr w 16))
  | 0x3C => kop w (fld w 12 4 = 0 && fld w 16 4 < 8 && fld w 20 4 = 0 && fld w 42 22 = 0) (.kpopc (sr w 36) (kr w 16))
  | 0x3D =>
      match fld w 45 2 with
      | 0 => kop w (fld w 12 4 < 8 && fld w 16 4 < 8 && fld w 20 4 = 0 && fld w 36 9 = 0 && fld w 47 17 = 0)
          (.kmov (.mask (kr w 12) (kr w 16)))
      | 1 => kop w (fld w 12 4 < 8 && fld w 16 4 = 0 && fld w 20 4 = 0 && fld w 47 17 = 0)
          (.kmov (.toChunk (kr w 12) (Fin.ofNat 8 (w / 2 ^ 42)) (sr w 36)))
      | 2 => kop w (fld w 12 4 = 0 && fld w 16 4 < 8 && fld w 20 4 = 0 && fld w 47 17 = 0)
          (.kmov (.fromChunk (sr w 36) (kr w 16) (Fin.ofNat 8 (w / 2 ^ 42))))
      | _ => .error .reservedField
  | 0x40 => va0 w .vmov
  | 0x41 => do
      let o ← vopOf w
      ok (fld w 24 4 < 8 && fld w 32 32 = 0) (.vsel o (vr w 20) (kr w 24))
  | 0x42 => do
      let o ← vopOf w
      vbcastOf o w
  | 0x43 => do
      let o ← vopOf w
      ok (fld w 16 12 = 0 && fld w 32 4 = 0)
        (.viota o.ty o.d o.k o.z (BitVec.ofNat 16 (w / 2 ^ 36)) (BitVec.ofNat 12 (w / 2 ^ 52)))
  | 0x44 => do
      let o ← vopOf w
      ok (fld w 24 4 = 0 && fld w 32 25 = 0 && fld w 58 6 = 0) (.vperm o (vr w 20) (bit w 57))
  | 0x45 => do
      let o ← vopOf w
      ok (fld w 20 8 = 0 && fld w 32 4 = 0 && fld w 47 17 = 0) (.vrot o (BitVec.ofNat 11 (w / 2 ^ 36)))
  | 0x46 => do
      let ty ← code (tyOf (fld w 8 4))
      ok (fld w 12 4 = 0 && fld w 20 16 = 0 && fld w 59 5 = 0)
        (.vextr ty (sr w 36) (vr w 16) (sr w 42) (BitVec.ofNat 11 (w / 2 ^ 48)))
  | 0x47 => do
      let ty ← code (tyOf (fld w 8 4))
      ok (fld w 16 20 = 0 && fld w 59 5 = 0)
        (.vins ty (vr w 12) (sr w 36) (sr w 42) (BitVec.ofNat 11 (w / 2 ^ 48)))
  | 0x50 => do
      let o ← vopOf w
      let rm ← code (rmOf (fld w 32 3))
      ok (fld w 20 8 = 0 && !o.z && fld w 36 28 = 0) (.vrsum o.ty o.d o.a o.k rm (bit w 35))
  | 0x51 => vred w .vrmax
  | 0x52 => vred w .vrmin
  | 0x53 => vred w .virsum
  | 0x58 => do
      let o ← vopOf w
      let dst ← code (tyOf (fld w 36 4))
      let rm ← code (rmOf (fld w 32 3))
      ok (fld w 20 8 = 0 && partOk o.ty dst (fld w 40 3) && fld w 43 21 = 0)
        (.vcvt o dst (Fin.ofNat 8 (w / 2 ^ 40)) rm (bit w 35))
  | 0x59 => do
      let o ← vopOf w
      let dst ← code (tyOf (fld w 36 4))
      ok (fld w 20 8 = 0 && fld w 32 3 = 0 && partOk o.ty dst (fld w 40 3) && fld w 43 21 = 0)
        (.vcvtsr o dst (Fin.ofNat 8 (w / 2 ^ 40)) (bit w 35))
  | 0x5A => do
      let ty ← code (tyOf (fld w 8 4))
      let rm ← code (rmOf (fld w 32 3))
      ok (fld w 20 12 = 0 && (blkOf w).ok ty && fld w 51 13 = 0)
        (.vqblk ty (vr w 12) (vr w 16) rm (bit w 35) (blkOf w))
  | 0x5B => do
      let o ← vopOf w
      let rm ← code (rmOf (fld w 32 3))
      ok (fld w 20 8 = 0 && (blkOf w).ok o.ty && fld w 51 13 = 0) (.vdqblk o rm (bit w 35) (blkOf w))
  | 0x5C => do
      let o ← vopOf w
      ok (fld w 24 4 = 0 && fld w 32 3 = 0 && fld w 36 28 = 0) (.vpack o (vr w 20) (bit w 35))
  | 0x5D => do
      let o ← vopOf w
      ok (fld w 20 8 = 0 && fld w 32 4 = 0 && fld w 37 27 = 0) (.vunpk o (bit w 36))
  | _ => .error .illegalOpcode

/-- m.imm as a signed offset. -/
def mimm (w : Nat) : BitVec 24 := BitVec.ofNat 24 (w / 2 ^ 37)
/-- A form that does not reach global memory takes hint 0xF (R289), and the reserved bits are zero. -/
def noHint (w : Nat) : Bool := fld w 30 4 = 15 && fld w 61 3 = 0
/-- m.sc is unused. -/
def noSc (w : Nat) : Bool := fld w 34 3 = 0

/-- Scalar scratchpad forms (R293). -/
def mSc (w : Nat) (i : SReg → SReg → Size → BitVec 24 → Instr) : Dec := do
  let sz ← code (sizeOf (fld w 27 3))
  ok (noHint w && noSc w && fld w 21 6 = 0) (i (sr w 9) (sr w 15) sz (mimm w))
/-- Vector scratchpad forms of R294. -/
def mVs (w : Nat) (i : VReg → SReg → KReg → BitVec 24 → Instr) : Dec :=
  ok (noHint w && noSc w && fld w 9 6 < 16 && fld w 21 6 = 0) (i (vr w 9) (sr w 15) (kr w 27) (mimm w))
/-- Strided forms (R295). -/
def mVss (w : Nat) (i : VReg → SReg → SReg → KReg → BitVec 24 → Instr) : Dec :=
  ok (noHint w && noSc w && fld w 9 6 < 16) (i (vr w 9) (sr w 15) (sr w 21) (kr w 27) (mimm w))
/-- Gather and scatter forms (R296). -/
def mVsg (w : Nat) (i : VReg → SReg → VReg → KReg → BitVec 24 → Instr) : Dec :=
  ok (noHint w && noSc w && fld w 9 6 < 16 && fld w 21 6 < 16) (i (vr w 9) (sr w 15) (vr w 21) (kr w 27) (mimm w))
/-- Ring forms (R297). -/
def mVh (w : Nat) (i : VReg → HReg → KReg → BitVec 10 → Instr) : Dec :=
  ok (noHint w && noSc w && fld w 9 6 < 16 && fld w 15 6 < 16 && fld w 21 6 = 0 && fld w 47 14 = 0)
    (i (vr w 9) (vr w 15) (kr w 27) (BitVec.ofNat 10 (w / 2 ^ 37)))
/-- Tagged forms with a scope (R299). -/
def mTag (w : Nat) (i : SReg → SReg → Scope → BitVec 24 → Instr) : Dec := do
  let sc ← code (scopeOf (fld w 34 3))
  ok (noHint w && fld w 21 9 = 0) (i (sr w 9) (sr w 15) sc (mimm w))
/-- The place of a remote form (R301). -/
def placeOf (w : Nat) : Except DecodeErr Place := do
  let d ← code (finOf 8 (fld w 57 4))
  let c ← code (finOf 12 (fld w 53 4))
  .ok ⟨d, c, Fin.ofNat 4 (w / 2 ^ 51), bit w 50⟩
/-- Scalar global forms (R307). -/
def mG (w : Nat) (i : SReg → SReg → Size → Hint → BitVec 24 → Instr) : Dec := do
  let sz ← code (sizeOf (fld w 27 3))
  let h ← code (hintOf (fld w 30 4))
  ok (noSc w && fld w 21 6 = 0 && fld w 61 3 = 0) (i (sr w 9) (sr w 15) sz h (mimm w))
/-- Vector global forms (R308). -/
def mVg (w : Nat) (i : VReg → SReg → KReg → Hint → BitVec 24 → Instr) : Dec := do
  let h ← code (hintOf (fld w 30 4))
  ok (noSc w && fld w 9 6 < 16 && fld w 21 6 = 0 && fld w 61 3 = 0) (i (vr w 9) (sr w 15) (kr w 27) h (mimm w))
/-- Gather and scatter global forms (R309). -/
def mVgg (w : Nat) (i : VReg → SReg → VReg → KReg → Hint → BitVec 24 → Instr) : Dec := do
  let h ← code (hintOf (fld w 30 4))
  ok (noSc w && fld w 9 6 < 16 && fld w 21 6 < 16 && fld w 61 3 = 0)
    (i (vr w 9) (sr w 15) (vr w 21) (kr w 27) h (mimm w))
/-- Pins and cache control: a, b and an offset (R318, R319). -/
def mPin (w : Nat) (i : SReg → SReg → Hint → BitVec 24 → Instr) : Dec := do
  let h ← code (hintOf (fld w 30 4))
  ok (noSc w && fld w 9 6 = 0 && fld w 27 3 = 0 && fld w 61 3 = 0) (i (sr w 15) (sr w 21) h (mimm w))
/-- GWB and GINV (R319). -/
def mWb (w : Nat) (i : SReg → SReg → Hint → Scope → BitVec 24 → Instr) : Dec := do
  let h ← code (hintOf (fld w 30 4))
  let sc ← code (scopeOf (fld w 34 3))
  ok (fld w 9 6 = 0 && fld w 27 3 = 0 && fld w 61 3 = 0) (i (sr w 15) (sr w 21) h sc (mimm w))

/-- The instruction of a 64-bit word in slot M (R119, R123). -/
def decodeM (w : Nat) : Dec :=
  match w % 512 with
  | 0x000 => ok (w = 0) .nop
  | 0x001 => mSc w .sld
  | 0x002 => mSc w .sst
  | 0x003 => mVs w .vsld
  | 0x004 => mVs w .vsst
  | 0x005 => mVss w .vslds
  | 0x006 => mVss w .vssts
  | 0x007 => mVsg w .vsgath
  | 0x008 => mVsg w .vsscat
  | 0x009 => mVh w .vhld
  | 0x00A => mVh w .vhst
  | 0x010 => mTag w .ldf
  | 0x011 => mTag w .ldfe
  | 0x012 => mTag w .ste
  | 0x013 => mTag w .stf
  | 0x014 => ok (noHint w && noSc w && fld w 21 9 = 0) (.tagrd (sr w 9) (sr w 15) (mimm w))
  | 0x015 => ok (noHint w && noSc w && fld w 21 9 = 0) (.tagwr (sr w 9) (sr w 15) (mimm w))
  | 0x018 => do
      let sz ← code (sizeOf (fld w 27 3))
      let pl ← placeOf w
      ok (noHint w && noSc w && fld w 21 6 = 0) (.rsst (sr w 9) (sr w 15) sz pl (BitVec.ofNat 13 (w / 2 ^ 37)))
  | 0x019 => do
      let pl ← placeOf w
      ok (noHint w && noSc w && fld w 9 6 < 16 && fld w 21 6 = 0)
        (.rvst (vr w 9) (sr w 15) (kr w 27) pl (BitVec.ofNat 13 (w / 2 ^ 37)))
  | 0x01A => do
      let pl ← placeOf w
      ok (noHint w && noSc w && fld w 9 6 < 16 && fld w 21 6 = 0)
        (.mvst (vr w 9) (sr w 15) (kr w 27) pl.die pl.clus (BitVec.ofNat 4 (w / 2 ^ 49)) (BitVec.ofNat 12 (w / 2 ^ 37)))
  | 0x01B => do
      let sc ← code (scopeOf (fld w 34 3))
      let pl ← placeOf w
      ok (noHint w && fld w 21 9 = 0) (.rste (sr w 9) (sr w 15) sc pl (BitVec.ofNat 13 (w / 2 ^ 37)))
  | 0x020 => mG w .gld
  | 0x021 => mG w .gst
  | 0x022 => mVg w .vgld
  | 0x023 => mVg w .vgst
  | 0x024 => mVgg w .vggath
  | 0x025 => mVgg w .vgscat
  | 0x030 => do
      let sz ← code (sizeOf (fld w 27 3))
      let h ← code (hintOf (fld w 30 4))
      let sc ← code (scopeOf (fld w 34 3))
      let op ← code (amoOf (fld w 37 5))
      ok (fld w 42 22 = 0) (.amo (sr w 9) (sr w 15) (sr w 21) sz h sc op)
  | 0x031 => do
      let sz ← code (sizeOf (fld w 27 3))
      let h ← code (hintOf (fld w 30 4))
      let sc ← code (scopeOf (fld w 34 3))
      ok (fld w 37 27 = 0) (.cas (sr w 9) (sr w 15) (sr w 21) sz h sc)
  | 0x032 => do
      let sz ← code (sizeOf (fld w 27 3))
      let h ← code (hintOf (fld w 30 4))
      let op ← code (amoOf (fld w 37 5))
      ok (noSc w && fld w 21 6 = 0 && fld w 42 22 = 0) (.red (sr w 9) (sr w 15) sz h op)
  | 0x033 => do
      let h ← code (hintOf (fld w 30 4))
      let ty ← code (tyOf (fld w 37 4))
      ok (noSc w && fld w 21 9 = 0 && fld w 41 23 = 0) (.fred (sr w 9) (sr w 15) h ty)
  | 0x034 => do
      let sz ← code (sizeOf (fld w 27 3))
      let sc ← code (scopeOf (fld w 34 3))
      let op ← code (amoOf (fld w 37 5))
      ok (noHint w && fld w 42 19 = 0) (.samo (sr w 9) (sr w 15) (sr w 21) sz sc op)
  | 0x038 => do
      let h ← code (hintOf (fld w 30 4))
      ok (noSc w && fld w 9 6 = 0 && fld w 21 6 = 0 && fld w 28 2 = 0 && fld w 61 3 = 0)
        (.gpf (sr w 15) (bit w 27) h (mimm w))
  | 0x039 => mPin w .pin
  | 0x03A => mPin w .unpin
  | 0x03B => mWb w .gwb
  | 0x03C => mWb w .ginv
  | _ => .error .illegalOpcode

/-- The instruction of a 32-bit word in slot T (R111, R120, R123, R233 to R240). -/
def decodeT (w : Nat) : Dec :=
  match w % 16 with
  | 0 => ok (w = 0) .nop
  | 1 =>
      if fld w 11 4 = 0 && fld w 21 5 = 0 then
        ok (fld w 4 7 = 0 && fld w 26 6 = 0)
          (if bit w 15 then .wloadNxtTongs (Fin.ofNat 32 (w / 2 ^ 16)) else .wloadTongs (Fin.ofNat 32 (w / 2 ^ 16)))
      else
        ok (fld w 4 7 = 0 && fld w 26 6 = 0)
          (if bit w 15 then .wloadNxt (Fin.ofNat 32 (w / 2 ^ 16)) (vr w 11) (Fin.ofNat 32 (w / 2 ^ 21))
           else .wload (Fin.ofNat 32 (w / 2 ^ 16)) (vr w 11) (Fin.ofNat 32 (w / 2 ^ 21)))
  | 2 => ok (fld w 4 7 = 0 && fld w 15 6 = 0 && fld w 26 6 = 0) (.afeed (vr w 11) (Fin.ofNat 32 (w / 2 ^ 21)))
  | 3 => ok (fld w 11 15 = 0 && fld w 27 5 = 0)
      (if bit w 26 then .accumSet (Fin.ofNat 128 (w / 2 ^ 4)) else .accum (Fin.ofNat 128 (w / 2 ^ 4)))
  | 4 => ok (fld w 11 15 = 0 && fld w 27 5 = 0)
      (if bit w 26 then .drainClr (Fin.ofNat 128 (w / 2 ^ 4)) else .drain (Fin.ofNat 128 (w / 2 ^ 4)))
  | 5 => ok (fld w 4 28 = 0) .tswap
  | 6 => ok (fld w 11 10 = 0 && fld w 26 6 = 0 && fld w 4 7 + fld w 21 5 ≤ 127)
      (.tzero (Fin.ofNat 128 (w / 2 ^ 4)) (Fin.ofNat 32 (w / 2 ^ 21)))
  | 7 => ok (fld w 4 28 = 0) .tclose
  | _ => .error .illegalOpcode

/-- The instruction of a 48-bit word in slot E (R112, R121, R123, R334, R364). -/
def decodeE (w : Nat) : Dec :=
  match w % 256 with
  | 0x00 => ok (w = 0) .nop
  | 0x01 => do
      let sc ← code (scopeOf (fld w 32 3))
      ok (fld w 36 4 = 0 && fld w 46 2 = 0)
        (.cpy (sr w 8) (sr w 14) (sr w 20) (sr w 26) sc (Fin.ofNat 2 (w / 2 ^ 35)) (Fin.ofNat 64 (w / 2 ^ 40)))
  | 0x02 => do
      let sc ← code (scopeOf (fld w 32 3))
      ok (fld w 8 2 = 0 && fld w 8 6 != 0 && fld w 36 4 = 0 && fld w 46 2 = 0)
        (.cpyx (sr w 8) (sr w 14) (sr w 20) (sr w 26) sc (Fin.ofNat 2 (w / 2 ^ 35)) (Fin.ofNat 64 (w / 2 ^ 40)))
  | 0x03 => do
      let sel ← code (finOf 5 (fld w 40 8))
      ok (fld w 14 21 = 0 && fld w 36 4 = 0) (.cpq (sr w 8) (Fin.ofNat 2 (w / 2 ^ 35)) sel)
  | 0x08 => do
      let sel ← code (finOf 5 (fld w 35 5))
      ok (fld w 14 21 = 0 && fld w 46 2 = 0) (.tlrd (sr w 8) (Fin.ofNat 64 (w / 2 ^ 40)) sel)
  | 0x09 => do
      let sc ← code (scopeOf (fld w 32 3))
      ok (fld w 8 6 = 0 && fld w 20 12 = 0 && fld w 35 5 = 0 && fld w 46 2 = 0)
        (.tlwait (sr w 14) sc (Fin.ofNat 64 (w / 2 ^ 40)))
  | 0x0A => ok (fld w 8 6 = 0 && fld w 20 15 = 0 && fld w 36 4 = 0 && fld w 46 2 = 0)
      (.tladv (sr w 14) (bit w 35) (Fin.ofNat 64 (w / 2 ^ 40)))
  | 0x10 => do
      let sc ← code (scopeOf (fld w 32 3))
      ok (fld w 8 24 = 0 && fld w 35 13 = 0) (.fence sc)
  | 0x11 => do
      let sc ← code (scopeOf (fld w 32 3))
      let cmp ← code (acqOf (fld w 35 5))
      ok (fld w 8 6 = 0 && fld w 14 6 < 16 && fld w 26 6 = 0 && fld w 40 8 = 0) (.acq (vr w 14) (sr w 20) sc cmp)
  | 0x12 => do
      let sc ← code (scopeOf (fld w 32 3))
      ok (fld w 8 6 = 0 && fld w 14 6 < 16 && fld w 26 6 = 0 && fld w 35 13 = 0) (.rel (vr w 14) (sr w 20) sc)
  | 0x13 => do
      let sc ← code (scopeOf (fld w 32 3))
      let cmp ← code (acqOf (fld w 35 5))
      ok (fld w 14 6 < 16 && fld w 26 6 = 0 && fld w 40 8 = 0) (.acqp (sr w 8) (vr w 14) (sr w 20) sc cmp)
  | 0x14 => ok (fld w 8 6 < 16 && fld w 32 16 = 0) (.bind (vr w 8) (sr w 14) (sr w 20) (sr w 26))
  | 0x15 => ok (fld w 8 6 < 16 && fld w 14 34 = 0) (.unbind (vr w 8))
  | 0x16 => ok (fld w 8 40 = 0) .wack
  | 0x18 => do
      let k ← code (finOf 7 (fld w 40 8))
      ok (fld w 8 32 = 0) (.bara k)
  | 0x19 => do
      let k ← code (finOf 7 (fld w 40 8))
      ok (fld w 8 32 = 0) (.barw k)
  | 0x1A => do
      let k ← code (finOf 7 (fld w 40 8))
      ok (fld w 8 32 = 0) (.bar k)
  | 0x20 => ok (fld w 8 6 = 0 && fld w 20 20 = 0 && fld w 45 3 = 0) (.mregw (bit w 44) (vr w 40) (sr w 14))
  | 0x21 => ok (fld w 14 26 = 0 && fld w 45 3 = 0) (.mregr (sr w 8) (bit w 44) (vr w 40))
  | 0x28 => do
      let sc ← code (scopeOf (fld w 32 3))
      ok (fld w 8 6 = 0 && fld w 35 5 = 0 && fld w 46 2 = 0)
        (.send (sr w 14) (sr w 20) (sr w 26) sc (Fin.ofNat 64 (w / 2 ^ 40)))
  | 0x29 => do
      let sc ← code (scopeOf (fld w 32 3))
      ok (fld w 20 6 = 0 && fld w 35 5 = 0 && fld w 46 2 = 0)
        (.recv (sr w 8) (sr w 14) (sr w 26) sc (Fin.ofNat 64 (w / 2 ^ 40)))
  | 0x30 => do
      let sc ← code (scopeOf (fld w 32 3))
      ok (fld w 8 6 = 0 && fld w 20 12 = 0 && fld w 39 1 = 0 && fld w 46 2 = 0)
        (.coll (sr w 14) sc (vr w 35) (Fin.ofNat 64 (w / 2 ^ 40)))
  | 0x31 => ok (fld w 8 6 = 0 && fld w 20 6 = 0 && fld w 32 3 = 0 && fld w 39 9 = 0)
      (.cstab (sr w 14) (sr w 26) (vr w 35))
  | 0x38 => ok (fld w 8 6 = 0 && fld w 20 20 = 0 && fld w 45 3 = 0) (.launch (sr w 14) (Fin.ofNat 32 (w / 2 ^ 40)))
  | 0x39 => ok (fld w 8 6 = 0 && fld w 20 28 = 0) (.cancel (sr w 14))
  | 0x40 => ok (fld w 8 6 = 0 && fld w 20 28 = 0) (.bown (sr w 14))
  | 0x41 => ok (fld w 8 6 = 0 && fld w 20 28 = 0) (.brel (sr w 14))
  | 0x48 => ok (fld w 20 15 = 0 && fld w 36 4 = 0 && fld w 41 7 = 0) (.pwrq (sr w 8) (sr w 14) (bit w 35) (bit w 40))
  | _ => .error .illegalOpcode

/-- The decoder of one word by slot number 0 to 6 (R105). -/
def decodeSlot (slot w : Nat) : Dec :=
  match slot with
  | 0 => decodeCS true w
  | 1 => decodeCS false w
  | 2 => decodeM w
  | 3 | 4 => decodeV w
  | 5 => decodeT w
  | _ => decodeE w

/-- Lowest bit and width of a slot in the bundle (R105). -/
def slotBits : Nat → Nat × Nat
  | 0 => (16, 48)
  | 1 => (64, 48)
  | 2 => (112, 64)
  | 3 => (176, 64)
  | 4 => (240, 64)
  | 5 => (304, 32)
  | _ => (336, 48)

/-- The word of a slot (R105). -/
def slotWord (b : Nat) (slot : Nat) : Nat := fld b (slotBits slot).1 (slotBits slot).2

/-- The registers an instruction writes, for the destination rule (R116, R184). -/
def Instr.dests : Instr → List RegRef
  | .call a _ => [.s a]
  | .lidx d _ | .sysrd d _ | .fpmode d _ _ | .cyc d => [.s d]
  | .add d _ _ | .sub d _ _ | .addi d _ _ | .and d _ _ | .or d _ _ | .xor d _ _ | .andi d _ _ | .ori d _ _ | .xori d _ _
  | .shl d _ _ | .shr d _ _ | .sra d _ _ | .shli d _ _ | .shri d _ _ | .srai d _ _ | .mul d _ _ | .mulh d _ _
  | .mulhu d _ _ | .div d _ _ | .divu d _ _ | .rem d _ _ | .remu d _ _ | .min d _ _ | .max d _ _ | .minu d _ _
  | .maxu d _ _ | .seq d _ _ | .slt d _ _ | .sltu d _ _ | .sel d _ _ | .clz d _ | .ctz d _ | .popc d _ | .li d _ _
  | .bfx d _ _ _ _ | .bfi d _ _ _ => [.s d]
  | .fadd _ d _ _ _ _ | .fsub _ d _ _ _ _ | .fmul _ d _ _ _ _ | .ffma _ d _ _ _ _ _ | .fdiv _ d _ _ _ _
  | .fsqrt _ d _ _ _ | .fmin _ d _ _ _ _ | .fmax _ d _ _ _ _ | .fcmp _ d _ _ _ | .fcvt _ _ d _ _ _ => [.s d]
  | .hqry d _ _ => [.s d]
  | .vadd o _ _ _ | .vsub o _ _ _ | .vmul o _ _ _ | .vfma o _ _ _ _ | .vfms o _ _ _ _ | .vfnma o _ _ _ _
  | .vdiv o _ _ _ | .vsqrt o _ _ | .vmin o _ _ | .vmax o _ _ | .vabs o _ | .vneg o _ | .vscalb o _ _ _ | .vrcp o _ _
  | .vrsq o _ _ | .vexp2 o _ _ | .vlog2 o _ _ | .viadd o _ _ | .visub o _ _ | .vimul o _ _ | .vimad o _ _ _
  | .vimin o _ | .vimax o _ | .vand o _ | .vor o _ | .vxor o _ | .vpopc o | .viabs o _ | .vshl o _ _ | .vshr o _
  | .vsra o _ | .vmov o | .vsel o _ _ | .vperm o _ _ | .vrot o _ | .vcvt o _ _ _ _ | .vcvtsr o _ _ _ | .vdqblk o _ _ _
  | .vpack o _ _ | .vunpk o _ => [.v o.d]
  | .vbcast _ d _ _ _ | .viota _ d _ _ _ _ | .vins _ d _ _ _ | .vrsum _ d _ _ _ _ | .vrmax _ d _ _ _ | .vrmin _ d _ _ _
  | .virsum _ d _ _ _ | .vqblk _ d _ _ _ _ => [.v d]
  | .vcmp _ d _ _ _ _ _ _ | .vclass _ d _ _ _ _ _ | .kand d _ _ | .kor d _ _ | .kxor d _ _ | .knot d _ => [.k d]
  | .kmov (.mask d _) | .kmov (.toChunk d _ _) => [.k d]
  | .kmov (.fromChunk n _ _) | .kpopc n _ | .vextr _ n _ _ _ => [.s n]
  | .sld d _ _ _ | .ldf d _ _ _ | .ldfe d _ _ _ | .tagrd d _ _ | .gld d _ _ _ _ | .amo d _ _ _ _ _ _ | .cas d _ _ _ _ _
  | .samo d _ _ _ _ _ => [.s d]
  | .vsld d _ _ _ | .vslds d _ _ _ _ | .vsgath d _ _ _ _ | .vhld d _ _ _ | .vgld d _ _ _ _ | .vggath d _ _ _ _ _ => [.v d]
  | .cpq d _ _ | .tlrd d _ _ | .acqp d _ _ _ _ | .mregr d _ _ | .recv d _ _ _ _ | .pwrq d _ _ _ => [.s d]
  | _ => []

/-- s0 and k0 discard writes and are no destinations (R116). -/
def RegRef.isNull : RegRef → Bool
  | .s n => n = 0
  | .v _ => false
  | .k n => n = 0

/-- The later of two slots with one destination, in slot-number order (R116). -/
def destClash : List (Nat × Instr) → List RegRef → Option Nat
  | [], _ => none
  | (n, i) :: rest, seen =>
    let ds := i.dests.filter (fun r => !r.isNull)
    if ds.any (fun r => seen.contains r) then some n else destClash rest (ds ++ seen)

/-- The four header flags (R106). -/
structure Flags where
  fmk : Bool
  fyd : Bool
  fqp : Bool
  fnd : Bool
  deriving DecidableEq, Repr

/-- Slots in order, the first failure deciding (R123 step 3). -/
def decodeSlots (b : Nat) : List Nat → Except (DecodeErr × Nat) (List (Nat × Instr))
  | [] => .ok []
  | n :: ns =>
    match decodeSlot n (slotWord b n) with
    | .error e => .error (e, n)
    | .ok i =>
      match decodeSlots b ns with
      | .error e => .error e
      | .ok l => .ok ((n, i) :: l)

/-- A bundle: its flags and its slot instructions without NOPs, or the first failure with its slot number (R106, R116,
R123). -/
def decodeBundle (bundle : Bundle) : Except (DecodeErr × Nat) (Flags × List (Nat × Instr)) :=
  let b := bundle.toNat
  if fld b 4 12 != 0 then .error (.reservedField, 7)
  else
    match decodeSlots b [0, 1, 2, 3, 4, 5, 6] with
    | .error e => .error e
    | .ok l =>
      let used := l.filter (fun p => p.2 != .nop)
      match destClash used [] with
      | some n => .error (.reservedField, n)
      | none => .ok (⟨bit b 0, bit b 1, bit b 2, bit b 3⟩, used)

/-- The instruction of a word numbered as the opcode table numbers it: the width of the slot decides the slot; a 48-bit
word is read as the C slot reads it, else as S, else as E (each opcode space has its own meanings, so a word two slots
share is read as control or scalar first). -/
def decodeTableWord (nbits w : Nat) : Option Instr :=
  let first (l : List Nat) : Option Instr := l.findSome? (fun n => (decodeSlot n w).toOption)
  if nbits ≤ 32 then first [5]
  else if nbits ≤ 48 then first [0, 1, 6]
  else first [2, 3]

/-! ### The encoder -/

/-- The kinds of slot an instruction may stand in (R117 to R121). -/
inductive SlotKind where
  | c | s | cs | m | v | t | e
  deriving DecidableEq, Repr

/-- Field x at bit lo. -/
def at_ (x lo : Nat) : Nat := x * 2 ^ lo

/-- Format RR (R108). -/
def encRR (op : Nat) (d a b : SReg) : Nat := op + at_ d.val 8 + at_ a.val 14 + at_ b.val 20
/-- Format RI (R108). -/
def encRI (op : Nat) (d a : Nat) (imm : Nat) : Nat := op + at_ d 8 + at_ a 14 + at_ imm 20
/-- Format RF (R108). -/
def encRF (op : Nat) (ty : Ty) (d a b : SReg) (c ty2 : Nat) (rm : Nat) (sat : Bool) : Nat :=
  op + at_ d.val 8 + at_ a.val 14 + at_ b.val 20 + at_ ty.code 26 + at_ c 30 + at_ ty2 36 + at_ rm 40 +
    at_ (Bool.code sat) 43
/-- Format BR (R108). -/
def encBR (op cond a b : Nat) (off : BitVec 24) : Nat := op + at_ cond 8 + at_ a 12 + at_ b 18 + at_ off.toNat 24
/-- Format LP (R108). -/
def encLP (op a : Nat) (b : SReg) (len : BitVec 16) (cimm : Nat) (md sk : Bool) : Nat :=
  op + at_ (Bool.code md) 8 + at_ (Bool.code sk) 9 + at_ a 10 + at_ b.val 16 + at_ len.toNat 22 + at_ cimm 38
/-- The V format (R109). -/
def encV (op ty d a b c k : Nat) (z : Bool) (rm : Nat) (sat : Bool) (imm : Nat) : Nat :=
  op + at_ ty 8 + at_ d 12 + at_ a 16 + at_ b 20 + at_ c 24 + at_ k 28 + at_ (Bool.code z) 31 + at_ rm 32 +
    at_ (Bool.code sat) 35 + at_ imm 36
/-- The b field of a second operand (R183). -/
def BSrc.bField : BSrc → Nat
  | .vec b => b.val
  | _ => 0
/-- The bsrc and bval fields of a second operand (R183). -/
def BSrc.immField : BSrc → Nat
  | .vec _ => 0
  | .scal n => n.val + at_ 1 26
  | .imm v => v.toNat + at_ 2 26
/-- An element-wise instruction (R109, R183). -/
def encVO (op : Nat) (o : VOp) (b : Nat) (c : Nat) (rm : Nat) (sat : Bool) (imm : Nat) : Nat :=
  encV op o.ty.code o.d.val o.a.val b c o.k.val o.z rm sat imm
/-- The Billet immediate (R207). -/
def BlkImm.code (b : BlkImm) : Nat := b.fmt.val + at_ b.j0.val 2 + at_ b.bc.val 5 + at_ b.o.toNat 8
/-- The M format (R110). -/
def encM (op d a b k hint sc imm : Nat) : Nat :=
  op + at_ d 9 + at_ a 15 + at_ b 21 + at_ k 27 + at_ hint 30 + at_ sc 34 + at_ imm 37
/-- A remote place with its offset (R301). -/
def Place.code (p : Place) (off : BitVec 13) : Nat :=
  off.toNat + at_ (Bool.code p.half) 13 + at_ p.core.val 14 + at_ p.clus.val 16 + at_ p.die.val 20
/-- The T format (R111). -/
def encT (op acc h : Nat) (wb : Bool) (wrow off fl : Nat) : Nat :=
  op + at_ acc 4 + at_ h 11 + at_ (Bool.code wb) 15 + at_ wrow 16 + at_ off 21 + at_ fl 26
/-- The E format (R112). -/
def encE (op d a b c sc sub imm : Nat) : Nat :=
  op + at_ d 8 + at_ a 14 + at_ b 20 + at_ c 26 + at_ sc 32 + at_ sub 35 + at_ imm 40

/-- The slot kind and the word of a well-formed slot instruction; none for an event. NOP is given for slot C. -/
def encode : Instr → Option (SlotKind × Nat)
  | .nop => some (.cs, 0)
  | .br off => some (.c, encBR 0x01 0 0 0 off)
  | .brc cond a b off => some (.c, encBR 0x02 cond.code a.val b.val off)
  | .call a off => some (.c, encBR 0x03 0 a.val 0 off)
  | .ret a => some (.c, encRR 0x04 0 a 0)
  | .jmpi a imm => some (.c, encRI 0x05 0 a.val imm.toNat)
  | .loop a b len md sk => some (.c, encLP 0x06 a.val b len 0 md sk)
  | .loopi n b len md sk => some (.c, encLP 0x07 0 b len n.toNat md sk)
  | .lexit => some (.c, 0x08)
  | .lidx d n => some (.c, encRI 0x09 d.val n.val 0)
  | .trap x => some (.c, encRI 0x0A 0 0 x.toNat)
  | .sysrd d r => some (.c, 0x0B + at_ d.val 8 + at_ r.toNat 32)
  | .syswr a r => some (.c, 0x0C + at_ a.val 14 + at_ r.toNat 32)
  | .fpmode d rm m => some (.c, encRI 0x0D d.val 0 (rm.code + at_ m.code 3))
  | .cyc d => some (.c, encRR 0x0E d 0 0)
  | .add d a b => some (.cs, encRR 0x20 d a b)
  | .sub d a b => some (.cs, encRR 0x21 d a b)
  | .and d a b => some (.cs, encRR 0x23 d a b)
  | .or d a b => some (.cs, encRR 0x24 d a b)
  | .xor d a b => some (.cs, encRR 0x25 d a b)
  | .shl d a b => some (.cs, encRR 0x29 d a b)
  | .shr d a b => some (.cs, encRR 0x2A d a b)
  | .sra d a b => some (.cs, encRR 0x2B d a b)
  | .mul d a b => some (.cs, encRR 0x2F d a b)
  | .mulh d a b => some (.cs, encRR 0x30 d a b)
  | .mulhu d a b => some (.cs, encRR 0x31 d a b)
  | .div d a b => some (.cs, encRR 0x32 d a b)
  | .divu d a b => some (.cs, encRR 0x33 d a b)
  | .rem d a b => some (.cs, encRR 0x34 d a b)
  | .remu d a b => some (.cs, encRR 0x35 d a b)
  | .min d a b => some (.cs, encRR 0x36 d a b)
  | .max d a b => some (.cs, encRR 0x37 d a b)
  | .minu d a b => some (.cs, encRR 0x38 d a b)
  | .maxu d a b => some (.cs, encRR 0x39 d a b)
  | .seq d a b => some (.cs, encRR 0x3A d a b)
  | .slt d a b => some (.cs, encRR 0x3B d a b)
  | .sltu d a b => some (.cs, encRR 0x3C d a b)
  | .sel d a b => some (.cs, encRR 0x3D d a b)
  | .addi d a imm => some (.cs, encRI 0x22 d.val a.val imm.toNat)
  | .andi d a imm => some (.cs, encRI 0x26 d.val a.val imm.toNat)
  | .ori d a imm => some (.cs, encRI 0x27 d.val a.val imm.toNat)
  | .xori d a imm => some (.cs, encRI 0x28 d.val a.val imm.toNat)
  | .shli d a n => some (.cs, encRI 0x2C d.val a.val n.val)
  | .shri d a n => some (.cs, encRI 0x2D d.val a.val n.val)
  | .srai d a n => some (.cs, encRI 0x2E d.val a.val n.val)
  | .clz d a => some (.cs, encRR 0x3E d a 0)
  | .ctz d a => some (.cs, encRR 0x3F d a 0)
  | .popc d a => some (.cs, encRR 0x40 d a 0)
  | .li d imm sh => some (.cs, 0x41 + at_ d.val 8 + at_ imm.toNat 14 + at_ sh.val 46)
  | .bfx d a p w sx => some (.cs, encRI 0x42 d.val a.val (p.val + at_ w.toNat 6 + at_ (Bool.code sx) 13))
  | .bfi d a p w => some (.cs, encRI 0x43 d.val a.val (p.val + at_ w.toNat 6))
  | .fadd ty d a b rm sat => some (.cs, encRF 0x50 ty d a b 0 0 rm.code sat)
  | .fsub ty d a b rm sat => some (.cs, encRF 0x51 ty d a b 0 0 rm.code sat)
  | .fmul ty d a b rm sat => some (.cs, encRF 0x52 ty d a b 0 0 rm.code sat)
  | .fmin ty d a b rm sat => some (.cs, encRF 0x54 ty d a b 0 0 rm.code sat)
  | .fmax ty d a b rm sat => some (.cs, encRF 0x55 ty d a b 0 0 rm.code sat)
  | .fdiv ty d a b rm sat => some (.cs, encRF 0x58 ty d a b 0 0 rm.code sat)
  | .ffma ty d a b c rm sat => some (.cs, encRF 0x53 ty d a b c.val 0 rm.code sat)
  | .fcmp ty d a b p => some (.cs, encRF 0x56 ty d a b 0 p.code 0 false)
  | .fcvt ty t2 d a rm sat => some (.cs, encRF 0x57 ty d a 0 0 t2.code rm.code sat)
  | .fsqrt ty d a rm sat => some (.cs, encRF 0x59 ty d a 0 0 0 rm.code sat)
  | .hset h a => some (.s, encRI 0x60 h.val a.val 0)
  | .hadvf h a imm => some (.s, encRI 0x61 h.val a.val imm.toNat)
  | .hadvc h a imm => some (.s, encRI 0x62 h.val a.val imm.toNat)
  | .hqry d h sel => some (.s, encRI 0x63 d.val h.val sel.val)
  | .hwait h a n free => some (.s, encRI 0x64 h.val a.val (n.toNat + at_ (Bool.code free) 27))
  | .vadd o b rm sat => some (.v, encVO 0x01 o b.bField 0 rm.code sat b.immField)
  | .vsub o b rm sat => some (.v, encVO 0x02 o b.bField 0 rm.code sat b.immField)
  | .vmul o b rm sat => some (.v, encVO 0x03 o b.bField 0 rm.code sat b.immField)
  | .vdiv o b rm sat => some (.v, encVO 0x0B o b.bField 0 rm.code sat b.immField)
  | .vscalb o b rm sat => some (.v, encVO 0x11 o b.bField 0 rm.code sat b.immField)
  | .vfma o b c rm sat => some (.v, encVO 0x04 o b.bField c.val rm.code sat b.immField)
  | .vfms o b c rm sat => some (.v, encVO 0x05 o b.bField c.val rm.code sat b.immField)
  | .vfnma o b c rm sat => some (.v, encVO 0x06 o b.bField c.val rm.code sat b.immField)
  | .vsqrt o rm sat => some (.v, encVO 0x0C o 0 0 rm.code sat 0)
  | .vrcp o rm sat => some (.v, encVO 0x0D o 0 0 rm.code sat 0)
  | .vrsq o rm sat => some (.v, encVO 0x0E o 0 0 rm.code sat 0)
  | .vexp2 o rm sat => some (.v, encVO 0x0F o 0 0 rm.code sat 0)
  | .vlog2 o rm sat => some (.v, encVO 0x10 o 0 0 rm.code sat 0)
  | .vmin o b sat => some (.v, encVO 0x07 o b.bField 0 0 sat b.immField)
  | .vmax o b sat => some (.v, encVO 0x08 o b.bField 0 0 sat b.immField)
  | .viadd o b sat => some (.v, encVO 0x20 o b.bField 0 0 sat b.immField)
  | .visub o b sat => some (.v, encVO 0x21 o b.bField 0 0 sat b.immField)
  | .vimul o b sat => some (.v, encVO 0x22 o b.bField 0 0 sat b.immField)
  | .vshl o b sat => some (.v, encVO 0x29 o b.bField 0 0 sat b.immField)
  | .vabs o sat => some (.v, encVO 0x09 o 0 0 0 sat 0)
  | .vneg o sat => some (.v, encVO 0x0A o 0 0 0 sat 0)
  | .viabs o sat => some (.v, encVO 0x2D o 0 0 0 sat 0)
  | .vimad o b c sat => some (.v, encVO 0x23 o b.bField c.val 0 sat b.immField)
  | .vimin o b => some (.v, encVO 0x24 o b.bField 0 0 false b.immField)
  | .vimax o b => some (.v, encVO 0x25 o b.bField 0 0 false b.immField)
  | .vand o b => some (.v, encVO 0x26 o b.bField 0 0 false b.immField)
  | .vor o b => some (.v, encVO 0x27 o b.bField 0 0 false b.immField)
  | .vxor o b => some (.v, encVO 0x28 o b.bField 0 0 false b.immField)
  | .vshr o b => some (.v, encVO 0x2A o b.bField 0 0 false b.immField)
  | .vsra o b => some (.v, encVO 0x2B o b.bField 0 0 false b.immField)
  | .vpopc o => some (.v, encVO 0x2C o 0 0 0 false 0)
  | .vmov o => some (.v, encVO 0x40 o 0 0 0 false 0)
  | .vcmp ty d a b k z p any => some (.v, encV 0x30 ty.code d.val a.val b.bField 0 k.val z 0 false (b.immField + at_ p.val 21 + at_ (Bool.code any) 24))
  | .vclass ty d a k z set any => some (.v, encV 0x31 ty.code d.val a.val 0 0 k.val z 0 false (set.toNat + at_ (Bool.code any) 9))
  | .kand d a b => some (.v, encV 0x38 0 d.val a.val b.val 0 0 false 0 false 0)
  | .kor d a b => some (.v, encV 0x39 0 d.val a.val b.val 0 0 false 0 false 0)
  | .kxor d a b => some (.v, encV 0x3A 0 d.val a.val b.val 0 0 false 0 false 0)
  | .knot d a => some (.v, encV 0x3B 0 d.val a.val 0 0 0 false 0 false 0)
  | .kpopc n a => some (.v, encV 0x3C 0 0 a.val 0 0 0 false 0 false n.val)
  | .kmov (.mask d a) => some (.v, encV 0x3D 0 d.val a.val 0 0 0 false 0 false 0)
  | .kmov (.toChunk d j n) => some (.v, encV 0x3D 0 d.val 0 0 0 0 false 0 false (n.val + at_ j.val 6 + at_ 1 9))
  | .kmov (.fromChunk n a j) => some (.v, encV 0x3D 0 0 a.val 0 0 0 false 0 false (n.val + at_ j.val 6 + at_ 2 9))
  | .vsel o b c => some (.v, encVO 0x41 o b.val c.val 0 false 0)
  | .vbcast ty d k z (.elem a idx) => some (.v, encV 0x42 ty.code d.val a.val 0 0 k.val z 0 false idx.toNat)
  | .vbcast ty d k z (.scal n) => some (.v, encV 0x42 ty.code d.val 0 0 0 k.val z 0 false (n.val + at_ 1 26))
  | .vbcast ty d k z (.imm v) => some (.v, encV 0x42 ty.code d.val 0 0 0 k.val z 0 false (v.toNat + at_ 2 26))
  | .viota ty d k z base stride => some (.v, encV 0x43 ty.code d.val 0 0 0 k.val z 0 false (base.toNat + at_ stride.toNat 16))
  | .vperm o b zero => some (.v, encVO 0x44 o b.val 0 0 false (at_ (Bool.code zero) 21))
  | .vrot o r => some (.v, encVO 0x45 o 0 0 0 false r.toNat)
  | .vextr ty n a i off => some (.v, encV 0x46 ty.code 0 a.val 0 0 0 false 0 false (n.val + at_ i.val 6 + at_ off.toNat 12))
  | .vins ty d n i off => some (.v, encV 0x47 ty.code d.val 0 0 0 0 false 0 false (n.val + at_ i.val 6 + at_ off.toNat 12))
  | .vrsum ty d a k rm sat => some (.v, encV 0x50 ty.code d.val a.val 0 0 k.val false rm.code sat 0)
  | .vrmax ty d a k sat => some (.v, encV 0x51 ty.code d.val a.val 0 0 k.val false 0 sat 0)
  | .vrmin ty d a k sat => some (.v, encV 0x52 ty.code d.val a.val 0 0 k.val false 0 sat 0)
  | .virsum ty d a k sat => some (.v, encV 0x53 ty.code d.val a.val 0 0 k.val false 0 sat 0)
  | .vcvt o dst p rm sat => some (.v, encVO 0x58 o 0 0 rm.code sat (dst.code + at_ p.val 4))
  | .vcvtsr o dst p sat => some (.v, encVO 0x59 o 0 0 0 sat (dst.code + at_ p.val 4))
  | .vqblk ty d a rm sat blk => some (.v, encV 0x5A ty.code d.val a.val 0 0 0 false rm.code sat blk.code)
  | .vdqblk o rm sat blk => some (.v, encVO 0x5B o 0 0 rm.code sat blk.code)
  | .vpack o b sat => some (.v, encVO 0x5C o b.val 0 0 sat 0)
  | .vunpk o p => some (.v, encVO 0x5D o 0 0 0 false (Bool.code p))
  | .sld d a sz imm => some (.m, encM 0x001 d.val a.val 0 sz.code 15 0 imm.toNat)
  | .sst d a sz imm => some (.m, encM 0x002 d.val a.val 0 sz.code 15 0 imm.toNat)
  | .vsld d a k imm => some (.m, encM 0x003 d.val a.val 0 k.val 15 0 imm.toNat)
  | .vsst d a k imm => some (.m, encM 0x004 d.val a.val 0 k.val 15 0 imm.toNat)
  | .vslds d a b k imm => some (.m, encM 0x005 d.val a.val b.val k.val 15 0 imm.toNat)
  | .vssts d a b k imm => some (.m, encM 0x006 d.val a.val b.val k.val 15 0 imm.toNat)
  | .vsgath d a b k imm => some (.m, encM 0x007 d.val a.val b.val k.val 15 0 imm.toNat)
  | .vsscat d a b k imm => some (.m, encM 0x008 d.val a.val b.val k.val 15 0 imm.toNat)
  | .vhld d h k off => some (.m, encM 0x009 d.val h.val 0 k.val 15 0 off.toNat)
  | .vhst d h k off => some (.m, encM 0x00A d.val h.val 0 k.val 15 0 off.toNat)
  | .ldf d a sc imm => some (.m, encM 0x010 d.val a.val 0 0 15 sc.code imm.toNat)
  | .ldfe d a sc imm => some (.m, encM 0x011 d.val a.val 0 0 15 sc.code imm.toNat)
  | .ste d a sc imm => some (.m, encM 0x012 d.val a.val 0 0 15 sc.code imm.toNat)
  | .stf d a sc imm => some (.m, encM 0x013 d.val a.val 0 0 15 sc.code imm.toNat)
  | .tagrd d a imm => some (.m, encM 0x014 d.val a.val 0 0 15 0 imm.toNat)
  | .tagwr d a imm => some (.m, encM 0x015 d.val a.val 0 0 15 0 imm.toNat)
  | .rsst d a sz pl off => some (.m, encM 0x018 d.val a.val 0 sz.code 15 0 (pl.code off))
  | .rvst d a k pl off => some (.m, encM 0x019 d.val a.val 0 k.val 15 0 (pl.code off))
  | .mvst d a k die clus set off => some (.m, encM 0x01A d.val a.val 0 k.val 15 0 (off.toNat + at_ set.toNat 12 + at_ clus.val 16 + at_ die.val 20))
  | .rste d a sc pl off => some (.m, encM 0x01B d.val a.val 0 0 15 sc.code (pl.code off))
  | .gld d a sz h imm => some (.m, encM 0x020 d.val a.val 0 sz.code (hintCode h) 0 imm.toNat)
  | .gst d a sz h imm => some (.m, encM 0x021 d.val a.val 0 sz.code (hintCode h) 0 imm.toNat)
  | .vgld d a k h imm => some (.m, encM 0x022 d.val a.val 0 k.val (hintCode h) 0 imm.toNat)
  | .vgst d a k h imm => some (.m, encM 0x023 d.val a.val 0 k.val (hintCode h) 0 imm.toNat)
  | .vggath d a b k h imm => some (.m, encM 0x024 d.val a.val b.val k.val (hintCode h) 0 imm.toNat)
  | .vgscat d a b k h imm => some (.m, encM 0x025 d.val a.val b.val k.val (hintCode h) 0 imm.toNat)
  | .amo d a b sz h sc op => some (.m, encM 0x030 d.val a.val b.val sz.code (hintCode h) sc.code op.code)
  | .cas d a b sz h sc => some (.m, encM 0x031 d.val a.val b.val sz.code (hintCode h) sc.code 0)
  | .red d a sz h op => some (.m, encM 0x032 d.val a.val 0 sz.code (hintCode h) 0 op.code)
  | .fred d a h ty => some (.m, encM 0x033 d.val a.val 0 0 (hintCode h) 0 ty.code)
  | .samo d a b sz sc op => some (.m, encM 0x034 d.val a.val b.val sz.code 15 sc.code op.code)
  | .gpf a l2 h imm => some (.m, encM 0x038 0 a.val 0 (Bool.code l2) (hintCode h) 0 imm.toNat)
  | .pin a b h imm => some (.m, encM 0x039 0 a.val b.val 0 (hintCode h) 0 imm.toNat)
  | .unpin a b h imm => some (.m, encM 0x03A 0 a.val b.val 0 (hintCode h) 0 imm.toNat)
  | .gwb a b h sc imm => some (.m, encM 0x03B 0 a.val b.val 0 (hintCode h) sc.code imm.toNat)
  | .ginv a b h sc imm => some (.m, encM 0x03C 0 a.val b.val 0 (hintCode h) sc.code imm.toNat)
  | .wload w h off => some (.t, encT 1 0 h.val false w.val off.val 0)
  | .wloadNxt w h off => some (.t, encT 1 0 h.val true w.val off.val 0)
  | .wloadTongs w => some (.t, encT 1 0 0 false w.val 0 0)
  | .wloadNxtTongs w => some (.t, encT 1 0 0 true w.val 0 0)
  | .afeed h off => some (.t, encT 2 0 h.val false 0 off.val 0)
  | .accum a => some (.t, encT 3 a.val 0 false 0 0 0)
  | .accumSet a => some (.t, encT 3 a.val 0 false 0 0 1)
  | .drain a => some (.t, encT 4 a.val 0 false 0 0 0)
  | .drainClr a => some (.t, encT 4 a.val 0 false 0 0 1)
  | .tswap => some (.t, 5)
  | .tzero a n => some (.t, encT 6 a.val 0 false 0 n.val 0)
  | .tclose => some (.t, 7)
  | .cpy d a b c sc eng tl => some (.e, encE 0x01 d.val a.val b.val c.val sc.code eng.val tl.val)
  | .cpyx d a b c sc eng tl => some (.e, encE 0x02 d.val a.val b.val c.val sc.code eng.val tl.val)
  | .cpq d eng sel => some (.e, encE 0x03 d.val 0 0 0 0 eng.val sel.val)
  | .tlrd d tl sel => some (.e, encE 0x08 d.val 0 0 0 0 sel.val tl.val)
  | .tlwait a sc tl => some (.e, encE 0x09 0 a.val 0 0 sc.code 0 tl.val)
  | .tladv a set tl => some (.e, encE 0x0A 0 a.val 0 0 0 (Bool.code set) tl.val)
  | .fence sc => some (.e, encE 0x10 0 0 0 0 sc.code 0 0)
  | .acq n b sc cmp => some (.e, encE 0x11 0 n.val b.val 0 sc.code cmp.code 0)
  | .rel n b sc => some (.e, encE 0x12 0 n.val b.val 0 sc.code 0 0)
  | .acqp d n b sc cmp => some (.e, encE 0x13 d.val n.val b.val 0 sc.code cmp.code 0)
  | .bind n a b c => some (.e, encE 0x14 n.val a.val b.val c.val 0 0 0)
  | .unbind n => some (.e, encE 0x15 n.val 0 0 0 0 0 0)
  | .wack => some (.e, 0x16)
  | .bara k => some (.e, encE 0x18 0 0 0 0 0 0 k.val)
  | .barw k => some (.e, encE 0x19 0 0 0 0 0 0 k.val)
  | .bar k => some (.e, encE 0x1A 0 0 0 0 0 0 k.val)
  | .mregw sh reg a => some (.e, encE 0x20 0 a.val 0 0 0 0 (reg.val + at_ (Bool.code sh) 4))
  | .mregr d sh reg => some (.e, encE 0x21 d.val 0 0 0 0 0 (reg.val + at_ (Bool.code sh) 4))
  | .send a b c sc tl => some (.e, encE 0x28 0 a.val b.val c.val sc.code 0 tl.val)
  | .recv d a c sc q => some (.e, encE 0x29 d.val a.val 0 c.val sc.code 0 q.val)
  | .coll a sc tab tl => some (.e, encE 0x30 0 a.val 0 0 sc.code tab.val tl.val)
  | .cstab a c tab => some (.e, encE 0x31 0 a.val 0 c.val 0 tab.val 0)
  | .launch a q => some (.e, encE 0x38 0 a.val 0 0 0 0 q.val)
  | .cancel a => some (.e, encE 0x39 0 a.val 0 0 0 0 0)
  | .bown a => some (.e, encE 0x40 0 a.val 0 0 0 0 0)
  | .brel a => some (.e, encE 0x41 0 a.val 0 0 0 0 0)
  | .pwrq d a other sel => some (.e, encE 0x48 d.val a.val 0 0 0 (Bool.code other) (Bool.code sel))
  | _ => none

end Sys2Proof
end

