-- ==== Sys2Proof/Config.lean ====
section
/-! DEFINITION. What one part fixes, and the free values: constants with no body, which nothing can evaluate. -/

namespace Sys2Proof.Config

/-- Clocks of a time for which the device promises no figure and no bound (R452, R453): the n-th free value of the run. -/
opaque delay : Nat → Nat

/-- A choice the spec leaves open (which of several things happens): the n-th free value of the run. -/
opaque choice : Nat → Nat

/-- The cluster of a die that a link of its mesh belongs to; none for a link of one of its bridges (R424, R425). -/
opaque linkCluster : Nat → Option Nat

/-- Commit-buffer entries of one core (R252). -/
def commitEntries : Nat := 256
/-- Commit-buffer entries of one context (R252). -/
def ctxEntries : Nat := 64
/-- Fixed-latency results in flight of one context (R139). -/
def inFlightMax : Nat := 64
/-- Clocks a wait lasts before the context parks (R136). -/
def parkAfter : Nat := 64
/-- Clocks in which a parked context re-enters ready (R136). -/
def unparkWithin : Nat := 16
/-- Clocks of a correction freeze (R150). -/
def freezeClocks : Nat := 24
/-- Clocks of a rollback (R414). -/
def rollbackClocks : Nat := 8
/-- Clocks from the arrival of a migration refusal to the rerun (R281). -/
def migrationClocks : Nat := 2048
/-- Clocks of a power window (R95). -/
def windowClocks : Nat := 16
/-- Bytes of one scratchpad (R242). -/
def spadBytes : Nat := 4194304
/-- First package physical address that names no memory (R267). -/
def ppaLimit : Nat := 1099511627776
/-- Data width of a copy engine's transfer path, bytes per clock (R326). -/
def pathBytes : Nat := 256
/-- Records of the fault queue (R412). -/
def faultRecords : Nat := 4096
/-- GINs of the cancel set (R77). -/
def cancelMax : Nat := 256
/-- Records of the follow table (R75). -/
def followMax : Nat := 1024
/-- Portions of a die placer's pending list (R83). -/
def pendingPortions : Nat := 16
/-- Clocks of the default pre-emption window (R417). -/
def defaultWindow : Nat := 24000

end Sys2Proof.Config
end

