-- ==== Sys2Proof/Machine/State.lean ====
section
/-! DEFINITION. The state of the package as plain data, and the state right after power-on reset. -/

namespace Sys2Proof.Machine

/-- Bytes by address in canonical form: addresses strictly rising, no byte that an unlisted address reads as (zero). -/
abbrev Memory := List Host.Cell

/-- A sparse table: what is not listed holds the default its reader names. -/
abbrev Tab (α : Type) := List (Nat × α)

/-- Why the machine stops. -/
inductive Fault where
  /-- A queue, table, image or save area names a package physical address of 2^40 or above, which names no memory (R267).
  Raised by the steps that read or write such structures; safe: the device's answer is not given. -/
  | noMemory (ppa : Nat)
  deriving DecidableEq, Repr

/-- Why a step has no meaning in the model. -/
inductive Refusal where
  /-- The instruction has no meaning in this model yet; safe. Raised by the arms of exec only. -/
  | notModelled (mnemonic : String)
  deriving DecidableEq, Repr

/-- A result on its way to a register (R139): the value and, for vectors and masks, the bits written (R181). -/
inductive RegWrite where
  | s (d : SReg) (val : Dword)
  | v (d : VReg) (val en : VWord)
  | k (d : KReg) (val en : KWord)
  deriving DecidableEq, Repr

/-- A fixed-latency result in flight with its remaining distance (R139). -/
structure InFlight where
  dist : Nat
  w    : RegWrite
  /-- The result of a scratchpad load (R355). -/
  ld   : Bool := false
  /-- A vector load: its bundle number, and where each of its chunks goes, where it is read and the clock of the read
  (R248). -/
  serial : Nat := 0
  parts  : List (Nat × Nat × Nat) := []
  deriving DecidableEq, Repr

/-- A ring handle (R143). -/
structure Ring where
  v    : Bool := false
  k    : Nat := 0
  base : Nat := 0
  cnt  : Nat := 0
  fmt  : Nat := 0
  fill : Nat := 0
  cp   : Nat := 0
  eng  : Nat := 0
  deriving DecidableEq, Repr

/-- A binding register (R41). -/
structure Binding where
  sync  : Dword := 0#64
  base  : Dword := 0#64
  limit : Dword := 0#64
  v     : Bool := false
  deriving DecidableEq, Repr

/-- A loop-stack entry (R132). -/
structure LoopEntry where
  idx   : Nat := 0
  cnt   : Nat := 0
  start : Nat := 0
  stop  : Nat := 0
  md    : Bool := false
  sk    : Bool := false
  map   : Nat := 0
  deriving DecidableEq, Repr

/-- What a rollback restores (R414): registers, handles, bindings, sequencer, FPCTL, SRSEED, generators, GSEQ and the
results in flight. -/
structure Regs where
  s      : Vector Dword 64 := Vector.replicate 64 0#64
  v      : Vector VWord 16 := Vector.replicate 16 0#16384
  k      : Vector KWord 8 := Vector.replicate 8 0#512
  h      : Vector Ring 16 := Vector.replicate 16 {}
  b      : Vector Binding 16 := Vector.replicate 16 {}
  /-- Position of the next bundle (R132); a branch target before it is checked may be any integer (R153). -/
  pc     : Int := 0
  /-- Position of the branching bundle the pc comes from, for the trap record of R153. -/
  brFrom : Option Nat := none
  /-- Loop stack, innermost entry first (R132). -/
  ls     : List LoopEntry := []
  /-- fpctl.ilk (R162). -/
  ilk    : Bool := false
  /-- fpctl.rm (R162), one of the codes 0 to 4. -/
  rm     : Rm := .rne
  srseed : Word32 := 0#32
  gens   : Vector Word32 512 := Vector.replicate 512 0#32
  gtag   : Word32 := 0#32
  gcnt   : Word32 := 0#32
  flight : List InFlight := []
  deriving DecidableEq, Repr

/-- A context's state (R135). -/
inductive Status where
  | free | ready | waiting | parked | halted
  deriving DecidableEq, Repr

/-- Why a context does not issue while halted, or what it waits for (R135, R281, R409, R414). -/
inductive Why where
  | none
  /-- Stopped by a class 2 to 4 event; freed when its released entries have drained (R409). -/
  | trapped
  /-- Past its nd bundle, awaiting the final quench point (R426). -/
  | ended
  /-- Ended, its last entries draining (R426). -/
  | done
  /-- In the 8 clocks of a rollback (R414). -/
  | rolling
  /-- Waiting for the rerun of a migration refusal (R281). -/
  | migrating
  /-- Waiting for the host to resolve a record (R281, R409). -/
  | resolve (seq : Nat) (engine : Bool)
  /-- Being saved (R418), or halted by a debug halt (R423) whose save lies in the area. -/
  | saving (area : Nat) (debug : Bool)
  | debug (area : Nat)
  /-- Its core failed or its cluster was reset. -/
  | lost
  deriving DecidableEq, Repr

/-- A pre-emption or debug request that has not acted (R417, R423). -/
structure PreReq where
  area     : Nat
  debug    : Bool
  deadline : Nat
  deriving DecidableEq, Repr

/-- The sync word as its home answered it (R342), with the write timestamp. -/
structure SyncAns where
  va   : Nat
  word : BitVec 128
  wts  : Nat
  deriving DecidableEq, Repr

/-- What an issued bundle still performs before its effect is complete (R136). -/
inductive Completion where
  /-- An implicit quench point that waits for entries, or a FENCE for reads, of lower slots of its own bundle (R365): the
  instruction and its slot. -/
  | instr (i : Instr) (slot : Nat)
  /-- A REL whose word is not written yet: request id (R370). -/
  | rel (id : Nat)
  /-- An ACQP whose promotion reply is out (R350). -/
  | promo (id : Nat)
  /-- An AMO or CAS on its way (R312). -/
  | atomic (id : Nat)
  deriving DecidableEq, Repr

/-- The skip-map reads of a LOOP or of a bundle that closed an iteration (R156): its clock, number and position, the first clock in
which the next bundle could issue but for them, the loop stack and next position before its boundary tests, its branch target,
the entry of a LOOP, and the words read so far. -/
structure Scan where
  at_    : Nat
  serial : Nat
  pos    : Nat
  least  : Nat
  ls     : List LoopEntry
  next   : Int
  target : Option Int
  entry  : Option LoopEntry
  words  : List Nat := []
  deriving DecidableEq, Repr

/-- A context (R113, R132, R135). -/
structure Ctx where
  status   : Status := .free
  why      : Why := .none
  r        : Regs := {}
  /-- The established restart mark and the one not yet established, with its bundle number (R413). -/
  mark     : Option Regs := none
  mark2    : Option (Nat × Regs) := none
  /-- Bundle number of the established mark; none where it is the task's start or its resume (R413). -/
  markSer  : Option Nat := none
  /-- Launch and WID of the task (R34). -/
  launch   : Nat := 0
  wid      : Dword := 0#64
  /-- A number no other task has. The model's own. -/
  task     : Nat := 0
  /-- Place of origin (R419): flattened core number and context. -/
  origin   : Nat := 0
  /-- Number of the next bundle in program order (R336). -/
  serial   : Nat := 0
  /-- Variable-latency results pending (R141): result id, bundle number, register. -/
  pend     : List (Nat × Nat × RegRef) := []
  /-- Results of the V1 slot of a split bundle that issue in the second cycle (R94). -/
  split    : List InFlight := []
  splitOn  : Bool := false
  /-- The clock of the core in which its V1 slot issues (R94). -/
  splitAt  : Nat := 0
  waitClk  : Nat := 0
  /-- First clock of the core in which the next bundle may issue (R154, R156). -/
  nextAt   : Nat := 0
  /-- The index line or dictionary entry the context waits for (R102, R104). -/
  fetchWait : Bool := false
  /-- Pending-byte counter, 48 bits (R310). -/
  pbytes   : Nat := 0
  /-- Entries and RSTE that have added to the pending-byte counter (R348). -/
  sendNo   : Nat := 0
  /-- Arrival counts of levels 0 to 6 (R375). -/
  arr      : Vector Word32 7 := Vector.replicate 7 0#32
  /-- A BAR whose arrival has been signalled (R377). -/
  barOn    : Bool := false
  comps    : List Completion := []
  /-- Registers, position and next position as of the issue of the bundle that `comps` finishes (R116). -/
  lateRegs : Option (Regs × Nat × Nat) := none
  /-- A mark whose shadow is taken at the end of this clock: its bundle number (R413). -/
  markAt   : Option Nat := none
  /-- Slots reserved by engine producers and not published, in order of reservation: handle, entry or command, bundle
  number, data arrived (R144). -/
  resv     : List (Nat × Nat × Nat × Bool) := []
  pre      : Option PreReq := none
  /-- A cancel token has arrived (R78). -/
  cancel   : Bool := false
  /-- The last issued bundle was a boundary point (R134). -/
  boundary : Bool := false
  /-- The next bundle is to halt again after one issue, with this save area (R423). -/
  step     : Option Nat := none
  sync     : Option SyncAns := none
  syncReq  : Option Nat := none
  /-- Quench points issued: bundle numbers whose entries await release (R253). -/
  quench   : Option Nat := none
  /-- It waits for acknowledgements of its cluster's writes, which raise its core's logical time (R355). -/
  ackWait  : Bool := false
  /-- Skip-map words that the sequencer still reads (R156). -/
  scan     : Option Scan := none
  deriving DecidableEq, Repr

/-- A locked range table entry (R38). -/
structure Lrt where
  base  : Nat := 0
  limit : Nat := 0
  v     : Bool := false
  home  : Nat := 0
  hdie  : Nat := 0
  peer  : Nat := 0
  coh   : Nat := 0
  cache : Nat := 0
  rd    : Bool := false
  wr    : Bool := false
  at_   : Bool := false
  key   : Nat := 0
  asid  : Nat := 0
  /-- hdr.dmask as it stood when the launch was checked (R270). -/
  dmask : Nat := 0
  deriving DecidableEq, Repr

/-- A global access after the requester's check (R269): the address and the attributes of its entry. -/
structure GAddr where
  va    : Nat := 0
  len   : Nat := 0
  ent   : Lrt := {}
  hint  : Option Nat := none
  /-- Where in it the first byte of a store lies: what a record names (R281). -/
  off   : Nat := 0
  deriving DecidableEq, Repr

/-- A write grant of a held entry (R280). -/
inductive Grant where
  | none | asked
  /-- The place the grant was given for (`Req.p`). -/
  | granted (p : Nat)
  deriving DecidableEq, Repr

/-- A copy command with its operands (R321 to R323). -/
structure CopyCmd where
  core  : Nat := 0
  ctx   : Nat := 0
  launch : Nat := 0
  gin   : Nat := 0
  src   : Nat := 0
  dst   : Nat := 0
  len   : Nat := 0
  mw    : Dword := 0#64
  time  : Nat := 0
  aux0  : Dword := 0#64
  aux1  : Dword := 0#64
  eng   : Nat := 0
  tl    : Nat := 0
  sc    : Scope := .core
  /-- Rounding resolved at issue (R322). -/
  rm    : Rm := .rne
  /-- Scratchpad address of the reserved ring slot (R144). -/
  slot  : Nat := 0
  deriving DecidableEq, Repr

/-- What a commit-buffer entry holds (R252). -/
inductive EntryKind where
  | spad (addr : Nat) (data : Chunk) (be : BitVec 64) (stripe : Bool)
  | drain (addr : Nat) (data : Chunk) (be : BitVec 64) (eng tile : Nat) (filledAt : Nat)
  | remote (cores : List Nat) (addr : Nat) (data : Chunk) (be : BitVec 64)
  | global (g : GAddr) (data : Chunk) (be : BitVec 64)
  | red (g : GAddr) (op : AmoOp) (val : Nat)
  | fred (g : GAddr) (ty : Ty) (val : Nat)
  | copy (c : CopyCmd)
  | send (addr len chip queue tl : Nat) (sc : Scope)
  | coll (tab arg tl : Nat) (sc : Scope)
  | cstab (tab va steps : Nat)
  | launch (q part : Nat) (data : Chunk)
  | notice (code : Nat) (pos : Nat)
  | pin (g : GAddr)
  | unpin (g : GAddr)
  | gwb (g : GAddr) (sc : Scope)
  | ginv (g : GAddr) (sc : Scope)
  deriving DecidableEq, Repr

/-- Life of an entry in the buffer (R252, R253). -/
inductive EntrySt where
  | held | released | claimed (clk : Nat) | leaving
  deriving DecidableEq, Repr

/-- A commit-buffer entry (R252). -/
structure Entry where
  id     : Nat
  ctx    : Nat
  serial : Nat
  /-- Position of its bundle. -/
  pos    : Nat := 0
  st     : EntrySt := .held
  grant  : Grant := .none
  /-- A held DRAIN entry whose bytes were forwarded to a reader of data (R229). -/
  read   : Bool := false
  kind   : EntryKind
  deriving DecidableEq, Repr

/-- The exact sum of a set of terms (R56): what NaN, infinities and the finite part come to. The finite part is
m × 2^e; `neg` holds while every term so far is −0; `n` counts terms up to 1. -/
structure Sum where
  nan  : Bool := false
  pinf : Bool := false
  ninf : Bool := false
  m    : Int := 0
  e    : Int := 0
  neg  : Bool := true
  any  : Bool := false
  deriving DecidableEq, Repr

/-- A matrix register set (R218), registers 0 to 6. -/
structure MxSet where
  ctl   : Dword := 8#64
  tile  : Dword := 0#64
  tbase : Dword := 0#64
  tstr  : Dword := 0#64
  zmap  : Dword := 0#64
  siga  : Dword := BitVec.allOnes 64
  sigs  : Dword := BitVec.allOnes 64
  deriving DecidableEq, Repr

/-- Where a beat read its bytes (R221). -/
inductive Src where
  | spad (addr : Nat)
  | tongs (va asid : Nat)
  deriving DecidableEq, Repr

/-- Where a weight row was read (R221): the context and task that loaded it, its bundle number, the clock of the read, the source. -/
structure RowSrc where
  ctx    : Nat := 0
  task   : Nat := 0
  serial : Nat
  use    : Nat
  src    : Src
  deriving DecidableEq, Repr

/-- A row loaded and not yet seen by AFEEDs (R216): steps left, row, format, bytes and where it was read. -/
structure LateRow where
  left   : Nat
  row    : Nat
  fmt    : Nat
  data   : BitVec 4096
  from_  : RowSrc
  deriving DecidableEq, Repr

/-- A weight bank (R213): latched stream format code, valid bits, rows of up to 512 B, where each row was read, and rows on their
way. -/
structure Bank where
  fmt   : Option Nat := none
  valid : BitVec 32 := 0#32
  rows  : Tab (BitVec 4096) := []
  srcs  : Tab RowSrc := []
  late  : List LateRow := []
  deriving DecidableEq, Repr

/-- One beat of a tile record (R221). An AFEED keeps the format and the sources of the bank it met, and the clock of its
read stage; a DRAIN the rounding it resolved and its entries. `step` is what a source advances by in a run of beats. -/
inductive Beat where
  | wload (bank : Bool) (row fmt step : Nat) (src : Src)
  | afeed (fmt step addr use : Nat) (wfmt : Option Nat) (valid : BitVec 32) (srcs : Tab RowSrc)
  | accum (a : Nat) (set : Bool) (row : Option Nat)
  | drain (a : Nat) (clr : Bool) (rm : Rm) (entries : List Nat)
  | tzero (a n : Nat)
  | tswap
  deriving DecidableEq, Repr

/-- A tile record (R221). -/
structure Tile where
  id      : Nat := 0
  ctx     : Nat := 0
  tileId  : Nat := 0
  /-- The active set that governs the tile. -/
  set     : MxSet := {}
  /-- Beats in order, with their bundle numbers. -/
  beats   : List (Nat × Beat) := []
  /-- Record entries used (R221). -/
  entries : Nat := 0
  /-- Rows initialised in the tile (R220). -/
  init    : List Nat := []
  /-- An AFEED of the tile has used the active bank (R220). -/
  fed     : Bool := false
  /-- Number of AFEEDs of the tile. -/
  feeds   : Nat := 0
  /-- The signature pair at TCLOSE (R227). -/
  siga    : Dword := 0#64
  sigs    : Dword := 0#64
  /-- Bundle number of the TCLOSE. -/
  serial  : Nat := 0
  /-- DRAINs of the tile whose slots are not published yet, by their first entries, and the clock of the last publication
  (R228). -/
  unpub   : List Nat := []
  lastPub : Nat := 0
  /-- Earliest clock of the comparison, once a quench point has issued, and that it failed and the Hardy has the tile. -/
  due     : Option Nat := none
  failed  : Bool := false
  deriving DecidableEq, Repr

/-- A tile opened since its context's mark (R414): context, bundle number, both sets before the first beat, whether that was a
TSWAP, and whether another context has owned the engine since. -/
structure Opening where
  ctx     : Nat
  serial  : Nat
  active  : MxSet
  shadow  : MxSet
  swapped : Bool
  other   : Bool := false
  deriving DecidableEq, Repr

/-- A row on its way from an AFEED (R215, R216): steps left, context, tile, number, class and whether both formats are
I8, and the exact sums of the columns. -/
structure FedRow where
  left : Nat
  ctx  : Nat
  tile : Nat
  num  : Nat
  q    : Nat
  i8   : Bool
  cols : List Sum
  deriving DecidableEq, Repr

/-- A matrix engine: the pair in checked mode, one array in split mode (R211 to R221, R232). -/
structure Engine where
  active  : MxSet := {}
  shadow  : MxSet := {}
  bank0   : Bank := {}
  bank1   : Bank := {}
  /-- The active bank is bank1 (R213). -/
  sel     : Bool := false
  /-- Accumulator rows of the Anvil, and where they differ those of the Swage: 32 encodings each (R214). -/
  acc     : Tab (List Nat) := []
  accS    : Tab (List Nat) := []
  owner   : Option Nat := none
  tile    : Option Tile := none
  closed  : List Tile := []
  rows    : List FedRow := []
  opens   : List Opening := []
  lastUser : Option Nat := none
  /-- Save area that its sets and banks are still as, since no context has used the engine after that save (R421). -/
  savedIn : Option Nat := none
  /-- Stuck digits of an array: swage?, row, column, XOR on the rounded element (R229). -/
  stuck   : List (Bool × Nat × Nat × Nat) := []
  deriving DecidableEq, Repr

/-- An entry of the promotion log (R348). -/
structure PLog where
  id   : Nat
  /-- Number of the entry, 0 to 63. -/
  no   : Nat
  st   : Nat
  ctx  : Nat
  clus : Bool
  asid : Nat
  /-- sync.seq, not known until the home's reply (R370). -/
  seq  : Option Nat
  sn   : Nat
  /-- The task and launch that released. -/
  task : Nat
  launch : Nat
  sync : Nat
  ranges : List (Nat × Nat)
  /-- The ranges with the identifier that their lines carry (R41), as they stood when the entry was taken. -/
  lines : List (Nat × Nat × Nat) := []
  deriving DecidableEq, Repr

/-- A timeline (R332) with the numbers completed out of order and their signatures (R333). -/
structure Timeline where
  val  : Dword := 0#64
  rel  : Dword := 0#64
  oob  : Nat := 0
  park : Nat := 0
  sig  : Dword := 0#64
  done : List (Nat × Dword) := []
  /-- Logical time carried by completed commands: number and timestamp (R334). -/
  times : List (Nat × Nat) := []
  deriving DecidableEq, Repr

/-- A cached line in L1, L2 or the hearth cache (R273): bytes valid and dirty, lease end (R339), pin count (R318),
write-pending count (R340). -/
structure CLine where
  asid  : Nat
  va    : Nat
  data  : Line
  valid : BitVec 128
  dirty : BitVec 128 := 0#128
  ent   : Lrt
  lease : Nat := 0
  wts   : Nat := 0
  wpend : Nat := 0
  pins  : Nat := 0
  /-- Launches that pinned the line, and the place its home recorded the pin for (R284, R318). -/
  pinBy : List Nat := []
  home  : Option Nat := none
  /-- The launch that fetched it or wrote it last: a write-back is charged to it (R270). -/
  launch : Nat := 0
  deriving DecidableEq, Repr

/-- Power state of a data bank (R263). -/
inductive BankSt where
  | on | sleep | gated | waking (till : Nat) (gated : Bool)
  deriving DecidableEq, Repr

/-- A soft error in a stored word (R258): bank 0 to 31 data, 32 to 39 parity; row; word; uncorrectable. -/
structure EccErr where
  bank : Nat
  row  : Nat
  word : Nat
  unc  : Bool
  deriving DecidableEq, Repr

/-- A stored word that a soft error damages: a scratchpad word (R258), a dictionary entry of a core (R104; uncorrectable or
corrected), or the line of memory at a place (R411); or buffer-slot permits of a link that are duplicated or, below 0, lost
(R425); or a digit of an array that sticks, as `Engine.stuck` lists it (R229). -/
inductive Upset where
  | spad (core : Nat) (e : EccErr)
  | dict (core entry : Nat) (unc : Bool)
  | line (p : Nat)
  | permit (die link : Nat) (diff : Int)
  | digit (core half : Nat) (swage : Bool) (row col xor_ : Nat)
  deriving DecidableEq, Repr

/-- A parity delta (R250): the write that posts it, group, row, clock in which its posting clock was fixed, posting clock,
apply clock once fixed, XOR of data and tags. -/
structure Delta where
  wid   : Nat
  fixed : Nat
  g     : Nat
  row   : Nat
  post  : Nat
  apply : Option Nat
  data  : Chunk
  tags  : BitVec 8
  /-- Bank of the write that posts it. -/
  bank  : Nat := 0
  deriving DecidableEq, Repr

/-- A cell of the reservation table that is marked or claimed (R147): bank 0 to 39, clock (the core's own), row, and the
context whose bundle marked it, or 8 for an agent. -/
structure Cell where
  bank : Nat
  clk  : Nat
  row  : Nat
  ctx  : Nat
  /-- For an agent's cell: the context charged with its access (R261). -/
  chg  : Option (Nat × Nat) := none
  deriving DecidableEq, Repr

/-- What a write granted for a clock carries out beside its bytes. -/
inductive WSrc where
  /-- A commit-buffer entry of the core (R253). -/
  | entry (id : Nat)
  /-- A remote store chunk or an RSTE (R303, R304). -/
  | msg (id : Nat)
  /-- A copy's bytes, a copy's tags (R329), reads of a copy, of its index list, and of a SEND. -/
  | copy (id : Nat)
  | copyTag (id : Nat)
  | copyRead (id : Nat)
  | copyIndex (id : Nat)
  | sendRead (id : Nat)
  /-- A chunk of a RECV: the variable-latency result that waits for it. -/
  | recv (id : Nat)
  /-- A preload of a launch (R131). -/
  | preload (launch : Nat)
  /-- A tag-changing access or SAMO of a context. -/
  | direct
  deriving DecidableEq, Repr

/-- An access to a chunk that an agent wants or that has been granted for a clock of the core (R249, R253, R256): byte
address, bytes enabled, words whose tag is set and to what, a read, an operation that combines (R328), the core and context
charged (R261), whether it belongs to a full-stripe write. Before it is granted, `clk` is the first clock it may claim in.
Claims with the same nonzero `order` are granted in turn. -/
structure PWrite where
  id     : Nat
  clk    : Nat
  addr   : Nat
  data   : Chunk := 0#512
  be     : BitVec 64 := 0#64
  tset   : BitVec 8 := 0#8
  tval   : Bool := false
  read   : Bool := false
  red    : Option (Option AmoOp × Ty) := none
  chg    : Option (Nat × Nat) := none
  src    : WSrc := .direct
  stripe : Bool := false
  order  : Nat := 0
  /-- A release on the words it tags, or on the word it writes: the time it leaves there (R353). -/
  rel    : Option Nat := none
  deriving DecidableEq, Repr

/-- A full-stripe write (R249): row, clock of its first member, clock of its parity write once claimed, members claimed,
its context and the first of its 32 entries. -/
structure Stripe where
  row    : Nat
  first  : Nat
  parity : Option Nat := none
  next   : Nat := 1
  ctx    : Nat
  entry  : Nat
  /-- Banks of the members written so far, and by group the XOR of what was written, data and tags. -/
  done   : List Nat := []
  acc    : Tab (Nat × Nat) := []
  deriving DecidableEq, Repr

/-- The scratchpad of a core (R242 to R263). Clocks are the core's own (`Core.lost`). -/
structure Spad where
  data   : Memory := []
  /-- Full words, by byte address (R243). -/
  full   : List Nat := []
  /-- Parity banks: byte address g × 2^17 + row × 64 + byte, and parity tags by word address (R243). -/
  par    : Memory := []
  ptags  : List Nat := []
  deltas : List Delta := []
  errs   : List EccErr := []
  cells  : List Cell := []
  /-- Writes granted for a clock and not made yet, in the order they were granted. -/
  wr     : List PWrite := []
  stripes : List Stripe := []
  power  : Tab BankSt := []
  /-- Last access of a bank (R263). -/
  last   : Tab Nat := []
  ret    : BitVec 32 := 0#32
  unp    : BitVec 8 := 0#8
  /-- Rebuild of a group: first clock w (R263). -/
  reb    : Tab Nat := []
  /-- Row of a rebuilding group as it was read, data and tags, by group (R263). -/
  rebRow : Tab (Chunk × BitVec 8) := []
  /-- Groups whose outstanding deltas are applied within a freeze that begins after this clock, and banks whose retirement takes
  effect as it ends; bank 32 + g is parity (R258, R259, R262). -/
  flush  : List Nat := []
  /-- Words that a reconstruction fault of this clock has emptied (R261, R304). -/
  emptied : List Nat := []
  retNext : List Nat := []
  rep    : Nat := 0
  /-- Clock of the last repair of a bank (R259, R262). -/
  repAt  : Tab Nat := []
  /-- Owner launch of each data bank (R386). -/
  owner  : Tab Nat := []
  /-- Logical time of the last release on a tagged word, by its address (R353). -/
  tagLt  : Tab Nat := []
  /-- Consecutive clocks a bundle of a context has been held by the table, and the last of them (R147). -/
  heldBy : Tab (Nat × Nat) := []
  /-- Accesses of agents that wait for a cell of column t + 15 (R147). -/
  claims : List PWrite := []
  deriving DecidableEq, Repr

/-- A region of the dictionary store (R103). -/
structure Region where
  image : Nat
  first : Nat
  count : Nat
  users : List Nat
  deriving DecidableEq, Repr

/-- Power tokens (R95 to R97): the grant, a new grant that takes effect at the next window, tokens spent in the window. -/
structure Power where
  grant : Nat := 0
  next  : Option Nat := none
  spent : Nat := 0
  deriving DecidableEq, Repr

/-- A core (R113, R147, R252, R332, R348). -/
structure Core where
  ctxs   : Tab Ctx := []
  split  : Bool := false
  sp     : Spad := {}
  cb     : List Entry := []
  dict   : Tab Bundle := []
  regions : List Region := []
  dictErr : List (Nat × Bool) := []
  icache : List Nat := []
  l1     : List CLine := []
  eng0   : Engine := {}
  eng1   : Engine := {}
  tls    : Tab Timeline := []
  plog   : List PLog := []
  epoch  : Nat := 0
  /-- Logical time of the core, or of each half-core, less `State.ltBase` (R338). -/
  lt0    : Nat := 0
  lt1    : Nat := 0
  rtq    : List Nat := []
  prim0  : Nat := 0
  prim1  : Nat := 4
  /-- Primary of each half as its last issue opportunity began (R137). The model's own. -/
  lead0  : Nat := 0
  lead1  : Nat := 4
  slotmap : BitVec 5 := 0#5
  /-- Power of the core, or of half-core 0, and of half-core 1 in split mode (R95). -/
  pow0   : Power := {}
  pow1   : Power := {}
  asus   : Nat := 0
  ssus   : Nat := 0
  trip   : Nat := 0
  aret   : Bool := false
  sret   : Bool := false
  aLast  : Option Nat := none
  sLast  : Option Nat := none
  /-- First PCYC value after the correction freeze in progress (R150), and the clocks spent frozen so far: the core's own
  clock is PCYC less `lost`. -/
  freeze : Nat := 0
  lost   : Nat := 0
  /-- First PCYC value in which the commit buffer may drain, past every clock while a tile disagreement stops it (R229). -/
  stopDrain : Nat := 0
  /-- Publications of DRAINs to come (R216): core clock, context, handle, first entry. -/
  pubs : List (Nat × Nat × Nat × Nat) := []
  /-- Contexts in exposed mode that have issued in this clock (R139). The model's own. -/
  stepped : List Nat := []
  /-- Writes of MREGW and changes of owner by BREL made in this clock, seen from the next (R378, R388): half, set by its
  place (the shadow set while the active bank is bank0), register, value; bank and its new owner. -/
  mregs : List (Nat × Bool × Nat × Dword) := []
  passes : List (Nat × Nat) := []
  /-- Contexts whose last rollback was for a lockstep mismatch, and lane groups for a residue mismatch (R415). -/
  lockBad : List Nat := []
  resBad : List (Nat × Nat) := []
  pmctl  : Dword := 0#64
  /-- Preloads done, by launch (R131). -/
  preDone : List Nat := []
  /-- First clock in which the core's port of each bank of the cluster slice is free (R275). -/
  l2Next : Tab Nat := []
  /-- Locked range tables by launch (R268). -/
  lrts   : Tab (List Lrt) := []
  /-- Task starts that wait: context, launch, WID (R86). -/
  starts : List (Nat × Nat × Dword) := []
  /-- A launch's first task here: launch, stage (0 dictionary copy, 1 banks waking, 2 preload), clock at which the stage ends
  (R103, R131, R386). -/
  setup : List (Nat × Nat × Nat) := []
  deriving DecidableEq, Repr

/-- Where a copy command stands (R325 to R333). -/
inductive CopyPhase where
  | sent | queued | rel | index | read | grant | write | deliver | tags | back | retry | parked
  /-- Between two scratchpads: bytes stream from one to the other. -/
  | stream
  deriving DecidableEq, Repr

/-- A copy command that has left its core (R325 to R333). -/
structure CopyRun where
  id     : Nat
  cmd    : CopyCmd
  /-- Its commit-buffer entry, task, bundle number and position. -/
  entry  : Nat
  task   : Nat
  serial : Nat
  pos    : Nat
  clus   : Nat
  /-- Sends of the context below this number belong to its release (R325). -/
  sn     : Nat
  num    : Nat := 0
  accSeq : Nat := 0
  phase  : CopyPhase := .sent
  /-- Clock of the start, of the earliest write at the destination, and of the earliest completion there (R327). -/
  startAt : Nat := 0
  writeAt : Nat := 0
  due     : Nat := 0
  /-- Logical time of the command's release as it is performed (R325, R353). -/
  relLt   : Nat := 0
  /-- Index list (R328), pieces as ranges of units, the piece under way (R330). -/
  idx    : List Nat := []
  pieces : List (Nat × Nat) := []
  piece  : Nat := 0
  /-- Accesses awaited, the bytes read by address, writes not yet made, the grants of the piece (page and its place), and the
  place and code of a failure. -/
  wait   : Nat := 0
  got    : Memory := []
  out    : Nat := 0
  grants : List (Nat × Option Nat) := []
  code   : Nat := 0
  codeAt : Nat := 0
  /-- Bytes delivered: destination address and bytes, in list order; and how many to one destination. -/
  segs   : List (Nat × List Byte) := []
  sent   : Nat := 0
  /-- A stream (R326, R327): chunks of the index list still to come, reads asked for and returned, the units that each number of
  returned reads lets it deliver, the address up to which a contiguous source has been asked for, and the failure that its next
  piece meets. -/
  lists  : Nat := 0
  asked  : Nat := 0
  home   : Nat := 0
  plan   : List (Nat × Nat × Nat) := []
  upTo   : Nat := 0
  fail   : Option (Nat × Nat × Nat) := none
  oob    : Nat := 0
  tries  : Nat := 0
  /-- The record the parked command waits for (R331). -/
  parked : Option Nat := none
  wts    : Nat := 0
  deriving DecidableEq, Repr

/-- The completion of a REL (R370, steps 2 to 5). -/
structure RelRun where
  id     : Nat
  core   : Nat
  ctx    : Nat
  task   : Nat
  launch : Nat
  serial : Nat
  pos    : Nat
  va     : Nat
  ent    : Lrt
  val    : Dword
  sc     : Scope
  ranges : List (Nat × Nat)
  sn     : Nat
  /-- 2: scope work; 3: write-backs awaited; 4: grant awaited; 5: log entry; 6: the write. -/
  phase  : Nat := 2
  wbs    : List Nat := []
  /-- The log entry it took, and the one it waits for. -/
  log    : Option Nat := none
  victim : Option Nat := none
  p      : Nat := 0
  deriving DecidableEq, Repr

/-- The Hardy of a cluster (R229, R230): replays waiting, the first under way since a clock. -/
structure Hardy where
  queue : List (Nat × Nat × Nat) := []
  until_ : Option Nat := none
  deriving DecidableEq, Repr

/-- A cluster: L2 slice, spill queue, engines, Hardy (R275, R284, R326). -/
structure Clus where
  l2     : List CLine := []
  /-- What has arrived at the slice from outside its cluster and is not served, in its input buffer and in its spill queue: answers
  of homes, and writes that wait on a pinned line (R275, R284). Requests, in order of arrival. -/
  inbuf  : List Nat := []
  spill  : List Nat := []
  /-- The latest time of an acknowledged write of the cluster (R338, R343, R346). -/
  ackLt  : Nat := 0
  path0  : Nat := 0
  path1  : Nat := 0
  hardy  : Hardy := {}
  deriving DecidableEq, Repr

/-- A portion of a launch (R81) on its way to a placer or on a pending list: its tasks are first, first+1, … in WID
order of the launch. -/
structure Portion where
  launch : Nat
  first  : Nat
  count  : Nat
  next   : Nat := 0
  die    : Nat
  /-- Instances fixed by level-k group: (level, group number, domain instance) (R86). -/
  fixed  : List (Nat × Nat × Nat) := []
  /-- Gang reservations: (level, group number, domain instance, contexts left) (R87). -/
  gang   : List (Nat × Nat × Nat × Nat) := []
  deriving DecidableEq, Repr

/-- A compute die, or the hearth die (R24, R91, R277, R279, R433). -/
structure Die where
  clen   : BitVec 12 := 0#12
  dfail  : Bool := false
  mxen   : BitVec 48 := 0#48
  cen    : BitVec 48 := 0#48
  spare  : BitVec 12 := 0#12
  htbase : Nat := 0
  /-- Translation cache: (asid, page base, page size, PPA of the base or bus address, migrating, absent) (R279). -/
  tc     : List (Nat × Nat × Nat × Nat) := []
  /-- Walk cache (R279): asid, place and size of a B-tree node or upper-level table entry, and its bytes. -/
  wc     : List (Nat × Nat × Nat × Memory) := []
  walkers : List Nat := []
  walkQ  : List Nat := []
  htAsid : Nat := 0
  htAll  : Bool := false
  htPage : Nat := 0
  htDone : Bool := false
  htBusy : Option (List Nat) := none
  /-- Invalidations before the last that had not completed when it was written: ASID, every page, block (R279). -/
  htOpen : List (Nat × Bool × Nat) := []
  frames : List Nat := []
  bud    : Nat := 0
  tlim   : Nat := 0
  temp   : Nat := 0
  thr    : Nat := 0
  pending : List Portion := []
  /-- The permit audit's quiesce ends at this clock (R425). -/
  audit  : Option Nat := none
  /-- The quiesce of a timestamp rebase ends at this clock (R341). -/
  calm   : Nat := 0
  /-- Links whose permit count differs from the design value: link and difference (R425). -/
  permits : List (Nat × Int) := []
  deriving DecidableEq, Repr

/-- A RED or FRED element in update state (R314 to R316): operation or format, width, v0, contributions per die. -/
structure Upd where
  /-- Place of the element (`Req.p`). -/
  p    : Nat
  w    : Nat
  /-- Key slot of the range it was reached through. -/
  key  : Nat := 0
  /-- none: FRED of the format code in `fmt`. -/
  op   : Option AmoOp
  fmt  : Ty
  v0   : Nat
  /-- Contributions with the die whose partial copy holds them, in order of arrival. -/
  parts : List (Nat × Nat)
  deriving DecidableEq, Repr

/-- What the home keeps of a line beside its bytes (R282, R284, R339, R411). -/
structure LineInfo where
  tag  : Word32 := 0#32
  wts  : Nat := 0
  rts  : Nat := 0
  err  : Bool := false
  /-- Clusters that pinned it (R284). -/
  pins : List Nat := []
  deriving DecidableEq, Repr

/-- Who asked (R279). -/
inductive Agent where
  | ctx (core ctx : Nat)
  | copy (id : Nat)
  /-- A line written back by a cache that gives it up (R273). -/
  | evict (core : Nat)
  /-- A step, or a table load, of the collective engine. -/
  | coll (id : Nat)
  /-- Another chip and its own number for the request (R285). -/
  | peer (chip id : Nat)
  deriving DecidableEq, Repr

/-- What a request wants of a home (R279 to R282). Data and byte enables start at the address of the request. -/
inductive Want where
  /-- Bytes for a group of reads. -/
  | read (grp : Nat)
  | prefetch (l2 : Bool)
  | pin
  /-- A write grant for an entry of the core or, for a copy, a group. -/
  | grant (id : Nat)
  | write (data be : Nat)
  | wback (data be : Nat)
  | amo (rid : Nat) (d : SReg) (op : AmoOp) (val : Nat) (sz : Size)
  | cas (rid : Nat) (d : SReg) (exp val : Nat) (sz : Size)
  | red (op : AmoOp) (val : Nat)
  | fred (ty : Ty) (val : Nat)
  | sync
  /-- A release: the value, bits [127:96] of the word, the log entry if one is taken. -/
  | rel (val : Dword) (hi : Nat) (log : Option Nat)
  deriving DecidableEq, Repr

/-- A request on its way, at a home, or answered (R279). -/
structure Req where
  id     : Nat
  who    : Agent
  serial : Nat := 0
  pos    : Nat := 0
  launch : Nat := 0
  /-- Number of the task (`Ctx.task`). -/
  task   : Nat := 0
  g      : GAddr
  want   : Want
  /-- Requester's logical time (R339). -/
  lt     : Nat := 0
  /-- Home die, 8 for the host port, 9 while it is not known (R270). -/
  home   : Nat := 9
  /-- Where the byte at g.va lies: its package physical address, or 2^64 + its bus address. -/
  p      : Option Nat := none
  sendNo : Nat := 0
  /-- Its context has rolled back or ended: what comes back is dropped. -/
  dead   : Bool := false
  /-- A write of the cluster to the line has left since: the bytes read are not kept in the caches (R340). -/
  nofill : Bool := false
  /-- Waits at the home for a walk (R279). -/
  walking : Bool := false
  /-- Applied, and its answer on its way or at hand. -/
  served : Bool := false
  /-- A read that a cache of its cluster serves: nothing was asked of a home (R275). -/
  hit    : Bool := false
  /-- The whole line as its context sees it, its own earlier writes that have not reached the home included (R337). Of an
  atomic or release: the bytes it left at its place. -/
  own    : Nat := 0
  /-- The bytes that the caches held of the line as a read was issued, the context's own earlier stores among them, and which
  they are (R273, R337, R340). -/
  held   : Nat := 0
  heldV  : BitVec 128 := 0#128
  /-- 0; or refused: 1 migration, 2 absent; or failed: 3 translation error, 4 key, 5 uncorrectable line, 6 home
  unavailable. -/
  code   : Nat := 0
  data   : Nat := 0
  wts    : Nat := 0
  lease  : Nat := 0
  tag    : Option Word32 := none
  deriving DecidableEq, Repr

/-- Reads, grants or writes of one access that wait for each other (R308, R309, R330). -/
structure Group where
  id     : Nat
  who    : Agent
  serial : Nat := 0
  /-- Register that a read fills, size code of a scalar read, and lanes with their addresses of a vector read. -/
  dest   : RegRef := .s 0
  sz     : Size := .d
  lanes  : List (Nat × Nat) := []
  left   : Nat := 0
  got    : Memory := []
  wts    : Nat := 0
  code   : Nat := 0
  at_    : Nat := 0
  deriving DecidableEq, Repr

/-- A variable-latency result on its way (R141). -/
structure VRes where
  id   : Nat
  /-- The core's own clock at whose end it lands (R453); none while its time is not fixed. -/
  clk  : Option Nat := none
  core : Nat
  ctx  : Nat
  w    : RegWrite
  /-- Writes a RECV still waits for. -/
  left : Nat := 0
  /-- A read of memory or of a tag (R355). -/
  ld   : Bool := false
  /-- TLRD: the timeline and field read when it lands. -/
  tl   : Option (Nat × Nat) := none
  deriving DecidableEq, Repr

/-- A remote store chunk or RSTE on the mesh (R303, R304), or an acknowledgement. -/
structure Msg where
  id    : Nat
  core  : Nat
  ctx   : Nat
  task  : Nat
  launch : Nat
  dest  : Nat
  addr  : Nat
  data  : Chunk := 0#512
  be    : BitVec 64 := 0#64
  /-- RSTE: its scope. -/
  rste  : Option Scope := none
  sendNo : Nat := 0
  bytes : Nat := 0
  tag   : Option Word32 := none
  wts   : Nat := 0
  /-- It has reached its core, and claims its cell or waits in the remote tag queue. -/
  here  : Bool := false
  deriving DecidableEq, Repr

/-- A promotion (R350): the acquirer, the word it read, the target core, and the log entries the reply waits for. -/
structure Promo where
  id    : Nat
  core  : Nat
  ctx   : Nat
  task  : Nat
  sc    : Scope
  va    : Nat
  asid  : Nat
  seq   : Nat
  ep    : Nat
  target : Nat
  status : Nat := 0
  lt    : Nat := 0
  waits : List Nat := []
  /-- It has reached the target. -/
  here  : Bool := false
  deriving DecidableEq, Repr

/-- A barrier of a gang group (R375). -/
structure Barrier where
  id     : Nat
  launch : Nat
  level  : Nat
  group  : Nat
  size   : Nat
  done   : Word32 := 0#32
  /-- Arrivals of the current generation, arrival counts of the tasks that ended, largest lt carried. -/
  here   : Nat := 0
  ended  : List Nat := []
  lt     : Nat := 0
  /-- The largest lt carried in the generation that completed last. -/
  ltDone : Nat := 0
  deriving DecidableEq, Repr

/-- A launch queue (R67) and its completion ring (R429). -/
structure LQueue where
  en    : Bool := false
  dev   : Bool := false
  lg    : Nat := 0
  base  : Nat := 0
  head  : Word32 := 0#32
  tail  : Word32 := 0#32
  stale : Bool := false
  fwait : Bool := false
  ovr   : Bool := false
  /-- The head entry is read again, the re-reads made of it, and the entry that passed its stamp check (R72). -/
  busy : Bool := false
  rereads : Nat := 0
  ready : Option (BitVec 2048) := none
  reserved : Nat := 0
  cren  : Bool := false
  crlg  : Nat := 0
  crbase : Nat := 0
  crhead : Word32 := 0#32
  crtail : Word32 := 0#32
  /-- Completion records not written yet, with their launches and interrupt vectors, 32 for none (R429, R430). -/
  crwait : List (Nat × Nat × BitVec 256) := []
  deriving DecidableEq, Repr

/-- A follow record (R75, R89): done flag, places of the launch and its number. A place is twice the number of a core, plus
the half-core in split mode; a core in checked mode stands with both halves. -/
structure Follow where
  gin   : Nat
  ltag  : Nat
  done  : Bool
  cores : List Nat := []
  launch : Nat := 0
  deriving DecidableEq, Repr

/-- A launch that was popped (R32, R74, R427). -/
structure Launch where
  id    : Nat
  q     : Nat
  hdr   : BitVec 2048
  dir   : BitVec 512
  lrt   : List Lrt
  /-- Tasks left to hand out: portions given, tasks started, ended, halted by an event (R82, R427, R428). -/
  level : Nat := 0
  given : Nat := 0
  total : Nat := 0
  lastDie : Option Nat := none
  /-- Die of each group of the highest level bound to DIE above the portions, by group number (R36). -/
  groupDie : Tab Nat := []
  started : Nat := 0
  ended : Nat := 0
  halted : Nat := 0
  cancelled : Bool := false
  /-- Places where its tasks started, coded as in `Follow`. -/
  cores : List Nat := []
  /-- Cores on which its tasks have run: started, or resumed after a move (R427). -/
  ran : List Nat := []
  /-- Status fixed (R428), and PCYC at completion (R427, R429). -/
  status : Option Nat := none
  doneAt : Option Nat := none
  /-- Commands numbered by its tasks and not completed (R427). -/
  cmds  : Nat := 0
  /-- The launch it follows and the places where that one's tasks started (R89). -/
  pred  : Option Nat := none
  only  : List Nat := []
  /-- Write-back of its lines has begun (R427). -/
  closing : Bool := false
  deriving DecidableEq, Repr

/-- A drained LAUNCH: its bytes, its queue, and the issuer with its sends so far (R73). -/
structure LEntry where
  id   : Nat
  q    : Nat
  parts : List Chunk
  core : Nat
  ctx  : Nat
  task : Nat
  launch : Nat
  sn   : Nat
  deriving DecidableEq, Repr

/-- The distributor (R66 to R89). -/
structure Dist where
  queues : Tab LQueue := []
  last   : Tab Nat := []
  cancel : List Nat := []
  /-- Tokens that wait for room in the cancel set (R77). -/
  cancelWait : List Nat := []
  follow : List Follow := []
  waiting : List Portion := []
  /-- Portions on their way to their die's placer, in the order they were handed out (R83, R452). -/
  handing : List Portion := []
  /-- Gang reservations of levels above the portions (R87): launch, level, group, domain code, instance, contexts left. -/
  gangs  : List (Nat × Nat × Nat × Nat × Nat × Nat) := []
  launches : List Launch := []
  popNo  : Nat := 0
  /-- LAUNCH entries drained and not written (R73). -/
  lentries : List LEntry := []
  /-- MSI-X vectors raised, newest last; 32 is the error vector (R72, R429). -/
  irqs   : List Nat := []
  deriving DecidableEq, Repr

/-- A task whose state lies in a save area (R418 to R420): the area, the core it left, its place there, its numbers. -/
structure Save where
  area   : Nat
  core   : Nat
  task   : Nat
  launch : Nat
  wid    : Dword
  origin : Nat
  serial : Nat
  sendNo : Nat
  /-- A BAR whose arrival stands was the next bundle (R377). -/
  barOn  : Bool := false
  /-- The bundle that had acted while it still waited: what it waits for, and its registers (R365, R377). -/
  late   : Option (Completion × Regs × Nat × Nat) := none
  /-- The open tile of an owner saved in a parked wait, and its rows on their way (R92, R420). -/
  tile   : Option Tile := none
  rows   : List FedRow := []
  /-- Numbers that the timelines of the core had given out when the task was saved (R420). -/
  rels   : Tab Dword := []
  deriving DecidableEq, Repr

/-- A fault record (R412) as 512 bits, and whether it waits for a resolve. -/
structure FaultQ where
  ring  : List (BitVec 512) := []
  seq   : Word32 := 0#32
  /-- Records that found the ring full (R412). -/
  heldRecs : List (BitVec 512) := []
  /-- Passed to the host, newest last. -/
  host  : List (BitVec 512) := []
  /-- Waiting records of causes 0x16 and 0x17: number, core, context, copy id if any (R412). -/
  waits : List (Nat × Nat × Nat × Option Nat) := []
  lastOut : Nat := 0
  deriving DecidableEq, Repr

/-- A link (R394, R395). -/
structure Link where
  tx    : BitVec 8 := 0#8
  rx    : BitVec 8 := 0#8
  /-- Retraining: transmit wavelengths in bits 0 to 7, receive wavelengths in bits 8 to 15. -/
  retr  : BitVec 16 := 0#16
  down  : Bool := false
  rpl   : Nat := 0
  replay : List Packet := []
  /-- Flits sent and received. -/
  flits : Nat := 0
  rflits : Nat := 0
  /-- Agreed sets of transmit and of receive wavelengths: each applies at its direction's next flit whose number is a multiple
  of 8 (R395). -/
  txNew : Option (BitVec 8) := none
  rxNew : Option (BitVec 8) := none
  deriving DecidableEq, Repr

/-- A message held in a link receive queue (R397). -/
structure LMsg where
  src  : Nat
  gin  : Nat
  /-- Logical time of the sender's release (R381). -/
  lt   : Nat
  bytes : List Byte
  deriving DecidableEq, Repr

/-- A link receive queue (R397): units of 64 B reserved or held, and the requests for room in order: chip, the sender's
number for the message, units (R398). -/
structure LRQ where
  en   : Bool := false
  used : Nat := 0
  drop : Nat := 0
  msgs : List LMsg := []
  room : List (Nat × Nat × Nat) := []
  deriving DecidableEq, Repr

/-- A SEND whose entry has drained (R380): place, task, launch, timeline and number, scope, destination, bytes in the
scratchpad. Phases: 0 release, 1 read, 2 room asked, 3 sent. -/
structure SendRun where
  id    : Nat
  core  : Nat
  ctx   : Nat
  task  : Nat
  launch : Nat
  serial : Nat
  sn    : Nat
  tl    : Nat
  num   : Nat := 0
  sc    : Scope
  chip  : Nat
  queue : Nat
  addr  : Nat
  len   : Nat
  phase : Nat := 0
  left  : Nat := 0
  got   : Memory := []
  deriving DecidableEq, Repr

/-- The fabric as the package sees it (R393 to R398). -/
structure Fabric where
  links  : Tab Link := []
  /-- Write grants given to other chips and not used: chip, ASID, address and the place it lies at (R279, R285). -/
  granted : List (Nat × Nat × Nat × Nat) := []
  route  : Tab (BitVec 32) := []
  /-- Writes of the route table that wait for older packets (R393). -/
  routeNew : Tab (BitVec 32) := []
  lrqs   : Tab LRQ := []
  /-- Packets that wait at the port because no link of their route is up, and packets for chips whose entry is being
  written (R393). -/
  port   : List Packet := []
  held   : List Packet := []
  /-- Packets that left, newest last: link and packet. -/
  out    : List (Nat × Packet) := []
  sends  : List SendRun := []
  deriving DecidableEq, Repr

/-- A step of a collective table (R400). -/
structure CStep where
  op : Nat
  fmt : Nat
  dep : Nat
  tag : Nat
  peer : Nat
  src : Nat
  dst : Nat
  len : Nat
  lq : Nat
  lv : Bool
  lh : Nat
  deriving DecidableEq, Repr

/-- A COLL instance (R399): table, GIN, argument base, timeline of a core, and the steps started and completed. -/
structure CInst where
  id   : Nat
  tab  : Nat
  gin  : Nat
  arg  : Nat
  core : Nat
  ctx  : Nat
  task : Nat
  tl   : Nat
  num  : Nat
  launch : Nat
  /-- Steps started or dropped; steps complete or dropped; and a step has failed, so that no further one starts (R331, R401). -/
  started : List Nat := []
  done : List Nat := []
  dead : Bool := false
  deriving DecidableEq, Repr

/-- A COLL or CSTAB entry that has drained and waits (R382, R383): place, task, launch, table, argument or address, steps
(0: a COLL), timeline, scope, sends before it. -/
structure CWait where
  id   : Nat
  core : Nat
  ctx  : Nat
  task : Nat
  launch : Nat
  serial : Nat
  sn   : Nat
  tab  : Nat
  va   : Nat
  /-- A COLL; else a CSTAB of that many steps. -/
  coll : Bool
  steps : Nat
  tl   : Nat
  sc   : Scope
  /-- Number on the timeline once the engine has accepted it; 0 before. -/
  num  : Nat := 0
  /-- Accesses awaited and bytes read so far. -/
  busy : Bool := false
  left : Nat := 0
  got  : Memory := []
  deriving DecidableEq, Repr

/-- Where a step under way stands (R401, R403): its source, inbox room asked, sent, grants, writes, done, the header of the
launch it releases, room in the launch queue. -/
inductive CPhase where
  | read | reading | room | sent | ask | grants | writes | done | head | header | queue
  deriving DecidableEq, Repr

/-- A step under way (R401). -/
structure CRun where
  id   : Nat
  inst : Nat
  step : Nat
  phase : CPhase := .read
  /-- Bytes whose pieces are done (R330, R401). -/
  pos  : Nat := 0
  /-- Accesses awaited, bytes read, bytes to write, pages granted with their places. -/
  left : Nat := 0
  got  : Memory := []
  bytes : List Byte := []
  grants : List (Nat × Option Nat) := []
  deriving DecidableEq, Repr

/-- An accumulator of the collective engine: the state of R57 or an F64 value (R402). -/
structure Acc where
  val  : Int := 0
  cnt  : Nat := 0
  pinf : Bool := false
  ninf : Bool := false
  nan  : Bool := false
  /-- F64: the value, none when empty. -/
  f64  : Option Nat := none
  deriving DecidableEq, Repr

/-- The collective engine (R399): tables with the GIN that loaded them, accumulators, inbox (source chip, tag, GIN, bytes),
bytes of the inbox reserved, requests for inbox room (chip, its number, bytes), instances, entries that wait, steps under
way. -/
structure Coll where
  tabs  : Tab (Nat × List CStep) := []
  accs  : Tab Acc := []
  inbox : List (Nat × Nat × Nat × List Byte) := []
  used  : Nat := 0
  room  : List (Nat × Nat × Nat) := []
  insts : List CInst := []
  waits : List CWait := []
  runs  : List CRun := []
  deriving DecidableEq, Repr

/-- Checkpoint drain (R405 to R408). Units are numbered by PPA >> 16. -/
structure Ckpt where
  open_ : Bool := false
  /-- Units already drained in this drain; every other unit outside the reserve is undrained. -/
  drained : List Nat := []
  /-- Reserve copies: unit and its bytes as canonical memory. -/
  copies : List (Nat × Memory) := []
  tier  : Option Nat := none
  stopped : Bool := false
  /-- Grants that wait for a unit to be drained: request and unit (R406). -/
  waits : List (Nat × Nat) := []
  /-- Bytes streamed to the safe tier: unit and bytes. -/
  image : List (Nat × Memory) := []
  deriving DecidableEq, Repr

/-- What boot finds and writes (R20, R434): the model's own record of the part, see the assumption log. -/
structure Factory where
  good    : Tab (BitVec 12) := []
  spareOf : Tab Nat := []
  badMx   : Tab (BitVec 48) := []
  chip    : Nat := 0
  budget  : Nat := 65535
  tlim    : Nat := 100
  fail    : Option (Nat × Nat) := none
  /-- Clusters that have failed in the field, by die: those contained (R20). -/
  failed  : Tab (BitVec 12) := []
  /-- What the management core's firmware writes as it boots: the route table, the key slots, and HTBASE by die (R434 steps 4, 5). -/
  route   : Tab (BitVec 32) := []
  keys    : Tab (BitVec 256 × BitVec 256) := []
  htbase  : Tab Nat := []
  deriving DecidableEq, Repr

/-- The management core's registers (R287, R392, R432, R434). -/
structure Mgmt where
  ready : Bool := false
  fail  : Bool := false
  step  : Nat := 0
  why_  : Nat := 0
  chip  : BitVec 18 := 0#18
  caps  : Tab Dword := []
  keys  : Tab (BitVec 256 × BitVec 256) := []
  /-- Save areas that the management core has for the pre-emptions it makes after a retirement (R231, R419). -/
  areas : List Nat := []
  factory : Factory := {}
  deriving DecidableEq, Repr

/-- A trap of the issuing bundle (R409, R410): class, cause, sub code, slot, information of the record. -/
structure Trap where
  cls   : Nat := 2
  cause : Nat
  sub   : Nat := 0
  slot  : Nat := 0
  info  : Nat := 0
  addr  : Nat := 0
  asid  : Nat := 0
  deriving DecidableEq, Repr

/-- Why the issuing bundle does not issue (R136, R146). -/
inductive Stop where
  | hold
  | trap (t : Trap)
  deriving DecidableEq, Repr

/-- An effect of the issuing bundle that later bundles see (R145, R161, R372, R378). -/
inductive Effect where
  | ring (h : HReg) (fill cp eng : Int)
  | ringSet (h : HReg) (r : Ring)
  | bind (n : BReg) (b : Binding)
  | fpctl (rm : Rm) (ilk : Bool)
  | reseed (v : Word32)
  | gens (g : Vector Word32 512)
  | mreg (half : Bool) (shadow : Bool) (reg : Nat) (v : Dword)
  | push (e : LoopEntry)
  | pop
  | branch (target : Int) (delay : Nat)
  deriving DecidableEq, Repr

/-- A declared use of the reservation table (R245): data bank, row, clock, read. -/
structure Use where
  bank : Nat
  row  : Nat
  clk  : Nat
  read : Bool
  deriving DecidableEq, Repr

/-- The issue latch: the bundle that issues (R146) and what its slots have asked for so far. The model's own. -/
structure Issue where
  core   : Nat := 0
  ctx    : Nat := 0
  pos    : Nat := 0
  next   : Nat := 0
  slot   : Nat := 0
  serial : Nat := 0
  /-- Slot instructions by slot number, and the header flags mk, yd, qp, nd. -/
  slots  : List (Nat × Instr) := []
  fmk    : Bool := false
  fyd    : Bool := false
  fqp    : Bool := false
  fnd    : Bool := false
  /-- The bundle is split (R94). -/
  split  : Bool := false
  /-- The bundle's slots have acted (R146): what is tried now is one of its header flags, which does its part. -/
  go     : Bool := false
  /-- The completion of a bundle that has issued (R136, R365): its registers are those of its issue. -/
  late   : Bool := false
  /-- No register of the bundle was pending as it came up: its own results do not stop it (R139, R146). -/
  clear  : Bool := false
  stop   : Option Stop := none
  effects : List Effect := []
  uses   : List Use := []
  /-- Clocks the next issue is delayed by skip-map reads, and the entry of a LOOP whose map they are of (R156). -/
  extra  : Nat := 0
  loop   : Option LoopEntry := none
  /-- Whether fetch and decode gave a bundle to issue. -/
  valid  : Bool := false
  deriving DecidableEq, Repr

/-- A register that the host or the management core reads (R9). -/
inductive HostReg where
  | lqcfg (q : Nat) | lqdb (q : Nat) | lqstat (q : Nat)          -- R67
  | lqcr (q : Nat) | lqch (q : Nat)                              -- R429
  | lqcanset | lqcanclr                                          -- R77
  | mgstat                                                       -- R434
  | fqres                                                        -- R412
  | htbase (die : Nat) | htinv (die : Nat)                       -- R277, R279
  | keyval                                                       -- R287
  | plog (core entry : Nat)                                      -- R348
  | linkstat (n : Nat)                                           -- R395
  | lrq (q : Nat)                                                -- R397
  | pmctl (core : Nat)                                           -- R417
  | bellows (die : Nat)                                          -- R433
  | dietopo (die : Nat) | diecore (die : Nat)                    -- R24, R91
  | rt (chip : Nat)                                              -- R393
  deriving DecidableEq, Repr

/-- What a step of the table that is no instruction happens to: each step's constructor says which of these it reads.
The model's own. -/
structure Arg where
  core  : Nat := 0
  ctx   : Nat := 0
  id    : Nat := 0
  n     : Nat := 0
  m     : Nat := 0
  v     : Nat := 0
  flag  : Bool := false
  flag2 : Bool := false
  bytes : List Byte := []
  pkt   : Option Packet := none
  reg   : Option MgmtReg := none
  deriving DecidableEq, Repr

/-- What moves next. The model's own (see the assumption log on the order of agents in one clock). -/
inductive Task where
  /-- A step of the table that is due now. -/
  | ev (i : Instr) (a : Arg)
  /-- One issue opportunity of a core, or of a half-core in split mode (R138, R148). -/
  | issue (core : Nat) (half : Bool)
  /-- The end of the clock for one core: waits, drains and landings (R136, R139). -/
  | endClock (core : Nat)
  deriving DecidableEq, Repr

/-- A dated step. Events of one route keep their order (R282, R305). -/
structure Sched where
  due   : Nat
  route : Nat
  ev    : Instr
  arg   : Arg
  deriving DecidableEq, Repr

/-- The package. -/
structure State where
  /-- PCYC (R25). -/
  pcyc    : Nat
  /-- Ticks of logical time since the last rebase (R338). -/
  ltBase  : Nat
  agenda  : List Task
  sched   : List Sched
  inputs  : List (Nat × Instr × Arg)
  /-- Soft errors to come, with their clocks (log 32). -/
  upsets  : List (Nat × Upset)
  fresh   : Nat
  nextId  : Nat
  iss     : Issue
  arg     : Arg
  mem     : Memory
  host    : Memory
  lines   : Tab LineInfo
  upds    : List Upd
  ftdir   : List (Nat × Nat × Nat)
  hearth  : List CLine
  cores   : Tab Core
  clus    : Tab Clus
  dies    : Tab Die
  bars    : List Barrier
  reqs    : List Req
  groups  : List Group
  vres    : List VRes
  msgs    : List Msg
  promos  : List Promo
  rels    : List RelRun
  copies  : List CopyRun
  saves   : List Save
  dist    : Dist
  fq      : FaultQ
  fab     : Fabric
  coll    : Coll
  ck      : Ckpt
  mg      : Mgmt
  deriving DecidableEq, Repr

/-- The package right after power-on reset, before the management core has booted it (R434): nothing is enabled, no
task exists, and no step is pending but the boot sequence itself. -/
def State.reset : State where
  pcyc := 0
  ltBase := 0
  agenda := [.ev .packagePowerOnReset {}]
  sched := []
  inputs := []
  upsets := []
  fresh := 0
  nextId := 0
  iss := {}
  arg := {}
  mem := []
  host := []
  lines := []
  upds := []
  ftdir := []
  hearth := []
  cores := []
  clus := []
  dies := []
  bars := []
  reqs := []
  groups := []
  vres := []
  msgs := []
  promos := []
  rels := []
  copies := []
  saves := []
  dist := {}
  fq := {}
  fab := {}
  coll := {}
  ck := {}
  mg := {}

end Sys2Proof.Machine
end

