-- ==== Sys2Proof/Machine/Ops.lean ====
section
/-! DEFINITION. The named operations on tables, memory, contexts, results in flight and the issue latch; taking a trap and
returning from one (rollback and resume of fetch). -/

namespace Sys2Proof.Machine

/-- The answer of a step. -/
abbrev Out := Host.Outcome State Fault Refusal

/-! ### Sparse tables -/

/-- What table t holds at n, or the default. -/
def tget {α : Type} : Tab α → Nat → α → α
  | [], _, d => d
  | (m, v) :: t, n, d => if m = n then v else tget t n d

/-- Table t with v at n, kept in rising order. -/
def tset {α : Type} : Tab α → Nat → α → Tab α
  | [], n, v => [(n, v)]
  | (m, w) :: t, n, v => if n < m then (n, v) :: (m, w) :: t else if n = m then (n, v) :: t else (m, w) :: tset t n v

/-- Table t without n. -/
def tdel {α : Type} (t : Tab α) (n : Nat) : Tab α := t.filter (fun p => p.1 != n)

/-- x put before the first thing of the list that it may precede. -/
def insertBy {α : Type} (le : α → α → Bool) (x : α) : List α → List α
  | [] => [x]
  | y :: l => if le x y then x :: y :: l else y :: insertBy le x l

/-- The list in order; equal things keep theirs. -/
def sortBy {α : Type} (le : α → α → Bool) (l : List α) : List α := l.foldr (insertBy le) []

/-! ### Memory -/

/-- The byte at a; a byte nothing has written reads 0 (log 1). -/
def mget : Memory → Nat → Byte
  | [], _ => 0#8
  | (x, b) :: m, a => if x = a then b else if a < x then 0#8 else mget m a

/-- Byte b at a, the canonical form kept. -/
def mset : Memory → Nat → Byte → Memory
  | [], a, b => if b = 0#8 then [] else [(a, b)]
  | (x, c) :: m, a, b =>
    if a < x then (if b = 0#8 then (x, c) :: m else (a, b) :: (x, c) :: m)
    else if a = x then (if b = 0#8 then m else (x, b) :: m)
    else (x, c) :: mset m a b

/-- n bytes from a as a little-endian number (R3). -/
def mread (m : Memory) (a : Nat) : Nat → Nat
  | 0 => 0
  | n + 1 => (mget m a).toNat + 256 * mread m (a + 1) n

/-- The low n bytes of v at a, little-endian (R3). -/
def mwrite (m : Memory) (a : Nat) : Nat → Nat → Memory
  | 0, _ => m
  | n + 1, v => mwrite (mset m a (BitVec.ofNat 8 v)) (a + 1) n (v / 256)

/-- The enabled ones of the low n bytes of v at a; bit i of be enables byte i. -/
def mwriteBe (m : Memory) (a : Nat) : Nat → Nat → Nat → Memory
  | 0, _, _ => m
  | n + 1, v, be => mwriteBe (if be % 2 = 1 then mset m a (BitVec.ofNat 8 v) else m) (a + 1) n (v / 256) (be / 2)

/-- Canonical form of a memory. -/
def Memory.wf : Memory → Bool
  | [] => true
  | [(_, b)] => b != 0#8
  | (x, b) :: (y, c) :: m => b != 0#8 && decide (x < y) && Memory.wf ((y, c) :: m)

/-- Bytes of n bytes of v, lowest first. -/
def bytesOf (v : Nat) : Nat → List Byte
  | 0 => []
  | n + 1 => BitVec.ofNat 8 v :: bytesOf (v / 256) n

/-- A list of bytes, lowest first, as a number. -/
def ofBytes : List Byte → Nat
  | [] => 0
  | b :: l => b.toNat + 256 * ofBytes l

/-! ### Places (R8, R15) -/

/-- Number of a core: die, cluster, core. -/
def coreNo (die clus k : Nat) : Nat := die * 48 + clus * 4 + k
/-- Die of a core. -/
def coreDie (c : Nat) : Nat := c / 48
/-- Cluster number 0 to 11 of a core. -/
def coreClus (c : Nat) : Nat := c / 4 % 12
/-- Core number 0 to 3 in its cluster. -/
def coreK (c : Nat) : Nat := c % 4
/-- Number of the cluster of a core over the package. -/
def clusOf (c : Nat) : Nat := c / 4

namespace State

/-- A core. -/
def core (s : State) (c : Nat) : Machine.Core := tget s.cores c {}
/-- One core changed. -/
def modCore (s : State) (c : Nat) (f : Machine.Core → Machine.Core) : State :=
  { s with cores := tset s.cores c (f (s.core c)) }
/-- A cluster by its number over the package. -/
def clu (s : State) (c : Nat) : Clus := tget s.clus c {}
/-- One cluster changed. -/
def modClu (s : State) (c : Nat) (f : Clus → Clus) : State := { s with clus := tset s.clus c (f (s.clu c)) }
/-- A die. -/
def die (s : State) (d : Nat) : Die := tget s.dies d {}
/-- One die changed. -/
def modDie (s : State) (d : Nat) (f : Die → Die) : State := { s with dies := tset s.dies d (f (s.die d)) }
/-- A context. -/
def ctx (s : State) (c x : Nat) : Ctx := tget (s.core c).ctxs x {}
/-- One context changed. -/
def modCtx (s : State) (c x : Nat) (f : Ctx → Ctx) : State :=
  s.modCore c (fun k => { k with ctxs := tset k.ctxs x (f (tget k.ctxs x {})) })
/-- The core of the issue latch. -/
def cc (s : State) : Machine.Core := s.core s.iss.core
/-- The context of the issue latch. -/
def cx (s : State) : Ctx := s.ctx s.iss.core s.iss.ctx
/-- The issuing context changed. -/
def modCx (s : State) (f : Ctx → Ctx) : State := s.modCtx s.iss.core s.iss.ctx f
/-- The issuing core changed. -/
def modCc (s : State) (f : Machine.Core → Machine.Core) : State := s.modCore s.iss.core f
/-- The core's own clock: PCYC less the clocks it spent frozen (R150). -/
def now (s : State) (c : Nat) : Nat := s.pcyc - (s.core c).lost
/-- A launch by its id. -/
def launch? (s : State) (l : Nat) : Option Launch := s.dist.launches.find? (fun x => x.id = l)
/-- A launch, or an empty one. -/
def launch (s : State) (l : Nat) : Launch := (s.launch? l).getD { id := l, q := 0, hdr := 0#2048, dir := 0#512, lrt := [] }
/-- One launch changed. -/
def modLaunch (s : State) (l : Nat) (f : Launch → Launch) : State :=
  { s with dist := { s.dist with launches := s.dist.launches.map (fun x => if x.id = l then f x else x) } }
/-- A launch with the locked range table that a core has loaded for it (R268); elsewhere with the table of its check. -/
def launchOn (s : State) (c id : Nat) : Launch :=
  match (s.core c).lrts.find? (fun p => p.1 = id) with
  | some p => { s.launch id with lrt := p.2 }
  | none => s.launch id
/-- The launch of the issuing context, with its core's table. -/
def cl (s : State) : Launch := s.launchOn s.iss.core s.cx.launch
/-- Half-core 0 or 1 of a context; 0 in checked mode (R21). -/
def half (s : State) (c x : Nat) : Nat := if (s.core c).split then x / 4 else 0

/-- The next free value of a delay that the device does not promise (R452, log 5). -/
def delay (s : State) : Nat × State := (Config.delay s.fresh, { s with fresh := s.fresh + 1 })
/-- The next free choice below n (log 5). -/
def choose (s : State) (n : Nat) : Nat × State := (Config.choice s.fresh % n, { s with fresh := s.fresh + 1 })
/-- A number no other thing has. -/
def newId (s : State) : Nat × State := (s.nextId, { s with nextId := s.nextId + 1 })
/-- A dated step, not before earlier ones of the same route (route 0 orders nothing). -/
def sched_ (s : State) (due route : Nat) (i : Instr) (a : Arg) : State :=
  let due := s.sched.foldl (fun d e => if route != 0 && e.route = route then max d e.due else d) due
  { s with sched := s.sched ++ [⟨due, route, i, a⟩] }
/-- A dated step after a time that the device does not promise. -/
def after (s : State) (least route : Nat) (i : Instr) (a : Arg) : State :=
  let (d, s) := s.delay
  s.sched_ (s.pcyc + 1 + least + d) route i a

end State

/-! ### Header fields (R32) -/

/-- Bits [lo+n−1 : lo] of a launch header. -/
def Launch.h (l : Launch) (lo n : Nat) : Nat := fld l.hdr.toNat lo n
/-- hdr.nf. -/
def Launch.nf (l : Launch) : Nat := l.h 40 3
/-- hdr.split. -/
def Launch.split (l : Launch) : Bool := l.h 43 1 = 1
/-- hdr.mx. -/
def Launch.mx (l : Launch) : Bool := l.h 44 1 = 1
/-- hdr.ilk. -/
def Launch.ilk (l : Launch) : Bool := l.h 45 1 = 1
/-- hdr.pri. -/
def Launch.pri (l : Launch) : Nat := l.h 46 2
/-- hdr.dmask. -/
def Launch.hdmask (l : Launch) : Nat := l.h 48 8
/-- hdr.hcap. -/
def Launch.hcap (l : Launch) : Nat := l.h 56 8
/-- Width of WID field k. -/
def Launch.w (l : Launch) (k : Nat) : Nat := if k < 6 then l.h (64 + 7 * k) 7 else 0
/-- Binding code of level k. -/
def Launch.lb (l : Launch) (k : Nat) : Nat := l.h (106 + 3 * k) 3
/-- hdr.barlv. -/
def Launch.barlv (l : Launch) : Nat := l.h 128 7
/-- hdr.fv. -/
def Launch.fv (l : Launch) : Bool := l.h 135 1 = 1
/-- hdr.gin. -/
def Launch.gin (l : Launch) : Nat := l.h 160 32
/-- hdr.ltag. -/
def Launch.ltag (l : Launch) : Nat := l.h 192 32
/-- hdr.follow. -/
def Launch.followTag (l : Launch) : Nat := l.h 224 32
/-- hdr.bank. -/
def Launch.bank (l : Launch) : Nat := l.h 256 32
/-- The pre-emption window: hdr.pwin, or 24,000 (R417). -/
def Launch.pwin (l : Launch) : Nat := if l.h 288 32 = 0 then Config.defaultWindow else l.h 288 32
/-- hdr.image. -/
def Launch.image (l : Launch) : Nat := l.h 320 64
/-- hdr.arg. -/
def Launch.arg (l : Launch) : Nat := l.h 384 64
/-- hdr.entry. -/
def Launch.entry (l : Launch) : Nat := l.h 448 32
/-- hdr.ub of field k. -/
def Launch.ub (l : Launch) (k : Nat) : Nat := if k < 6 then l.h (512 + 64 * k) 64 else 0

/-! ### Registers of the issuing context (R113, R116) -/

/-- s[n]; s0 reads zero. -/
def Regs.sreg (r : Regs) (n : SReg) : Dword := if n = 0 then 0#64 else r.s[n.val]
/-- v[n]. -/
def Regs.vreg (r : Regs) (n : VReg) : VWord := r.v[n.val]
/-- k[n]; k0 reads all ones. -/
def Regs.kreg (r : Regs) (n : KReg) : KWord := if n = 0 then BitVec.allOnes 512 else r.k[n.val]

/-- s[n] of the issuing context as of issue. -/
def State.rs (s : State) (n : SReg) : Dword := s.cx.r.sreg n
/-- v[n] of the issuing context as of issue. -/
def State.rv (s : State) (n : VReg) : VWord := s.cx.r.vreg n
/-- k[n] of the issuing context as of issue. -/
def State.rk (s : State) (n : KReg) : KWord := s.cx.r.kreg n
/-- The issuing context is in exposed mode (R162). -/
def State.exposed (s : State) : Bool := !s.cx.r.ilk

/-- The register a write names. -/
def RegWrite.ref : RegWrite → RegRef
  | .s d _ => .s d
  | .v d _ _ => .v d
  | .k d _ _ => .k d

/-- A result written to its register; s0 and k0 discard it, and bits that are not enabled keep their value (R113, R151,
R181). -/
def Regs.write (r : Regs) (w : RegWrite) : Regs :=
  match w with
  | .s d x => if d = 0 then r else { r with s := r.s.set d.val x d.isLt }
  | .v d x en => { r with v := r.v.set d.val ((x &&& en) ||| (r.v[d.val] &&& ~~~en)) d.isLt }
  | .k d x en => if d = 0 then r else { r with k := r.k.set d.val ((x &&& en) ||| (r.k[d.val] &&& ~~~en)) d.isLt }

/-- A result of the issuing bundle at a fixed distance (R139); results of the V1 slot of a split bundle wait for the
second cycle (R94). -/
def State.result (s : State) (dist : Nat) (w : RegWrite) (ld : Bool := false) (parts : List (Nat × Nat × Nat) := []) : State :=
  let f : InFlight := { dist := dist, w := w, ld := ld, serial := s.iss.serial, parts := parts }
  if s.iss.split && s.iss.slot = 4 then s.modCx (fun x => { x with split := x.split ++ [f] })
  else s.modCx (fun x => { x with r := { x.r with flight := x.r.flight ++ [f] } })

/-- A scalar result. -/
def State.resS (s : State) (dist : Nat) (d : SReg) (x : Dword) : State := s.result dist (.s d x)

/-- A variable-latency result (R141): its register is pending until it lands at the end of clock clk of the core (R453). -/
def State.varAt (s : State) (clk : Option Nat) (w : RegWrite) (ld : Bool := false) : State :=
  let r : VRes := { id := s.nextId, clk := clk, core := s.iss.core, ctx := s.iss.ctx, w := w, ld := ld }
  State.modCx { s with vres := s.vres ++ [r], nextId := s.nextId + 1 }
    (fun x => { x with pend := x.pend ++ [(s.nextId, s.iss.serial, w.ref)] })

/-- A variable-latency result n clocks after issue. -/
def State.varIn (s : State) (n : Nat) (w : RegWrite) (ld : Bool := false) : State :=
  s.varAt (some (s.now s.iss.core + n)) w ld

/-- A variable-latency result lo to hi clocks after issue, the clock a free value (R453). -/
def State.varRange (s : State) (lo hi : Nat) (w : RegWrite) : State :=
  let (n, s) := s.choose (hi - lo + 1)
  s.varIn (lo + n) w

/-! ### The issue latch (R136, R146) -/

/-- What an instruction's own wait conditions answer. -/
inductive Wait where
  | go | hold
  /-- The wait for the drain of the earlier held entries, which it covers (R256; log 9). -/
  | drain
  /-- The wait for acknowledgements of writes of the whole cluster, which raise the logical time of the core (R343, R355). -/
  | ack
  | trap (t : Trap)
  deriving DecidableEq, Repr

/-- Hold when c fails. -/
def waitFor (c : Bool) : Wait := if c then .go else .hold
/-- The first condition that does not let the bundle go. -/
def Wait.and : Wait → Wait → Wait
  | .go, w => w
  | w, _ => w

/-- The bundle does not issue in this clock. -/
def State.hold (s : State) : State := { s with iss := { s.iss with stop := some .hold } }

/-- The bundle waits for acknowledgements that raise its core's logical time (R355). -/
def State.holdAck (s : State) : State := (s.modCx (fun k => { k with ackWait := true })).hold

/-- The comparisons of a context's closed tiles become due: 2 clocks after the quench point, and 2 clocks after their last
DRAIN publishes (R228). -/
def State.quenchTiles (s : State) (c x : Nat) : State :=
  s.modCore c (fun k => { k with eng0 := { k.eng0 with closed := k.eng0.closed.map (fun t =>
    if t.ctx = x && t.due.isNone then { t with due := some (s.now c + 2) } else t) } })

/-- An implicit quench point that waits covers the earlier held entries of its context, comparisons included, so that they
are released and drain (R228, R253, R256; log 9). -/
def State.holdDrain (s : State) : State :=
  ((s.quenchTiles s.iss.core s.iss.ctx).modCx (fun k =>
    { k with quench := some (max (s.iss.serial - 1) (k.quench.getD 0)) })).hold

/-- An effect that later bundles see. -/
def State.effect (s : State) (e : Effect) : State := { s with iss := { s.iss with effects := s.iss.effects ++ [e] } }

/-- Cells declared by the bundle (R147). -/
def State.declare (s : State) (l : List Use) : State := { s with iss := { s.iss with uses := s.iss.uses ++ l } }

/-! ### Records of the fault queue (R412) -/

/-- The fields of a record that its producer gives. -/
structure Rec where
  cls   : Nat
  cause : Nat
  sub   : Nat := 0
  slot  : Nat := 0
  die   : Nat := 8
  clus  : Nat := 0
  core  : Nat := 0
  half  : Nat := 0
  ctx   : Nat := 0
  eng   : Bool := false
  asid  : Nat := 0
  pos   : Nat := 0
  wid   : Nat := 0
  gin   : Nat := 0
  info  : Nat := 0
  addr  : Nat := 0
  d0    : Nat := 0
  d1    : Nat := 0
  deriving DecidableEq, Repr

/-- The 512 bits of a record (R412). -/
def Rec.word (r : Rec) (seq pcyc : Nat) : BitVec 512 :=
  BitVec.ofNat 512 (r.cls % 8 + r.cause % 256 * 2 ^ 8 + r.sub % 256 * 2 ^ 16 + r.slot % 8 * 2 ^ 24 + seq % 2 ^ 32 * 2 ^ 32
    + r.die % 16 * 2 ^ 64 + r.clus % 16 * 2 ^ 68 + r.core % 4 * 2 ^ 72 + r.half % 2 * 2 ^ 74 + r.ctx % 8 * 2 ^ 75
    + Bool.code r.eng * 2 ^ 78 + r.asid % 2 ^ 16 * 2 ^ 80 + r.pos % 2 ^ 32 * 2 ^ 96 + r.wid % 2 ^ 64 * 2 ^ 128
    + r.gin % 2 ^ 32 * 2 ^ 192 + r.info % 2 ^ 32 * 2 ^ 224 + pcyc % 2 ^ 64 * 2 ^ 256 + r.addr % 2 ^ 64 * 2 ^ 320
    + r.d0 % 2 ^ 64 * 2 ^ 384 + r.d1 % 2 ^ 64 * 2 ^ 448)

/-- A record made (R412): it is numbered; where the ring is full one of classes 1 to 4 is held and a report is dropped.
A dropped report takes no number (DEDUCED: it never becomes a record). -/
def State.post (s : State) (r : Rec) : State :=
  let w := r.word s.fq.seq.toNat s.pcyc
  if s.fq.ring.length < Config.faultRecords && s.fq.heldRecs.isEmpty then
    { s with fq := { s.fq with ring := s.fq.ring ++ [w], seq := s.fq.seq + 1#32 } }
  else if r.cls = 5 then s
  else { s with fq := { s.fq with heldRecs := s.fq.heldRecs ++ [w], seq := s.fq.seq + 1#32 } }

/-- The place, WID and GIN of a context put into a record. -/
def State.recOf (s : State) (c x : Nat) (r : Rec) : Rec :=
  let k := s.ctx c x
  { r with die := coreDie c, clus := coreClus c, core := coreK c, half := s.half c x, ctx := x, wid := k.wid.toNat,
           gin := (s.launch k.launch).gin }

/-- Clocks that a packet waits to enter the mesh or the bridges of a die: its permit audit, or a rebase of logical time (R341,
R425). -/
def State.meshWait (s : State) (d : Nat) : Nat := max ((s.die d).audit.getD 0) (s.die d).calm - s.pcyc

/-- A cancel token on its way from a die to the distributor on the hearth die (R77). -/
def State.cancelGin (s : State) (d gin : Nat) : State := s.after (s.meshWait d) 0 .cancelTokenArrival { n := gin }

/-! ### Readiness and the run-holder (R135, R137) -/

/-- Counted as ready for the choice of run-holder and secondary (R135). -/
def Ctx.isReady (k : Ctx) : Bool := k.status = .ready || k.status = .waiting

/-- The first ready context after old in its half, wrapping; old again when no other is ready (R137). -/
def nextPrimary (k : Core) (half old : Nat) : Nat :=
  let base := if k.split then 4 * half else 0
  let n := if k.split then 4 else 8
  let order := (List.range n).map (fun i => base + (old - base + 1 + i) % n)
  (order.find? (fun x => x != old && (tget k.ctxs x {}).isReady)).getD old

/-- The primary of a half. -/
def Core.primary (k : Core) (half : Nat) : Nat := if half = 1 then k.prim1 else k.prim0

/-- The primary of a half as its issue opportunity began. -/
def Core.lead (k : Core) (half : Nat) : Nat := if half = 1 then k.lead1 else k.lead0

/-- The primary of a half changes if it is x (R137). -/
def State.yieldPrimary (s : State) (c x : Nat) : State :=
  let h := s.half c x
  if (s.core c).primary h = x then
    s.modCore c (fun k => if h = 1 then { k with prim1 := nextPrimary k 1 x } else { k with prim0 := nextPrimary k 0 x })
  else s

/-! ### Held entries and tiles given up -/

/-- Unreleased held entries of a context go (R254, R409), with the reservations they carry. -/
def State.dropHeld (s : State) (c x : Nat) : State :=
  let held := (s.core c).cb.filter (fun e => e.ctx = x && e.st = .held)
  let gone := held.map (·.id)
  -- the reservation of a LAUNCH is dropped with its entries (R73)
  let s := held.foldl (fun (s : State) e => match e.kind with
    | .launch q 0 _ =>
      let u := tget s.dist.queues q {}
      { s with dist := { s.dist with queues := tset s.dist.queues q { u with reserved := u.reserved - 1 } } }
    | _ => s) s
  let s := s.modCore c (fun k => { k with cb := k.cb.filter (fun e => !(e.ctx = x && e.st = .held)) })
  s.modCtx c x (fun k => { k with resv := k.resv.filter (fun r => !gone.contains r.2.1) })

/-- The engine that serves a context: array 1 for half-core 1 in split mode (R232). -/
def Core.eng (k : Core) (half : Nat) : Engine := if half = 1 then k.eng1 else k.eng0
/-- The engine of a half changed. -/
def Core.modEng (k : Core) (half : Nat) (f : Engine → Engine) : Core :=
  if half = 1 then { k with eng1 := f k.eng1 } else { k with eng0 := f k.eng0 }

/-- The owner's open tile is abandoned and ownership released (R92): tiles of the context that are closed and not compared
keep their records only when `closed` is true. -/
def Engine.abandon (e : Engine) (x : Nat) (closedToo : Bool) : Engine :=
  let e := if e.owner = some x then { e with owner := none, tile := none, rows := e.rows.filter (fun r => r.ctx != x) } else e
  if closedToo then { e with closed := e.closed.filter (fun t => t.ctx != x) } else e

/-! ### Taking a trap (R409, R410, R412) -/

/-- An operation of the core's PMCTL register ends (R417). -/
def State.pmEnd (s : State) (c : Nat) (saved : Bool) : State :=
  s.modCore c (fun k => { k with pmctl := (k.pmctl &&& ~~~0x180#64) ||| BitVec.ofNat 64 (Bool.code saved * 2 ^ 8) })
/-- The request for a context, or its save, ends with the task (R416, R417). -/
def State.endRequest (s : State) (c x : Nat) : State :=
  let k := s.ctx c x
  if k.pre.isSome || (match k.why with | .saving _ _ => true | _ => false) then
    (s.modCtx c x (fun k => { k with pre := none })).pmEnd c false
  else s

/-- A context halts after a class 2 to 4 event: its unreleased entries are discarded and it gives up the run (R409, R137);
its open tile is abandoned when its graph is cancelled (R92). It stays halted until its released entries have drained. -/
def State.haltTrapped (s : State) (c x : Nat) : State :=
  let s := (s.dropHeld c x).endRequest c x
  let s := s.modCtx c x (fun k => { k with status := .halted, why := .trapped, waitClk := 0, split := [], splitOn := false,
                                           scan := none })
  let s := s.modCore c (fun k => k.modEng (if k.split then x / 4 else 0) (fun e => e.abandon x true))
  let s := s.modLaunch (s.ctx c x).launch (fun l => { l with halted := l.halted + 1 })
  s.yieldPrimary c x

/-- A program error of a context (class 2, R409): the record, the halt and the cancel token of its GIN. -/
def State.programError (s : State) (c x : Nat) (t : Trap) (pos : Nat) : State :=
  let gin := (s.launch (s.ctx c x).launch).gin
  let s := s.post (s.recOf c x { cls := t.cls, cause := t.cause, sub := t.sub, slot := t.slot, asid := t.asid, pos := pos,
                                 info := t.info, addr := t.addr })
  (s.haltTrapped c x).cancelGin (coreDie c) gin

/-- A trap of the issuing bundle. Class 2 is a program error; class 1 (a TLWAIT on a parked timeline, R334, R409) halts
the context without rollback until the host resolves the record. -/
def State.trap (s : State) (t : Trap) : State :=
  let t := { t with slot := if t.slot = 0 then s.iss.slot else t.slot }
  let (c, x) := (s.iss.core, s.iss.ctx)
  let s' :=
    if t.cls = 1 then
      let seq := s.fq.seq.toNat
      let s := s.post (s.recOf c x { cls := 1, cause := t.cause, sub := t.sub, slot := t.slot, pos := s.iss.pos,
                                     info := t.info, addr := t.addr })
      let s := { s with fq := { s.fq with waits := s.fq.waits ++ [(seq, c, x, none)] } }
      (s.modCtx c x (fun k => { k with status := .halted, why := .resolve seq true })).yieldPrimary c x
    else s.programError c x t s.iss.pos
  { s' with iss := { s'.iss with stop := some (.trap t) } }

/-! ### Rollback: the return to the restart mark (R414) -/

/-- The registers the established mark holds; task start is the first mark (R413). -/
def Ctx.markRegs (k : Ctx) : Regs := k.mark.getD k.r

/-- A bundle is one after the established mark; the mark bundle itself is not (R413, R414). -/
def Ctx.afterMark (k : Ctx) (serial : Nat) : Bool := match k.markSer with | some n => n < serial | none => true

/-- What is still to come back for the bundles `of_` of a context is dropped: its variable-latency results and the answers of its
reads, grants, atomics and sync polls. Writes, reductions and releases that have left run on. -/
def State.dropReplies (s : State) (c x : Nat) (of_ : Nat → Bool := fun _ => true) : State :=
  let mine (w : Agent) (serial : Nat) : Bool := w = .ctx c x && of_ serial
  let keep := ((s.ctx c x).pend.filter (fun p => !of_ p.2.1)).map (·.1)
  let runs (w : Want) : Bool := match w with
    | .write _ _ | .wback _ _ | .red _ _ | .fred _ _ | .rel _ _ _ | .pin => true
    | _ => false
  { s with vres := s.vres.filter (fun v => !(v.core = c && v.ctx = x) || keep.contains v.id),
           groups := s.groups.filter (fun g => !mine g.who g.serial),
           -- a poll that its home has answered asks nothing more
           reqs := (s.reqs.filter (fun r => !(mine r.who r.serial && r.want = .sync && r.served))).map
             (fun r => if mine r.who r.serial && !runs r.want then { r with dead := true } else r) }

/-- A rollback (R414): unreleased entries go, the shadow comes back with its results in flight, pending bits are cleared,
later tiles are abandoned; fetch resumes 8 clocks after the clock of the event. Sync-word writes under way run on. -/
def State.rollback (s : State) (c x : Nat) (why : Why) : State :=
  -- a save under way goes on at the mark (R418)
  let why := match (s.ctx c x).why, why with
    | .saving a d, .rolling => .saving a d
    | _, w => w
  let h := s.half c x
  let mine := ((s.core c).eng h).opens.filter (fun o => o.ctx = x)
  -- another context has owned the engine since a TSWAP: the rollback takes the matrix sequence fault instead
  if mine.any (fun (o : Opening) => o.swapped && o.other) then
    s.programError c x { cause := 0x0D, slot := 5 } (s.ctx c x).r.pc.toNat
  else
    let s := s.dropHeld c x
    let s := s.modCore c (fun k => k.modEng h (fun e =>
      let e := match mine.head? with
        -- the sets of a tile that another context has opened since stay its own (log 92)
        | some o => if mine.any (fun (o : Opening) => o.other) then e else
            { e with active := o.active, shadow := o.shadow,
                     sel := if (mine.filter (fun (o : Opening) => o.swapped)).length % 2 = 1 then !e.sel else e.sel }
        | none => e
      { e.abandon x true with opens := e.opens.filter (fun o => o.ctx != x) }))
    -- what the mark bundle itself awaits still comes (R413, R414)
    let s := s.dropReplies c x (s.ctx c x).afterMark
    let own := !(s.ctx c x).afterMark ((s.ctx c x).serial - 1)
    let s := s.modCtx c x (fun k =>
      { k with r := k.markRegs, mark2 := none, pend := k.pend.filter (fun p => !k.afterMark p.2.1), split := [], splitOn := false,
               waitClk := 0, scan := none,
               comps := if own then k.comps else k.comps.filter (fun q => match q with | .rel _ => true | _ => false),
               quench := none, ackWait := false, sync := none, syncReq := none, fetchWait := false,
               barOn := own && k.barOn && k.lateRegs.isSome, lateRegs := if own then k.lateRegs else none, markAt := none,
               status := .halted, why := why, nextAt := s.now c + 9 })
    let s := s.yieldPrimary c x
    if why = .rolling then s.sched_ (s.pcyc + 9) 0 .rollbackFetchResume { core := c, ctx := x } else s

/-- Fetch resumes after a rollback (R414): the context is ready at the shadow's position. -/
def State.resumeFetch (s : State) (c x : Nat) : State :=
  s.modCtx c x (fun k => { k with status := .ready, why := .none, nextAt := s.now c, boundary := false })

/-! ### Engine producers (R144, R145) -/

/-- One publication reaches a handle: fill up, eng down. -/
def Ring.publish (r : Ring) : Ring := { r with fill := r.fill + 1, eng := r.eng - 1 }

/-- A reservation whose shadow a mark took is published there too (DEDUCED, log 10). -/
def Regs.publish (r : Regs) (h : Nat) : Regs :=
  if hh : h < 16 then if (r.h[h]).eng = 0 then r else { r with h := r.h.set h (r.h[h]).publish } else r

/-- The slot of a DRAIN, by its first entry, is published at clock y (R228). -/
def Tile.published (t : Tile) (id y : Nat) : Tile :=
  if t.unpub.contains id then { t with unpub := t.unpub.filter (· != id), lastPub := y } else t
/-- The tile of a DRAIN learns of its publication. -/
def Engine.published (e : Engine) (id y : Nat) : Engine :=
  { e with tile := e.tile.map (·.published id y), closed := e.closed.map (·.published id y) }

/-- The first reservation of a handle is published if its data has arrived. -/
def State.publishOne (s : State) (c x h : Nat) : State :=
  match (s.ctx c x).resv.find? (fun r => r.1 = h) with
  | some (_, id, _, true) =>
    State.modCtx (s.modCore c (fun k => { k with eng0 := k.eng0.published id (s.now c), eng1 := k.eng1.published id (s.now c) })) c x (fun k =>
      { k with r := k.r.publish h, mark := k.mark.map (·.publish h), mark2 := k.mark2.map (fun p => (p.1, p.2.publish h)),
               resv := k.resv.filter (fun r => !(r.1 = h && r.2.1 = id)) })
  | _ => s
/-- Slots of a handle whose data has arrived are published in the order they were reserved: a slot whose data came early waits
for the earlier slots (R144). -/
def State.publish (s : State) (c x h : Nat) : State :=
  (s.ctx c x).resv.foldl (fun (s : State) _ => s.publishOne c x h) s

/-- The data of a reserved slot has arrived. -/
def State.arrived (s : State) (c x id : Nat) : State :=
  s.modCtx c x (fun k => { k with resv := k.resv.map (fun r => if r.2.1 = id then (r.1, r.2.1, r.2.2.1, true) else r) })

/-- A change of the registers that bundle `serial` causes after its issue: it reaches the shadows of the marks that the bundle does
not follow (R413, R414). -/
def Ctx.late (k : Ctx) (serial : Nat) (f : Regs → Regs) : Ctx :=
  { k with r := f k.r, mark2 := k.mark2.map (fun m => if serial ≤ m.1 then (m.1, f m.2) else m),
           mark := match k.markSer with | some n => if serial ≤ n then k.mark.map f else k.mark | none => k.mark }

/-! ### Time (R338) -/

/-- The logical time of a context's core, or half-core in split mode (R338). -/
def State.lt (s : State) (c x : Nat) : Nat := s.ltBase + (if s.half c x = 1 then (s.core c).lt1 else (s.core c).lt0)
/-- Logical time raised to at least v. -/
def State.raiseLt (s : State) (c x v : Nat) : State :=
  let h := s.half c x
  s.modCore c (fun k => if h = 1 then { k with lt1 := max k.lt1 (v - s.ltBase) } else { k with lt0 := max k.lt0 (v - s.ltBase) })
/-- A release at DIE or wider is performed once every line that the slice holds write-pending is acknowledged (R343): its time is not
below those of the cluster's writes that were acknowledged before it (R346, R362; DEDUCED, log 87). -/
def State.seesAcks (s : State) (c x : Nat) (sc : Scope) : State :=
  match sc with
  | .core | .clus => s
  | _ => s.raiseLt c x (s.clu (clusOf c)).ackLt

end Sys2Proof.Machine
end

