-- ==== Sys2Proof/Machine/Crypt.lean ====
section
/-! DEFINITION. Line encryption: AES-256-XTS over a 128 B line (R286). The cipher itself is the published standard
(PRESUMED, log 13): the spec names it and does not restate it. -/

namespace Sys2Proof.Machine

/-- Doubling in GF(2^8) with x^8 + x^4 + x^3 + x + 1. -/
def gfDouble (a : Nat) : Nat := if a < 128 then 2 * a else (2 * a - 256) ^^^ 27
/-- Product in GF(2^8), n bits of b. -/
def gfMulN : Nat → Nat → Nat → Nat
  | 0, _, _ => 0
  | n + 1, a, b => (if b % 2 = 1 then a else 0) ^^^ gfMulN n (gfDouble a) (b / 2)
/-- Product in GF(2^8). -/
def gfMul (a b : Nat) : Nat := gfMulN 8 a b
/-- The inverse in GF(2^8), 0 for 0: a^254. -/
def gfInv (a : Nat) : Nat :=
  let a2 := gfMul a a
  let a4 := gfMul a2 a2
  let a8 := gfMul a4 a4
  let a16 := gfMul a8 a8
  let a32 := gfMul a16 a16
  let a64 := gfMul a32 a32
  let a128 := gfMul a64 a64
  gfMul a2 (gfMul a4 (gfMul a8 (gfMul a16 (gfMul a32 (gfMul a64 a128)))))
/-- A byte rotated left by n. -/
def rol8 (a n : Nat) : Nat := (a * 2 ^ n + a / 2 ^ (8 - n)) % 256
/-- SubBytes of one byte. -/
def aesSub (a : Nat) : Nat :=
  let i := gfInv a
  i ^^^ rol8 i 1 ^^^ rol8 i 2 ^^^ rol8 i 3 ^^^ rol8 i 4 ^^^ 99
/-- InvSubBytes of one byte. -/
def aesInvSub (a : Nat) : Nat := gfInv (rol8 a 1 ^^^ rol8 a 3 ^^^ rol8 a 6 ^^^ 5)

/-- One step of the key schedule over the words so far, newest first, each word a list of 4 bytes. -/
def aesExpand : Nat → Nat → List (List Nat) → List (List Nat)
  | 0, _, ws => ws
  | n + 1, i, ws =>
    let prev := ws.headD []
    let back := ws.getD 7 []
    let t := if i % 8 = 0 then
        let r := (prev.drop 1 ++ prev.take 1).map aesSub
        let rc := (List.range (i / 8 - 1)).foldl (fun c _ => gfDouble c) 1
        r.modifyHead (· ^^^ rc)
      else if i % 8 = 4 then prev.map aesSub else prev
    aesExpand n (i + 1) ((back.zipWith (· ^^^ ·) t) :: ws)

/-- The 15 round keys of a 256-bit key, each 16 bytes. -/
def aesKeys (key : Nat) : List (List Nat) :=
  let b := (bytesOf key 32).map (·.toNat)
  let ws := (aesExpand 52 8 ((List.range 8).map (fun i => (b.drop (4 * i)).take 4)).reverse).reverse
  (List.range 15).map (fun i => ((ws.drop (4 * i)).take 4).flatten)

/-- ShiftRows, by -1 for the inverse: byte i of column-major state. -/
def aesShift (inv : Bool) (s : List Nat) : List Nat :=
  (List.range 16).map (fun i => s.getD ((if inv then i + 12 * (i % 4) else i + 4 * (i % 4)) % 16) 0)
/-- MixColumns with the coefficients of a row. -/
def aesMix (k : List Nat) (s : List Nat) : List Nat :=
  (List.range 16).map (fun i =>
    (List.range 4).foldl (fun x j => x ^^^ gfMul (k.getD ((j + 4 - i % 4) % 4) 0) (s.getD (i / 4 * 4 + j) 0)) 0)
/-- AddRoundKey. -/
def aesAdd (s k : List Nat) : List Nat := s.zipWith (· ^^^ ·) k

/-- AES-256 of one 16-byte block. -/
def aesEnc (keys : List (List Nat)) (b : List Nat) : List Nat :=
  let s := (List.range 13).foldl (fun s r =>
    aesAdd (aesMix [2, 3, 1, 1] (aesShift false (s.map aesSub))) (keys.getD (r + 1) [])) (aesAdd b (keys.getD 0 []))
  aesAdd (aesShift false (s.map aesSub)) (keys.getD 14 [])
/-- The inverse of `aesEnc`. -/
def aesDec (keys : List (List Nat)) (b : List Nat) : List Nat :=
  let s := (aesShift true (aesAdd b (keys.getD 14 []))).map aesInvSub
  let s := (List.range 13).foldl (fun s r =>
    (aesShift true (aesMix [14, 11, 13, 9] (aesAdd s (keys.getD (13 - r) [])))).map aesInvSub) s
  aesAdd s (keys.getD 0 [])

/-- Multiplication of a tweak by x in GF(2^128). -/
def xtsDouble (t : Nat) : Nat := if t < 2 ^ 127 then 2 * t else (2 * t - 2 ^ 128) ^^^ 135

/-- The eight blocks of a line under XTS, with the data unit number of the tweak. -/
def xtsLine (f : List (List Nat) → List Nat → List Nat) (k1 k2 unit line : Nat) : Nat :=
  let keys := aesKeys k1
  let nat (l : List Nat) : Nat := ofBytes (l.map (BitVec.ofNat 8))
  let lst (x : Nat) : List Nat := (bytesOf x 16).map (·.toNat)
  let t0 := nat (aesEnc (aesKeys k2) (lst unit))
  (List.range 8).foldl (fun acc i =>
    let t := (List.range i).foldl (fun t _ => xtsDouble t) t0
    acc + (nat (f keys (lst ((line / 2 ^ (128 * i) % 2 ^ 128) ^^^ t))) ^^^ t) * 2 ^ (128 * i)) 0

/-- The ciphertext of a line whose place divided by 128 is unit (R286). -/
def encryptLine (k1 k2 unit line : Nat) : Nat := xtsLine aesEnc k1 k2 unit line
/-- The plaintext of a line. -/
def decryptLine (k1 k2 unit line : Nat) : Nat := xtsLine aesDec k1 k2 unit line

end Sys2Proof.Machine
end

