-- ==== Sys2Proof/Machine/Flags.lean ====
section
/-! DEFINITION. Number formats, rounding, saturation, flushing, exact sums, comparisons, conversions and Billet blocks
(R44 to R65). There are no flags (R47): what a value comes to is its encoding alone. -/

namespace Sys2Proof.Machine

/-- An exact value: NaN, an infinity, or ±m × 2^e, with signed zeros. -/
inductive Num where
  | nan
  | inf (neg : Bool)
  | fin (neg : Bool) (m : Nat) (e : Int)
  deriving DecidableEq, Repr

/-- Floating-point formats (R44). -/
def isFloat : Ty → Bool
  | .f64 | .f32 | .f16 | .bf16 | .e4m3 | .e5m2 => true
  | _ => false
/-- F64, F32, F16 and BF16: the formats marked FP in R185, and those that are flushed (R53). -/
def isFP : Ty → Bool
  | .f64 | .f32 | .f16 | .bf16 => true
  | _ => false
/-- Codes 0x6 to 0xD (R185). -/
def isInt (t : Ty) : Bool := !isFloat t
/-- Signed integer formats (R48). -/
def isSigned : Ty → Bool
  | .i8 | .i16 | .i32 | .i64 => true
  | _ => false

/-- Exponent field width w (R46). -/
def expBits : Ty → Nat
  | .f64 => 11 | .f32 => 8 | .f16 => 5 | .bf16 => 8 | .e4m3 => 4 | .e5m2 => 5
  | _ => 0
/-- Fraction field width f (R46). -/
def fracBits : Ty → Nat
  | .f64 => 52 | .f32 => 23 | .f16 => 10 | .bf16 => 7 | .e4m3 => 3 | .e5m2 => 2
  | _ => 0
/-- Exponent bias (R46). -/
def expBias : Ty → Nat
  | .f64 => 1023 | .f32 => 127 | .f16 => 15 | .bf16 => 127 | .e4m3 => 7 | .e5m2 => 15
  | _ => 0
/-- emin = 1 − bias (R46). -/
def emin (t : Ty) : Int := 1 - (expBias t : Int)
/-- Exponent of the quantum of the largest finite value (R46). -/
def maxQ (t : Ty) : Int :=
  match t with
  | .e4m3 => 5
  | _ => (2 ^ expBits t - 2 : Int) - expBias t - fracBits t
/-- Significand of the largest finite value in that quantum (R46). -/
def maxM (t : Ty) : Nat :=
  match t with
  | .e4m3 => 14
  | _ => 2 ^ (fracBits t + 1) - 1
/-- The largest finite value with a sign. -/
def maxNum (t : Ty) (neg : Bool) : Num := .fin neg (maxM t) (maxQ t)
/-- The canonical NaN (R46). -/
def canonNaN : Ty → Nat
  | .f64 => 0x7FF8000000000000 | .f32 => 0x7FC00000 | .f16 => 0x7E00 | .bf16 => 0x7FC0 | .e4m3 => 0x7F | .e5m2 => 0x7E
  | _ => 0

/-- The value of an encoding (R46, R48). -/
def value (t : Ty) (x : Nat) : Num :=
  if isFloat t then
    let f := fracBits t
    let w := expBits t
    let neg := x / 2 ^ (w + f) % 2 = 1
    let ex := x / 2 ^ f % 2 ^ w
    let fr := x % 2 ^ f
    if t = .e4m3 then
      if ex = 15 && fr = 7 then .nan
      else if ex = 0 then .fin neg fr (emin t - f)
      else .fin neg (2 ^ f + fr) ((ex : Int) - expBias t - f)
    else if ex = 2 ^ w - 1 then if fr = 0 then .inf neg else .nan
    else if ex = 0 then .fin neg fr (emin t - f)
    else .fin neg (2 ^ f + fr) ((ex : Int) - expBias t - f)
  else
    let n := t.width
    let x := x % 2 ^ n
    if isSigned t && 2 ^ (n - 1) ≤ x then .fin true (2 ^ n - x) 0 else .fin false x 0

/-- m × 2^e rounded to a multiple of 2^q, as that multiple's factor (R49). -/
def roundMag (rm : Rm) (neg : Bool) (m : Nat) (e q : Int) : Nat :=
  if q ≤ e then m * 2 ^ (e - q).toNat
  else
    let sh := (q - e).toNat
    let lo := m / 2 ^ sh
    let r := m % 2 ^ sh
    let half := 2 ^ (sh - 1)
    let up : Bool := match rm with
      | .rne | .ctx => half < r || (r = half && lo % 2 = 1)
      | .rtz => false
      | .rup => !neg && r != 0
      | .rdn => neg && r != 0
      | .rna => half ≤ r
    if up then lo + 1 else lo

/-- Overflow of a finite value (table of R50). -/
def overflow (t : Ty) (rm : Rm) (neg : Bool) : Num :=
  match rm with
  | .rne | .rna | .ctx => .inf neg
  | .rtz => maxNum t neg
  | .rup => if neg then maxNum t true else .inf false
  | .rdn => if neg then .inf true else maxNum t false

/-- The exponent of the quantum at m × 2^e (R50). -/
def quantum (t : Ty) (m : Nat) (e : Int) : Int := max ((Nat.log2 m : Int) + e) (emin t) - fracBits t

/-- Round to a floating-point format (R50). -/
def roundF (t : Ty) (rm : Rm) : Num → Num
  | .nan => .nan
  | .inf n => .inf n
  | .fin neg 0 _ => .fin neg 0 0
  | .fin neg m e =>
    let l := (Nat.log2 m : Int) + e
    if maxQ t + fracBits t + 2 ≤ l then overflow t rm neg
    else
      -- far below the smallest subnormal only the sign and nonzeroness matter
      let (m, e) := if l < emin t - fracBits t - 2 then (1, emin t - fracBits t - 3) else (m, e)
      let q := quantum t m e
      let k := roundMag rm neg m e q
      if maxQ t < q || (q = maxQ t && maxM t < k) then overflow t rm neg else .fin neg k q

/-- Clamp to ± the largest finite value; NaN stays NaN (R11, R51). -/
def satF (t : Ty) (sat : Bool) (x : Num) : Num :=
  match sat, x with
  | true, .inf n => maxNum t n
  | _, x => x

/-- A subnormal replaced by zero of its sign, in exposed mode and for the formats that flush (R11, R53). -/
def flushF (t : Ty) (on : Bool) (x : Num) : Num :=
  match x with
  | .fin neg m e => if on && isFP t && m != 0 && (Nat.log2 m : Int) + e < emin t then .fin neg 0 0 else x
  | x => x

/-- The encoding of a value the format can represent; an infinity the format lacks is the canonical NaN (R47, R51). -/
def encodeF (t : Ty) : Num → Nat
  | .nan => canonNaN t
  | .inf neg =>
    if t = .e4m3 then canonNaN t
    else (if neg then 2 ^ (expBits t + fracBits t) else 0) + (2 ^ expBits t - 1) * 2 ^ fracBits t
  | .fin neg m e =>
    let s := if neg then 2 ^ (expBits t + fracBits t) else 0
    if m = 0 then s
    else
      let q := quantum t m e
      let k := roundMag .rtz neg m e q
      if k < 2 ^ fracBits t then s + k
      else s + (q + fracBits t + expBias t).toNat * 2 ^ fracBits t + (k - 2 ^ fracBits t)

/-- Round, saturate, flush and encode (R171, R186). -/
def finish (t : Ty) (rm : Rm) (sat exposed : Bool) (x : Num) : Nat :=
  encodeF t (flushF t exposed (satF t sat (roundF t rm x)))

/-- An operand: its value, flushed in exposed mode (R53). -/
def operand (t : Ty) (exposed : Bool) (x : Nat) : Num := flushF t exposed (value t x)

/-- Lowest and highest integer of a format (R48). -/
def intRange (t : Ty) : Int × Int :=
  if isSigned t then (-(2 ^ (t.width - 1) : Int), 2 ^ (t.width - 1) - 1) else (0, 2 ^ t.width - 1)

/-- An exact integer written to an integer format: wrapped, or clamped with sat (R48). -/
def wrapInt (t : Ty) (sat : Bool) (v : Int) : Nat :=
  let r := intRange t
  let v := if sat then max r.1 (min r.2 v) else v
  (v % (2 ^ t.width : Int)).toNat

/-- The exact integer of an encoding in an integer format. -/
def intValue (t : Ty) (x : Nat) : Int :=
  let x := x % 2 ^ t.width
  if isSigned t && 2 ^ (t.width - 1) ≤ x then (x : Int) - 2 ^ t.width else x

/-- ±m as an integer. -/
def signed (neg : Bool) (m : Nat) : Int := if neg then -(m : Int) else m

/-- A value rounded to an integer and clamped to the format's range; NaN is 0 (R55). -/
def toIntFmt (t : Ty) (rm : Rm) (x : Num) : Nat :=
  let r := intRange t
  match x with
  | .nan => 0
  | .inf neg => wrapInt t true (if neg then r.1 else r.2)
  | .fin neg m e =>
    if m = 0 then 0
    else if 70 < (Nat.log2 m : Int) + e then wrapInt t true (if neg then r.1 else r.2)
    else
      let (m, e) := if (Nat.log2 m : Int) + e < -4 then (1, -5) else (m, e)
      wrapInt t true (signed neg (roundMag rm neg m e 0))

/-- The conversion table of R55; operands and results of the FP formats are flushed in exposed mode (R53). A conversion
to the same format keeps the encoding but for NaNs and subnormals (R174). -/
def convert (src dst : Ty) (rm : Rm) (sat exposed : Bool) (x : Nat) : Nat :=
  let x := x % 2 ^ src.width
  if src = dst then
    if isFloat src then encodeF src (flushF src exposed (value src x)) else x
  else if isFloat dst then finish dst rm sat exposed (operand src exposed x)
  else if isFloat src then toIntFmt dst rm (operand src exposed x)
  else wrapInt dst sat (intValue src x)

/-- The same by R55 throughout: a conversion of a float format to itself saturates an infinity under sat (R51). Only FCVT and
VCVT return such an operand unchanged (R174, R204). -/
def reconvert (src dst : Ty) (rm : Rm) (sat exposed : Bool) (x : Nat) : Nat :=
  if src = dst && isFloat dst then finish dst rm sat exposed (operand src exposed (x % 2 ^ src.width)) else convert src dst rm sat exposed x

/-- Negation. -/
def Num.neg : Num → Num
  | .nan => .nan
  | .inf n => .inf (!n)
  | .fin n m e => .fin (!n) m e
/-- Absolute value. -/
def Num.abs : Num → Num
  | .nan => .nan
  | .inf _ => .inf false
  | .fin _ m e => .fin false m e
/-- Exact product; 0 × ∞ is NaN (R52, R56). -/
def Num.mul : Num → Num → Num
  | .nan, _ => .nan
  | _, .nan => .nan
  | .inf a, .inf b => .inf (a != b)
  | .inf a, .fin b m _ => if m = 0 then .nan else .inf (a != b)
  | .fin a m _, .inf b => if m = 0 then .nan else .inf (a != b)
  | .fin a m e, .fin b n g => .fin (a != b) (m * n) (e + g)

/-- One more term of an exact sum (R56). -/
def Sum.add (s : Sum) (x : Num) : Sum :=
  match x with
  | .nan => { s with nan := true, neg := false, any := true }
  | .inf true => { s with ninf := true, neg := false, any := true }
  | .inf false => { s with pinf := true, neg := false, any := true }
  | .fin neg m e =>
    let ng := s.neg && neg && m = 0
    if m = 0 then { s with neg := ng, any := true }
    else if s.m = 0 then { s with m := signed neg m, e := e, neg := ng, any := true }
    else if e ≤ s.e then
      { s with m := s.m * 2 ^ (s.e - e).toNat + signed neg m, e := e, neg := ng, any := true }
    else { s with m := s.m + signed neg m * 2 ^ (e - s.e).toNat, neg := ng, any := true }

/-- Two sums put together. -/
def Sum.merge (a b : Sum) : Sum :=
  let f : Num := .fin (b.m < 0) b.m.natAbs b.e
  let s := if b.m = 0 then a else a.add f
  { s with nan := a.nan || b.nan, pinf := a.pinf || b.pinf, ninf := a.ninf || b.ninf,
           neg := a.neg && b.neg, any := a.any || b.any }

/-- What a sum comes to, an exact zero signed by R52. -/
def Sum.total (s : Sum) (rm : Rm) : Num :=
  if s.nan || (s.pinf && s.ninf) then .nan
  else if s.pinf then .inf false
  else if s.ninf then .inf true
  else if s.m = 0 then .fin (rm = .rdn || s.neg) 0 0
  else .fin (s.m < 0) s.m.natAbs s.e

/-- The exact sum of a list of terms (R56). -/
def sumOf (l : List Num) (rm : Rm) : Num := (l.foldl Sum.add {}).total rm

/-- An inexact value lies strictly above m × 2^e: one bit below stands for the rest of it. -/
def inexact (neg : Bool) (m : Nat) (e : Int) (more : Bool) : Num :=
  if more then .fin neg (2 * m + 1) (e - 1) else .fin neg m e

/-- a / b (R171): the quotient to more bits than any format keeps, with what is left over marked. -/
def Num.div : Num → Num → Num
  | .nan, _ => .nan
  | _, .nan => .nan
  | .inf _, .inf _ => .nan
  | .inf a, .fin b _ _ => .inf (a != b)
  | .fin a _ _, .inf b => .fin (a != b) 0 0
  | .fin a m e, .fin b n g =>
    if n = 0 then if m = 0 then .nan else .inf (a != b)
    else
      let sh := 128 + Nat.log2 n
      inexact (a != b) (m * 2 ^ sh / n) (e - g - sh) (m * 2 ^ sh % n != 0)

/-- Integer square root by bits, the highest bit being k. -/
def isqrt (n : Nat) : Nat → Nat → Nat
  | 0, r => if (r + 1) * (r + 1) ≤ n then r + 1 else r
  | k + 1, r => isqrt n k (if (r + 2 ^ (k + 1)) * (r + 2 ^ (k + 1)) ≤ n then r + 2 ^ (k + 1) else r)

/-- √a (R171). -/
def Num.sqrt : Num → Num
  | .nan => .nan
  | .inf neg => if neg then .nan else .inf false
  | .fin neg m e =>
    if m = 0 then .fin neg 0 0
    else if neg then .nan
    else
      let sh : Nat := 256 + (if e % 2 = 0 then 0 else 1)
      let n := m * 2 ^ sh
      let r := isqrt n (Nat.log2 n / 2 + 1) 0
      inexact false r ((e - sh) / 2) (r * r != n)

/-- 1/a (R190). -/
def Num.rcp (a : Num) : Num := Num.div (.fin false 1 0) a

/-- 1/√a (R190). -/
def Num.rsq : Num → Num
  | .nan => .nan
  | .inf neg => if neg then .nan else .fin false 0 0
  | .fin neg m e =>
    if m = 0 then .inf neg
    else if neg then .nan
    else
      -- 1/√(m 2^e) = √(2^k / m) × 2^(−(e+k)/2), k of the parity of e
      let k : Nat := 2 * (Nat.log2 m + 160) + (if e % 2 = 0 then 0 else 1)
      let n := 2 ^ k / m
      let r := isqrt n (Nat.log2 n / 2 + 1) 0
      inexact false r (-((e + k) / 2)) (m * (r * r) != 2 ^ k)

/-- Fixed-point bits of the series below. -/
def seriesBits : Nat := 320

/-- Σ x^i / i! from term i on, in fixed point. -/
def expSeries (x : Nat) : Nat → Nat → Nat → Nat
  | 0, _, acc => acc
  | n + 1, term, acc =>
    -- terms are taken in order 1, 2, …: the index is 121 − (n + 1)
    let i := 121 - (n + 1)
    let t := term * x / 2 ^ seriesBits / i
    expSeries x n t (acc + t)

/-- Σ 1/(i 2^i) for i from k down: ln 2 in fixed point. -/
def ln2Series : Nat → Nat → Nat
  | 0, acc => acc
  | k + 1, acc => ln2Series k (acc + 2 ^ seriesBits / ((k + 1) * 2 ^ (k + 1)))

/-- ln 2 in fixed point. -/
def ln2Fixed : Nat := ln2Series 330 0

/-- 2^a (R190). An integer a gives an exact power; any other result is irrational, so it never lies on a boundary of
rounding, and the series carries 320 bits (DEDUCED: no operand of these formats comes closer to a boundary). -/
def Num.exp2 : Num → Num
  | .nan => .nan
  | .inf neg => if neg then .fin false 0 0 else .inf false
  | .fin neg m e =>
    if m = 0 then .fin false 1 0
    else if 16 ≤ (Nat.log2 m : Int) + e then if neg then .fin false 1 (-70000) else .fin false 1 70000
    else if (Nat.log2 m : Int) + e < -260 then
      if neg then .fin false (2 ^ 300 - 1) (-300) else .fin false (2 ^ 300 + 1) (-300)
    else
      -- a in fixed point with seriesBits fraction bits, floored
      let v : Int := if 0 ≤ e + seriesBits then signed neg (m * 2 ^ (e + seriesBits).toNat)
        else signed neg m / 2 ^ (-(e + seriesBits)).toNat
      let n : Int := v / 2 ^ seriesBits
      let f : Nat := (v % 2 ^ seriesBits).toNat
      if f = 0 then .fin false 1 n
      else
        let x := f * ln2Fixed / 2 ^ seriesBits
        let y := expSeries x 120 (2 ^ seriesBits) (2 ^ seriesBits)
        inexact false (y / 2 ^ 24) (n - seriesBits + 24) true

/-- Σ z^(2i+1)/(2i+1) for i descending from n, in fixed point: atanh z. -/
def atanhSeries (z2 : Nat) : Nat → Nat → Nat → Nat
  | 0, _, acc => acc
  | n + 1, p, acc => atanhSeries z2 n (p * z2 / 2 ^ seriesBits) (acc + p / (2 * (120 - (n + 1)) + 1))

/-- log₂ a (R190). A power of two gives an exact integer; any other result is irrational (see `Num.exp2`). -/
def Num.log2 : Num → Num
  | .nan => .nan
  | .inf neg => if neg then .nan else .inf false
  | .fin neg m e =>
    if m = 0 then .inf true
    else if neg then .nan
    else
      let l := Nat.log2 m
      let ex : Int := (l : Int) + e
      if m = 2 ^ l then .fin (ex < 0) ex.natAbs 0
      else
        let x := m * 2 ^ seriesBits / 2 ^ l
        let z := (x - 2 ^ seriesBits) * 2 ^ seriesBits / (x + 2 ^ seriesBits)
        let ln := 2 * atanhSeries (z * z / 2 ^ seriesBits) 120 z 0
        let v : Int := ex * 2 ^ seriesBits + (ln * 2 ^ seriesBits / ln2Fixed : Nat)
        inexact (v < 0) (v.natAbs / 2 ^ 24) (-(seriesBits : Int) + 24) true

/-- a × 2^k, k any integer (R189). -/
def Num.scalb (a : Num) (k : Int) : Num :=
  match a with
  | .fin neg m e => .fin neg m (e + k)
  | a => a

/-- Strict order of two values that are not NaN, with −0 below +0 when `zeros` asks for it (R172, R173, R188). -/
def Num.lt (zeros : Bool) (a b : Num) : Bool :=
  match a, b with
  | .nan, _ => false
  | _, .nan => false
  | .inf x, .inf y => x && !y
  | .inf x, .fin _ _ _ => x
  | .fin _ _ _, .inf y => !y
  | .fin x m e, .fin y n g =>
    if m = 0 && n = 0 then zeros && x && !y
    else
      let d := min e g
      let p : Int := signed x (m * 2 ^ (e - d).toNat)
      let q : Int := signed y (n * 2 ^ (g - d).toNat)
      p < q

/-- Either is NaN. -/
def unordered (a b : Num) : Bool := a = .nan || b = .nan

/-- The predicates of R173 and R193. -/
def predicate (code : Nat) (a b : Num) : Bool :=
  let un := unordered a b
  let lt := Num.lt false a b
  let gt := Num.lt false b a
  match code with
  | 0 => !un && !lt && !gt
  | 1 => lt
  | 2 => !un && !gt
  | 3 => un
  | 4 => un || lt || gt
  | 5 => gt
  | 6 => !un && !lt
  | _ => !un

/-- The smaller (or the larger) operand; a NaN gives NaN (R172). -/
def minMax (larger : Bool) (a b : Num) : Num :=
  if unordered a b then .nan
  else if larger then (if Num.lt true a b then b else a) else (if Num.lt true b a then b else a)

/-- The classes of R194 by number, of an encoding. -/
def classOf (t : Ty) (x : Nat) : Nat :=
  match value t x with
  | .nan => 8
  | .inf neg => if neg then 0 else 7
  | .fin neg m e =>
    if m = 0 then if neg then 3 else 4
    else if (Nat.log2 m : Int) + e < emin t then if neg then 2 else 5
    else if neg then 1 else 6

/-! ### Stochastic rounding (R58 to R61) -/

/-- One step of a generator (R58). -/
def genStep (s : Word32) : Word32 :=
  let b := s.getLsbD 31 ^^ s.getLsbD 21 ^^ s.getLsbD 1 ^^ s.getLsbD 0
  (s <<< 1) + (if b then 1#32 else 0#32)

/-- Generator l of a seed (R59). -/
def genSeed (seed : Word32) (l : Nat) : Word32 :=
  let g := seed ^^^ BitVec.ofNat 32 (l * 0x01000193)
  if g = 0#32 then 1#32 else g

/-- All 512 generators of a seed (R59). -/
def genAll (seed : Word32) : Vector Word32 512 := Vector.ofFn (fun (l : Fin 512) => genSeed seed l.val)

/-- The value stored by stochastic rounding of x with the stepped generator r (R60); none when x is not finite and no
generator steps. An integer source keeps its exact value and is written by R55 (DEDUCED). -/
def stochastic (src dst : Ty) (sat exposed : Bool) (x : Nat) (r : Nat) : Option Nat :=
  match operand src exposed x with
  | .nan => none
  | .inf _ => none
  | .fin neg m e =>
    if isInt src && isInt dst then some (wrapInt dst sat (signed neg m))
    else
      let far := 70 < (Nat.log2 m : Int) + e
      let q : Int := if isFloat dst then quantum dst m e else 0
      if isFloat dst && maxQ dst + fracBits dst + 2 ≤ (Nat.log2 m : Int) + e then
        some (encodeF dst (flushF dst exposed (satF dst sat (.inf neg))))
      else if isInt dst && far then some (wrapInt dst true (if neg then (intRange dst).1 else (intRange dst).2))
      else
        let k0 := if q ≤ e then m * 2 ^ (e - q).toNat else m / 2 ^ (q - e).toNat
        let f := if q ≤ e then 0 else m % 2 ^ (q - e).toNat * 2 ^ 32 / 2 ^ (q - e).toNat
        let k := if 2 ^ 32 ≤ f + r then k0 + 1 else k0
        if isFloat dst then
          let y : Num := if maxQ dst < q || (q = maxQ dst && maxM dst < k) then .inf neg else .fin neg k q
          some (encodeF dst (flushF dst exposed (satF dst sat y)))
        else some (wrapInt dst true (signed neg k))

/-! ### Billet blocks (R62 to R65) -/

/-- Magnitude bits n of a Billet format by code 0 to 2: BL7, BL4, BL2 (R62). -/
def blkMag : Nat → Nat
  | 0 => 7
  | 1 => 4
  | _ => 2

/-- The value of a block scale: significand and exponent, none for the NaN code (R63). -/
def scaleValue (c : Nat) : Option (Nat × Int) :=
  if c = 255 then none
  else if c < 8 then some (c, -17)
  else some (8 + c % 8, (c / 8 : Int) - 18)

/-- Element i of a record given as a little-endian number (R62, R64). -/
def blkElem (fmt rec i : Nat) : Num :=
  let n := blkMag fmt
  let code := rec / 2 ^ (128 + (n + 1) * i) % 2 ^ (n + 1)
  let s := code / 2 ^ n
  let m := code % 2 ^ n
  let mu := rec / 2 ^ (64 + i / 2) % 2
  if s = 1 && m = 0 then .nan
  else match scaleValue (rec % 256) with
    | none => .nan
    | some (k, e) => if m = 0 || k = 0 then .fin false 0 0 else .fin (s = 1) (m * k) (e - (n - 1 : Nat) - mu)

/-- Bytes 1 to 7 of a record are zero (R62). -/
def blkZeroOk (rec : Nat) : Bool := rec / 2 ^ 8 % 2 ^ 56 = 0

/-- Larger of two magnitudes, NaN left out. -/
def magMax (a b : Num) : Num :=
  match a.abs, b.abs with
  | .nan, y => y
  | x, .nan => x
  | x, y => if Num.lt false x y then y else x

/-- Mmax × 2^k of a scale (R65): (2^n − 1) × s × 2^(e − n + 1 + k). -/
def scaleMax (fmt c : Nat) (k : Int) : Num :=
  match scaleValue c with
  | none => .nan
  | some (s, e) => .fin false ((2 ^ blkMag fmt - 1) * s) (e - (blkMag fmt - 1 : Nat) + k)

/-- The smallest code from c on whose value × Mmax reaches a (R65). -/
def scaleFor (fmt : Nat) (a : Num) : Nat → Nat → Nat
  | 0, c => c
  | k + 1, c => if Num.lt false (scaleMax fmt c 0) a then scaleFor fmt a k (c + 1) else c

/-- The record of 128 source values (R65). -/
def quantise (fmt : Nat) (ty : Ty) (rm : Rm) (sat : Bool) (src : List Num) : Nat :=
  let isInf : Num → Bool := fun x => match x with | .inf _ => true | _ => false
  if src.any isInf && !sat then 255
  else
    let src := src.map (fun x => satF ty sat x)
    let a := src.foldl magMax (.fin false 0 0)
    let zero : Bool := match a with | .fin _ m _ => m = 0 | _ => true
    let n := blkMag fmt
    let top : Num := scaleMax fmt 254 0
    let big := Num.lt false top a
    if !zero && big && !sat then 255
    else
      let scale := if zero then 0 else if big then 254 else scaleFor fmt a 253 1
      let half := scaleMax fmt scale (-1)
      let mus := (List.range 64).map (fun j =>
        let p := magMax (magMax (.fin false 0 0) (src.getD (2 * j) .nan)) (src.getD (2 * j + 1) .nan)
        let pz : Bool := match p with | .fin _ m _ => m = 0 | _ => true
        if !pz && scale != 0 && !Num.lt false half p then 1 else 0)
      let codes := (List.range 128).map (fun i =>
        match src.getD i .nan, scaleValue scale with
        | .nan, _ => 2 ^ n
        | .fin neg m e, some (k, g) =>
          if k = 0 || m = 0 then 0
          else
            -- |x| / (S 2^−μ) × 2^(n−1), as a quotient with a mark for what is left over; the rule rounds this magnitude
            let g' := g - (mus.getD (i / 2) 0 : Nat)
            let d := Num.div (.fin false m (e + (n - 1 : Nat))) (.fin false k g')
            let r := match d with
              | .fin _ dm de => if de + (Nat.log2 dm : Int) < -4 then roundMag rm false 1 (-5) 0 else roundMag rm false dm de 0
              | _ => 0
            let r := min r (2 ^ n - 1)
            if r = 0 then 0 else (if neg then 2 ^ n else 0) + r
        | _, _ => 0)
      let mu := (mus.zipIdx.map (fun p => p.1 * 2 ^ p.2)).foldl (· + ·) 0
      let plane := (codes.zipIdx.map (fun p => p.1 * 2 ^ ((n + 1) * p.2))).foldl (· + ·) 0
      scale + mu * 2 ^ 64 + plane * 2 ^ 128

/-! ### The exact accumulator (R57) -/

/-- A contribution added to an exact accumulator (R57). -/
def Acc.addF (a : Acc) (x : Num) : Acc :=
  let a := { a with cnt := min (a.cnt + 1) (2 ^ 32 - 1) }
  match x with
  | .nan => { a with nan := true }
  | .inf true => { a with ninf := true }
  | .inf false => { a with pinf := true }
  | .fin neg m e => { a with val := (a.val + signed neg (m * 2 ^ (e + 160).toNat)) % 2 ^ 320 }

/-- Two accumulators put together. -/
def Acc.merge (a b : Acc) : Acc :=
  { val := (a.val + b.val) % 2 ^ 320, cnt := min (a.cnt + b.cnt) (2 ^ 32 - 1), pinf := a.pinf || b.pinf,
    ninf := a.ninf || b.ninf, nan := a.nan || b.nan, f64 := a.f64 }

/-- The rounding of an accumulator (R57). -/
def Acc.read (a : Acc) (t : Ty) : Nat :=
  if a.nan || (a.pinf && a.ninf) || 2 ^ 31 ≤ a.cnt then canonNaN t
  else if a.pinf then encodeF t (.inf false)
  else if a.ninf then encodeF t (.inf true)
  else
    let v := if 2 ^ 319 ≤ a.val then a.val - 2 ^ 320 else a.val
    if v = 0 then 0 else encodeF t (roundF t .rne (.fin (v < 0) v.natAbs (-160)))

end Sys2Proof.Machine
end

