-- ==== Sys2Proof/Machine/Operands.lean ====
section
/-! DEFINITION. Operand forms: the registers an instruction reads, the pending-bit conditions on them, vector elements,
masks and second operands, and the form every slot instruction's meaning has. -/

namespace Sys2Proof.Machine

/-- Registers of a second operand (R183). -/
def BSrc.reads : BSrc → List RegRef
  | .vec b => [.v b]
  | .scal n => [.s n]
  | .imm _ => []

/-- Registers a slot instruction reads (R116). -/
def regsRead : Instr → List RegRef
  | .brc _ a b _ => [.s a, .s b]
  | .ret a | .jmpi a _ | .syswr a _ => [.s a]
  | .loop a b _ _ sk => if sk then [.s a, .s b] else [.s a]
  | .loopi _ b _ _ sk => if sk then [.s b] else []
  | .add _ a b | .sub _ a b | .and _ a b | .or _ a b | .xor _ a b | .shl _ a b | .shr _ a b | .sra _ a b | .mul _ a b
  | .mulh _ a b | .mulhu _ a b | .div _ a b | .divu _ a b | .rem _ a b | .remu _ a b | .min _ a b | .max _ a b
  | .minu _ a b | .maxu _ a b | .seq _ a b | .slt _ a b | .sltu _ a b => [.s a, .s b]
  | .sel d a b => [.s d, .s a, .s b]
  | .addi _ a _ | .andi _ a _ | .ori _ a _ | .xori _ a _ | .shli _ a _ | .shri _ a _ | .srai _ a _ | .clz _ a | .ctz _ a
  | .popc _ a | .bfx _ a _ _ _ => [.s a]
  | .bfi d a _ _ => [.s d, .s a]
  | .fadd _ _ a b _ _ | .fsub _ _ a b _ _ | .fmul _ _ a b _ _ | .fdiv _ _ a b _ _ | .fmin _ _ a b _ _
  | .fmax _ _ a b _ _ | .fcmp _ _ a b _ => [.s a, .s b]
  | .ffma _ _ a b c _ _ => [.s a, .s b, .s c]
  | .fsqrt _ _ a _ _ | .fcvt _ _ _ a _ _ => [.s a]
  | .hset _ a | .hadvf _ a _ | .hadvc _ a _ | .hwait _ a _ _ => [.s a]
  | .vadd o b _ _ | .vsub o b _ _ | .vmul o b _ _ | .vdiv o b _ _ | .vscalb o b _ _ => [.v o.a, .k o.k] ++ BSrc.reads b
  | .vfma o b c _ _ | .vfms o b c _ _ | .vfnma o b c _ _ | .vimad o b c _ => [.v o.a, .k o.k, .v c] ++ BSrc.reads b
  | .vmin o b _ | .vmax o b _ | .viadd o b _ | .visub o b _ | .vimul o b _ | .vshl o b _ => [.v o.a, .k o.k] ++ BSrc.reads b
  | .vimin o b | .vimax o b | .vand o b | .vor o b | .vxor o b | .vshr o b | .vsra o b => [.v o.a, .k o.k] ++ BSrc.reads b
  | .vsqrt o _ _ | .vrcp o _ _ | .vrsq o _ _ | .vexp2 o _ _ | .vlog2 o _ _ | .vabs o _ | .vneg o _ | .vpopc o
  | .viabs o _ | .vmov o | .vrot o _ | .vcvt o _ _ _ _ | .vcvtsr o _ _ _ | .vdqblk o _ _ _ | .vunpk o _ => [.v o.a, .k o.k]
  | .vcmp _ _ a b k _ _ _ => [.v a, .k k] ++ BSrc.reads b
  | .vclass _ _ a k _ _ _ => [.v a, .k k]
  | .kand _ a b | .kor _ a b | .kxor _ a b => [.k a, .k b]
  | .knot _ a | .kpopc _ a => [.k a]
  | .kmov (.mask _ a) | .kmov (.fromChunk _ a _) => [.k a]
  | .kmov (.toChunk _ _ n) => [.s n]
  | .vsel o b c => [.v o.a, .v b, .k c, .k o.k]
  | .vbcast _ _ k _ (.elem a _) => [.v a, .k k]
  | .vbcast _ _ k _ (.scal n) => [.s n, .k k]
  | .vbcast _ _ k _ (.imm _) => [.k k]
  | .viota _ _ k _ _ _ => [.k k]
  | .vperm o b _ | .vpack o b _ => [.v o.a, .v b, .k o.k]
  | .vextr _ _ a i _ => [.v a, .s i]
  | .vins _ _ n i _ => [.s n, .s i]
  | .vrsum _ _ a k _ _ | .vrmax _ _ a k _ | .vrmin _ _ a k _ | .virsum _ _ a k _ => [.v a, .k k]
  | .vqblk _ _ a _ _ _ => [.v a]
  | .sld _ a _ _ | .ldf _ a _ _ | .ldfe _ a _ _ | .tagrd _ a _ | .gld _ a _ _ _ | .gpf a _ _ _ => [.s a]
  | .sst d a _ _ | .ste d a _ _ | .stf d a _ _ | .tagwr d a _ | .rsst d a _ _ _ | .rste d a _ _ _ | .gst d a _ _ _
  | .red d a _ _ _ | .fred d a _ _ => [.s d, .s a]
  | .vsld _ a k _ | .vgld _ a k _ _ => [.s a, .k k]
  | .vsst d a k _ | .vgst d a k _ _ | .rvst d a k _ _ | .mvst d a k _ _ _ _ => [.v d, .s a, .k k]
  | .vslds _ a b k _ => [.s a, .s b, .k k]
  | .vssts d a b k _ => [.v d, .s a, .s b, .k k]
  | .vsgath _ a b k _ | .vggath _ a b k _ _ => [.s a, .v b, .k k]
  | .vsscat d a b k _ | .vgscat d a b k _ _ => [.v d, .s a, .v b, .k k]
  | .vhld _ _ k _ => [.k k]
  | .vhst d _ k _ => [.v d, .k k]
  | .amo _ a b _ _ _ _ | .samo _ a b _ _ _ => [.s a, .s b]
  | .cas d a b _ _ _ => [.s d, .s a, .s b]
  | .pin a b _ _ | .unpin a b _ _ | .gwb a b _ _ _ | .ginv a b _ _ _ => [.s a, .s b]
  | .cpy d a b c _ _ _ => [.s d, .s a, .s b, .s c]
  | .cpyx d a b c _ _ _ => [.s d, .s (d + 1), .s (d + 2), .s (d + 3), .s a, .s b, .s c]
  | .tlwait a _ _ | .tladv a _ _ | .mregw _ _ a | .coll a _ _ _ | .launch a _ | .cancel a | .bown a | .brel a
  | .pwrq _ a _ _ => [.s a]
  | .acq _ b _ _ | .rel _ b _ | .acqp _ _ b _ _ => [.s b]
  | .bind _ a b c | .send a b c _ _ => [.s a, .s b, .s c]
  | .recv _ a c _ _ | .cstab a c _ => [.s a, .s c]
  | _ => []

/-- A register waits for a result (R139, R141): a variable-latency one in either mode, one in flight in interlocked
mode. An exposed BRC, RET or JMPI too waits for a variable-latency one, as R141 has every reader do (R154: it awaits no pending
result; DESIGN CHOICE, log 89). -/
def Ctx.pending (k : Ctx) (r : RegRef) : Bool :=
  !r.isNull && (k.pend.any (fun p => p.2.2 = r) || (k.r.ilk && k.r.flight.any (fun f => f.w.ref = r)))

/-- A register that instruction i reads or writes is pending in context k. -/
def Ctx.blocked (k : Ctx) (i : Instr) : Bool := (regsRead i ++ i.dests).any (fun r => k.pending r)

/-- A pending register stops the instruction. -/
def State.stalled (s : State) (i : Instr) : Bool := !s.iss.late && !s.iss.clear && s.cx.blocked i

/-- The form of every slot instruction's meaning (R146): pending registers hold it, then its checks of R291 may trap, then
its wait conditions hold it or trap, then it acts. A header flag of a bundle whose slots have acted
(`iss.go`) just acts. -/
def perform (i : Instr) (chk : Option Trap) (w : Wait) (act : State → State) (s : State) : Out :=
  if s.iss.go then .next (act s)
  else if s.stalled i then .next s.hold
  else match chk with
    | some t => .next (s.trap t)
    | none => match w with
      | .go => .next (act s)
      | .hold => .next s.hold
      | .drain => .next s.holdDrain
      | .ack => .next s.holdAck
      | .trap t => .next (s.trap t)

/-- A trap when the condition fails. -/
def need (c : Bool) (t : Trap) : Option Trap := if c then none else some t
/-- The format fault (R45). -/
def formatFault : Trap := { cause := 0x0A }
/-- The mode trap (R54). -/
def modeTrap : Trap := { cause := 0x0B }
/-- The ring trap (R144). -/
def ringTrap : Trap := { cause := 0x09 }

/-- The rounding mode of a code: 7 reads fpctl.rm (R49, R162). -/
def State.rm (s : State) (rm : Rm) : Rm := if rm = .ctx then s.cx.r.rm else rm

/-! ### Vector elements (R114, R180, R181) -/

/-- Element i of width w of a bit string. -/
def elem (w : Nat) (x : Nat) (i : Nat) : Nat := x / 2 ^ (w * i) % 2 ^ w

/-- n elements of width w from index i on. -/
def pack (w : Nat) (f : Nat → Nat) : Nat → Nat → Nat
  | 0, _ => 0
  | n + 1, i => f i % 2 ^ w + 2 ^ w * pack w f n (i + 1)

/-- Activity of element i of width w under a mask (R114). -/
def active (k : KWord) (i w : Nat) : Bool := k.getLsbD (if w = 64 then 2 * i else i * w / 32)

/-- The masked write of R181: elements of width w, n of them, with z. -/
def maskedWrite (d : VReg) (w n : Nat) (act : Nat → Bool) (z : Bool) (f : Nat → Nat) : RegWrite :=
  .v d (BitVec.ofNat 16384 (pack w (fun i => if act i then f i else 0) n 0))
    (BitVec.ofNat 16384 (pack w (fun i => if act i || z then 2 ^ w - 1 else 0) n 0))

/-- Element i of the second operand of width w (R183). -/
def State.bsrc (s : State) (b : BSrc) (w i : Nat) : Nat :=
  match b with
  | .vec v => elem w (s.rv v).toNat i
  | .scal n => (s.rs n).toNat % 2 ^ w
  | .imm v => (v.toInt % (2 ^ w : Int)).toNat

/-- bsrc = 2 with a floating-point ty takes the format fault (R183). -/
def bsrcOk (ty : Ty) : BSrc → Bool
  | .imm _ => !isFloat ty
  | _ => true

/-- The element-wise result of a vector instruction: f of the index for the active elements (R181). -/
def State.vwrite (s : State) (o : VOp) (f : Nat → Nat) : RegWrite :=
  maskedWrite o.d o.ty.width o.ty.count (fun i => active (s.rk o.k) i o.ty.width) o.z f

/-- Element i of vA. -/
def State.ea (s : State) (o : VOp) (i : Nat) : Nat := elem o.ty.width (s.rv o.a).toNat i

end Sys2Proof.Machine
end

