-- ==== Sys2Proof/Machine/Scratch.lean ====
section
/-! DEFINITION. The scratchpad as bundles and agents see it: reads with forwarding (R248, R255), bank rules (R242, R386),
declared uses (R245), and room in the commit buffer (R252). -/

namespace Sys2Proof.Machine

/-- Data bank of a byte address (R242). -/
def bankOf (a : Nat) : Nat := a / 64 % 32
/-- Row of a byte address (R242). -/
def rowOf (a : Nat) : Nat := a / 2048
/-- Group of a data bank (R242). -/
def groupOf (b : Nat) : Nat := b % 8

/-- Byte enables as a mask of bits. -/
def beMask (be : Nat) (n : Nat) : Nat := pack 8 (fun i => if be / 2 ^ i % 2 = 1 then 255 else 0) n 0

/-- The bytes of old with those that be enables taken from new. -/
def mergeBe (old new be : Nat) : Nat :=
  let m := beMask be 64
  (new &&& m) ||| (old &&& (2 ^ 512 - 1 - m))

/-- A number of w bytes read as signed. -/
def signedW (x w : Nat) : Int := if 2 ^ (8 * w - 1) ≤ x then (x : Int) - 2 ^ (8 * w) else x

/-- The new value of R311 at w bytes. -/
def amoVal (op : AmoOp) (x y w : Nat) : Nat :=
  let y := y % 2 ^ (8 * w)
  match op with
  | .swap => y
  | .add => (x + y) % 2 ^ (8 * w)
  | .and => x &&& y
  | .or => x ||| y
  | .xor => x ^^^ y
  | .min => if signedW y w < signedW x w then y else x
  | .max => if signedW x w < signedW y w then y else x
  | .minu => Nat.min x y
  | .maxu => Nat.max x y

/-- The scratchpad after one granted access: bytes taken as they are, or elements combined with what is there (R328). -/
def PWrite.apply (w : PWrite) (m : Memory) : Memory :=
  match w.read, w.red with
  | true, _ => m
  | false, none => mwriteBe m w.addr 64 w.data.toNat w.be.toNat
  | false, some (op, ty) =>
    let n := ty.width / 8
    ((List.range (64 / n)).filter (fun i => w.be.getLsbD (n * i))).foldl (fun m i =>
      let x := mread m (w.addr + n * i) n
      let y := elem ty.width w.data.toNat i
      mwrite m (w.addr + n * i) n (match op with
        | some op => amoVal op x y n
        | none => finish ty .rne false false (sumOf [value ty x, value ty y] .rne))) m

/-- An access granted joins the others, in the order of their clocks and then of their grants. -/
def Spad.addWr (sp : Spad) (w : PWrite) : Spad := { sp with wr := insertBy (fun x y => decide (x.clk < y.clk)) w sp.wr }

/-- First enabled byte of a chunk. -/
def firstByte (be : BitVec 64) : Nat := ((List.range 64).find? be.getLsbD).getD 0
/-- Byte address of the word of an RSTE. -/
def Msg.word (m : Msg) : Nat := m.addr + firstByte m.be

/-- The access that an arrived chunk or RSTE claims (R303, R304). Chunks of one context claim in order of arrival (R305). -/
def Msg.access (m : Msg) : PWrite :=
  { id := 0, clk := 0, addr := m.addr, data := m.data, be := m.be, chg := some (m.core, m.ctx), src := .msg m.id,
    order := if m.rste.isSome then 0 else 2 * (2 ^ 64 + 8 * m.core + m.ctx), rel := m.rste.map (fun _ => m.wts),
    tset := if m.rste.isSome then BitVec.ofNat 8 (2 ^ (firstByte m.be / 8)) else 0#8, tval := true }
/-- Tag words of a write. -/
def State.tagWords (w : PWrite) : List Nat := ((List.range 8).filter (fun i => w.tset.getLsbD i)).map (fun i => w.addr / 64 * 64 + 8 * i)
/-- The write of an RSTE, which acts only on an empty word (R304). -/
def PWrite.isRste (w : PWrite) : Bool := match w.src with | .msg _ => w.tset != 0#8 | _ => false

/-- Words on which a release leaves its time: those it tags, or the word it writes (R353, R354). -/
def PWrite.relWords (w : PWrite) : List Nat :=
  if w.tset != 0#8 then State.tagWords w else [(w.addr / 64 * 64 + firstByte w.be) / 8 * 8]

/-- A scratchpad's bytes, full words, the times of the last releases on its words, and the RSTEs that wait for a word, oldest first. -/
structure SpadView where
  data  : Memory
  full  : List Nat
  times : Tab Nat
  queue : List PWrite

/-- The bytes of an access and its release. -/
def SpadView.write (p : SpadView) (w : PWrite) : SpadView :=
  { p with data := w.apply p.data,
           times := match w.rel with | some t => w.relWords.foldl (fun l a => tset l a t) p.times | none => p.times }
/-- One access made: an RSTE whose word is full or waited for waits; one that waits acts as its word turns empty (R304). -/
def SpadView.act (p : SpadView) (w : PWrite) : SpadView :=
  let ws := State.tagWords w
  let fill (p : SpadView) : SpadView := { p with full := p.full ++ ws }
  if w.isRste then
    if ws.any p.full.contains || p.queue.any (fun v => State.tagWords v = ws) then { p with queue := p.queue ++ [w] } else fill (p.write w)
  else if w.tval then fill (p.write w)
  else
    let q := p.write w
    ws.foldl (fun (p : SpadView) a => match p.queue.find? (fun v => State.tagWords v = [a]) with
      | some v => { p.write v with full := p.full ++ [a], queue := p.queue.erase v }
      | none => p) { q with full := q.full.filter (fun a => !ws.contains a) }
/-- The scratchpad once every access granted for a clock before `use` and meeting the chunk at a has been made, in the order of their
clocks; q: the RSTEs in the remote tag queue. -/
def Spad.atClock (sp : Spad) (q : List PWrite) (a use : Nat) : SpadView :=
  (sp.wr.filter (fun w => decide (w.clk < use) && decide (w.addr < a + 64) && decide (a < w.addr + 64))).foldl SpadView.act
    { data := sp.data, full := sp.full, times := sp.tagLt, queue := q }
/-- The bytes of a chunk in the bank, with every write granted for a clock before `use` made. -/
def Spad.chunkAt (sp : Spad) (q : List PWrite) (a use : Nat) : Nat := mread (sp.atClock q a use).data a 64
/-- The RSTEs in the remote tag queue of a core, oldest first (R304). -/
def State.queued (s : State) (c : Nat) : List PWrite :=
  (s.core c).rtq.filterMap (fun id => (s.msgs.find? (fun m => m.id = id)).map Msg.access)

/-! ### Copy commands, and the words that they turn full (R322, R333) -/

/-- Bits [lo+n−1 : lo] of the microword. -/
def CopyCmd.f (c : CopyCmd) (lo n : Nat) : Nat := fld c.mw.toNat lo n
/-- Bit i of the microword. -/
def CopyCmd.b (c : CopyCmd) (i : Nat) : Bool := c.mw.getLsbD i
/-- cw.sk. -/
def CopyCmd.sk (c : CopyCmd) : Nat := c.f 10 2
/-- cw.dk. -/
def CopyCmd.dk (c : CopyCmd) : Nat := c.f 12 2
/-- cw.idx. -/
def CopyCmd.isIdx (c : CopyCmd) : Bool := c.b 0
/-- cw.idx with cw.scat. -/
def CopyCmd.isScat (c : CopyCmd) : Bool := c.b 0 && c.b 1
/-- cw.cvt. -/
def CopyCmd.isCvt (c : CopyCmd) : Bool := c.b 2
/-- cw.xps. -/
def CopyCmd.isXps (c : CopyCmd) : Bool := c.b 3
/-- cw.sig. -/
def CopyCmd.isSig (c : CopyCmd) : Bool := c.b 4
/-- cw.sigv. -/
def CopyCmd.isSigv (c : CopyCmd) : Bool := c.b 5
/-- cw.red. -/
def CopyCmd.isRed (c : CopyCmd) : Bool := c.b 6
/-- cw.mc. -/
def CopyCmd.isMc (c : CopyCmd) : Bool := c.b 7
/-- cw.tagf. -/
def CopyCmd.isTagf (c : CopyCmd) : Bool := c.b 8

/-- A scratchpad operand (R321): core, half-core and byte address; none where a bit that must be zero is set. A die code of
8 or above or a cluster code of 12 or above names core 384, which does not exist. -/
def spadPlace (a kind core : Nat) : Option (Nat × Bool × Nat) :=
  if kind = 1 then (if a < 2 ^ 22 then some (core, false, a) else none)
  else if fld a 23 1 != 0 || 2 ^ 34 ≤ a then none
  else
    let (d, k) := (fld a 30 4, fld a 26 4)
    some (if d < 8 && k < 12 then coreNo d k (fld a 24 2) else 384, bit a 22, a % 2 ^ 22)

/-- Cores that a scratchpad destination names: the core set under MCAST (R328). -/
def CopyCmd.dests (c : CopyCmd) : List Nat :=
  if c.dk = 3 then [c.core]
  else if c.dk = 0 then []
  else match spadPlace c.dst c.dk c.core with
    | some (k, _, _) => if c.isMc then ((List.range 4).filter (fun i => bit (c.f 32 4) i)).map (fun i => clusOf k * 4 + i) else [k]
    | none => []

/-- The tag writes of a command, chunk by chunk in address order, one clock after another: the words that its delivered bytes cover turn
full, and carry the time of its release (R257, R329, R333, R353, R440). -/
def State.tagWrites (s : State) (r : CopyRun) : List PWrite :=
  let chunks := (r.segs.flatMap (fun p => (List.range ((p.1 + p.2.length + 63) / 64 - p.1 / 64)).map (fun i => p.1 / 64 + i)))
  let l := sortBy (· ≤ ·) chunks.eraseDups
  (List.range l.length).map (fun i =>
    let ch := l.getD i 0
    let words := (List.range 8).filter (fun w => (List.range 8).all (fun i =>
      r.segs.any (fun p => p.1 ≤ 64 * ch + 8 * w + i && 64 * ch + 8 * w + i < p.1 + p.2.length)))
    { id := 0, clk := s.pcyc + i, addr := 64 * ch, tset := BitVec.ofNat 8 ((words.map (2 ^ ·)).foldl (· + ·) 0), tval := true,
      chg := some (r.cmd.core, r.cmd.ctx), src := .copyTag r.id, order := 2 * r.id + 2, rel := some (max r.wts r.relLt) })
/-- A command whose tags turn full as it completes has left nothing to be claimed: the clock of the package in which it completes at
its destinations (R327, R333). -/
def State.copyEnds (s : State) (r : CopyRun) : Option Nat :=
  let mine (w : PWrite) : Bool := w.src = .copy r.id
  if r.cmd.isTagf && !r.cmd.isSigv
      && ((r.phase = .stream && r.plan.isEmpty && r.lists = 0 && r.fail.isNone) || (r.phase = .write && r.pieces.length ≤ r.piece))
      && r.cmd.dests.all (fun k => !(s.core k).sp.claims.any mine) then
    some (r.cmd.dests.foldl (fun m k => ((s.core k).sp.wr.filter mine).foldl (fun m w => max m (s.pcyc + (w.clk - s.now k))) m) r.due)
  else none
/-- The scratchpad of core c with the tag changes to come of the commands that complete there, as those claimed (R298, R333). -/
def State.ahead (s : State) (c : Nat) : Spad :=
  s.copies.foldl (fun sp r => match if r.cmd.dests.contains c then s.copyEnds r else none with
    | some t => (s.tagWrites r).foldl (fun sp w => sp.addWr { w with clk := s.now c + (t - s.pcyc) }) sp
    | none => sp) (s.core c).sp
/-- The word at byte address a of core c is full, as it stands at clock `use`: every tag change granted for a clock up to it counts
(R298). -/
def State.isFull (s : State) (c a use : Nat) : Bool :=
  ((s.ahead c).atClock (s.queued c) (a / 64 * 64) (use + 1)).full.contains (a / 8 * 8)
/-- The time of the last release on the word, as it stands at clock `use` (R353). -/
def State.wordTime (s : State) (c a use : Nat) : Nat :=
  tget ((s.ahead c).atClock (s.queued c) (a / 64 * 64) (use + 1)).times (a / 8 * 8) 0

/-- What an entry of the context holds for the chunk at a, if it is forwarded to a read with that use clock (R216, R255). -/
def Entry.forward (e : Entry) (a use : Nat) : Option (Nat × Nat) :=
  match e.kind with
  | .spad b d be _ => if b = a then some (d.toNat, be.toNat) else none
  | .drain b d be _ _ f => if b = a && f ≤ use then some (d.toNat, be.toNat) else none
  | _ => none

/-- The 64 B chunk at address a (a multiple of 64) as context x of core c reads it at clock `use` of the core, with those of its
held stores that `of_` lets through (R248). -/
def State.chunk (s : State) (c x a use : Nat) (of_ : Entry → Bool := fun _ => true) : Nat :=
  let k := s.core c
  k.cb.foldl (fun v e => if e.ctx = x && of_ e then match e.forward a use with
      | some (d, be) => mergeBe v d be
      | none => v else v) (k.sp.chunkAt (s.queued c) a use)

/-- n bytes at address a within the chunks they touch, first chunk first. -/
def State.spBytes (s : State) (c x a use : Nat) (n : Nat) : Nat :=
  let a0 := a / 64 * 64
  let cnt := (a + n + 63) / 64 - a / 64
  pack 512 (fun i => s.chunk c x (a0 + 64 * i) use) cnt 0 / 2 ^ (8 * (a % 64)) % 2 ^ (8 * n)

/-- n bytes at a as the issuing context's bundle reads them at t + 2. -/
def State.spRead (s : State) (a n : Nat) : Nat := s.spBytes s.iss.core s.iss.ctx a (s.now s.iss.core + 2) n

/-- The DRAIN entries of context x, among those of `of_`, that give the chunk at a one of its bytes `be` at clock `use`, where no later
one gives that byte, count as read (R229, R255). -/
def markChunk (x a be use : Nat) (of_ : Entry → Bool) : List Entry → List Entry
  | [] => []
  | e :: es =>
    let given (e : Entry) : Nat := if e.ctx = x && of_ e then (match e.forward a use with | some (_, b) => b | none => 0) else 0
    let later := es.foldl (fun m f => m ||| given f) 0
    let drain := match e.kind with | .drain _ _ _ _ _ _ => true | _ => false
    (if drain && (given e &&& be) &&& (2 ^ 64 - 1 - later % 2 ^ 64) != 0 then { e with read := true } else e) :: markChunk x a be use of_ es

/-- Context x reads the bytes `be` of the chunk at a (a multiple of 64) at clock `use`: the held DRAIN entries whose bytes it is
given count as read (R229, R255). -/
def State.markRead (s : State) (c x a be use : Nat) (of_ : Entry → Bool := fun _ => true) : State :=
  s.modCore c (fun k => { k with cb := markChunk x a be use of_ k.cb })

/-- Byte enables of n bytes at a within their chunk. -/
def beAt (a n : Nat) : Nat := (2 ^ n - 1) * 2 ^ (a % 64)

/-- Scratchpad-address program error (R292). -/
def spadTrap (a : Nat) : Trap := { cause := 0x08, addr := a }
/-- Alignment program error (R292). -/
def alignTrap (a : Nat) : Trap := { cause := 0x07, addr := a }
/-- Bank program error (R386). -/
def bankTrap (a : Nat) : Trap := { cause := 0x11, sub := 4, addr := a }

/-- The launch may use data bank b on core c: named in hdr.bank and owned (R386). -/
def State.bankOk (s : State) (c l b : Nat) : Bool :=
  (s.launch l).bank / 2 ^ b % 2 = 1 && tget (s.core c).sp.owner b 0 = l

/-- Every chunk of [a, a+n) lies in banks the issuing task may use. -/
def State.banksOk (s : State) (a n : Nat) : Bool :=
  (List.range (min 32 ((a + n + 63) / 64 - a / 64))).all (fun i => s.bankOk s.iss.core s.cx.launch (bankOf (a + 64 * i)))

/-- The checks of R292 on n bytes at ea with an alignment: range, alignment, banks. -/
def State.spCheck (s : State) (ea : Int) (n al : Nat) : Option Trap :=
  if ea < 0 || (Config.spadBytes : Int) < ea + n then some (spadTrap (ea % 2 ^ 64).toNat)
  else if ea.toNat % al != 0 then some (alignTrap ea.toNat)
  else need (s.banksOk ea.toNat n) (bankTrap ea.toNat)

/-- ea := s[a] + imm (R292), an integer without wrap (DEDUCED: the check is that every byte lies in 0 to 2^22 − 1). -/
def State.spEa (s : State) (a : SReg) (imm : BitVec 24) : Int := ((s.rs a).toNat : Int) + imm.toInt

/-- A use of the chunk at a, d clocks after issue (R245). -/
def State.useAt (s : State) (a d : Nat) (read : Bool) : Use :=
  { bank := bankOf a, row := rowOf a, clk := s.now s.iss.core + d, read := read }

/-- A row of n chunks in address order, 8 per clock from t + 2 (R245). -/
def State.rowUses (s : State) (a n : Nat) (read : Bool) : List Use :=
  (List.range n).map (fun i => s.useAt (a + 64 * i) (2 + i / 8) read)

/-! ### Writes granted for a clock (R249 to R251, R256) -/

/-- Deltas of group g outstanding at clock x (R251). -/
def Spad.outstanding (sp : Spad) (g x : Nat) : Nat :=
  (sp.deltas.filter (fun d => d.g = g && d.post ≤ x && (match d.apply with | some y => x ≤ y | none => true))).length

/-- A write granted for a clock of core c. A partial write of a normal group fixes its delta's posting clock with it
(R250); degraded and unprotected groups post none (R260, R262). -/
def State.grantWrite (s : State) (c : Nat) (w : PWrite) : State :=
  let g := groupOf (bankOf w.addr)
  let sp := (s.core c).sp
  let posts := !w.stripe && !(List.range 4).any (fun m => sp.ret.getLsbD (g + 8 * m)) && !sp.unp.getLsbD g
  let d : Delta := { wid := s.nextId, fixed := s.now c, g := g, row := rowOf w.addr, post := w.clk, apply := none, data := 0#512, tags := 0#8,
                     bank := bankOf w.addr }
  State.modCore { s with nextId := s.nextId + 1 } c (fun k =>
    { k with sp := { k.sp.addWr { w with id := s.nextId } with deltas := if posts then k.sp.deltas ++ [d] else k.sp.deltas } })

/-- A vector load in flight whose chunk is written before its clock of reading takes the bytes written that no entry of its own
context gives it (R248). -/
def InFlight.seen (f : InFlight) (k : Core) (x : Nat) (w : PWrite) : InFlight :=
  f.parts.foldl (fun f p =>
    if p.2.1 = w.addr && w.clk < p.2.2 then
      let own := k.cb.foldl (fun m e => if e.ctx = x && e.serial < f.serial then
        (match e.forward w.addr p.2.2 with | some (_, b) => m ||| b | none => m) else m) 0
      let be := w.be.toNat &&& (2 ^ 64 - 1 - own % 2 ^ 64)
      match f.w with
      | .v d v en =>
        let n := mergeBe (v.toNat / 2 ^ (512 * p.1) % 2 ^ 512) w.data.toNat be
        let m := (2 ^ 512 - 1) * 2 ^ (512 * p.1)
        { f with w := .v d ((v &&& ~~~(BitVec.ofNat 16384 m)) ||| BitVec.ofNat 16384 (n * 2 ^ (512 * p.1))) en }
      | _ => f
    else f) f
/-- Registers whose loads in flight have seen a write. -/
def Regs.seen (r : Regs) (k : Core) (x : Nat) (w : PWrite) : Regs := { r with flight := r.flight.map (fun f => f.seen k x w) }
/-- A write made at its clock is seen by the loads in flight that read after it (R248, R256). -/
def State.show_ (s : State) (c : Nat) (w : PWrite) : State :=
  s.modCore c (fun k => { k with ctxs := k.ctxs.map (fun p =>
    (p.1, { p.2 with r := p.2.r.seen k p.1 w, mark := p.2.mark.map (fun r => r.seen k p.1 w),
                     mark2 := p.2.mark2.map (fun m => (m.1, m.2.seen k p.1 w)),
                     split := p.2.split.map (fun f => f.seen k p.1 w) })) })
/-- A write made directly at its clock, and the RSTE that acts as it empties its word (R248, R256, R304). -/
def State.directWrite (s : State) (c : Nat) (w : PWrite) : State :=
  let q := ((s.core c).sp.atClock (s.queued c) (w.addr / 64 * 64) w.clk).queue
  let next := if w.tval then none else q.find? (fun v => State.tagWords v = State.tagWords w)
  let s := (s.grantWrite c w).show_ c w
  match next with
  | some v => s.show_ c { v with clk := w.clk }
  | none => s

/-! ### The commit buffer (R252) -/

/-- Entries a context occupies. -/
def Core.occupied (k : Core) (x : Nat) : Nat := (k.cb.filter (fun e => e.ctx = x)).length

/-- An entry of context k is released, or covered by a quench point already issued. -/
def Entry.covered (e : Entry) (k : Ctx) : Bool :=
  e.st != .held || (match k.quench with | some q => e.serial ≤ q | none => false)

/-- Commit-overflow trap (R252). -/
def overflowTrap : Trap := { cause := 0x10 }

/-- Room for n more entries (R252). -/
def State.room (s : State) (n : Nat) : Wait :=
  if n = 0 then .go
  else if Config.ctxEntries < s.cc.occupied s.iss.ctx + n then
    if s.cc.cb.any (fun e => e.ctx = s.iss.ctx && e.covered s.cx) then .hold else .trap overflowTrap
  else waitFor (s.cc.cb.length + n ≤ Config.commitEntries)

/-- An entry added by the issuing bundle (R252). -/
def State.addEntry (s : State) (g : Grant) (k : EntryKind) : State :=
  State.modCc { s with nextId := s.nextId + 1 } (fun c =>
    { c with cb := c.cb ++ [{ id := s.nextId, ctx := s.iss.ctx, serial := s.iss.serial, pos := s.iss.pos, grant := g, kind := k }] })

/-- Every earlier held entry of the context has drained; entries of the issuing bundle itself are waited for by its
completion (R256, R365, R320). -/
def State.drained (s : State) : Bool :=
  !s.cc.cb.any (fun e => e.ctx = s.iss.ctx && e.serial < s.iss.serial)

/-- The drain an implicit quench point waits for (R256). -/
def State.waitDrain (s : State) : Wait := if s.drained then .go else .drain

end Sys2Proof.Machine
end

