-- ==== Sys2Proof/Machine/Global.lean ====
section
/-! DEFINITION. Global memory: the requester's check, places and encryption, update state, caches, requests on their way to
a home, translation, and what a home does (R266 to R287, R311 to R316, R337 to R342, R354). -/

namespace Sys2Proof.Machine

/-! ### The requester's check (R266, R269) -/

/-- Bits [63:57] equal bit 56 (R266). -/
def canonVa (a : Nat) : Bool := a / 2 ^ 56 = 0 || a / 2 ^ 56 = 255
/-- LRT-miss program error (R269). -/
def lrtTrap (a : Nat) : Trap := { cause := 0x05, addr := a }
/-- Permission program error (R269). -/
def permTrap (a asid : Nat) : Trap := { cause := 0x06, addr := a, asid := asid }

/-- Steps 1 to 3 of R269 for n bytes at a under the table of a launch: the cause of the failure, or the entry. -/
def Launch.lrtFind (l : Launch) (a n : Nat) (perm : Lrt → Bool) : Except Trap Lrt :=
  if 2 ^ 64 < a + n || !canonVa a || !canonVa (a + n - 1) then .error (lrtTrap a)
  else match l.lrt.filter (fun e => e.v && e.base ≤ a && a + n ≤ e.limit) with
    | [e] => if perm e then .ok e else .error (permTrap a e.asid)
    | _ => .error (lrtTrap a)

/-- Steps 1 to 4 of R269 by the issuing context. -/
def State.gcheck (s : State) (a n : Nat) (perm : Lrt → Bool) (al : Nat) : Except Trap Lrt :=
  match s.cl.lrtFind a n perm with
  | .ok e => if a % al = 0 then .ok e else .error { alignTrap a with asid := e.asid }
  | .error t => .error t

/-- The trap of a check, if any. -/
def trapOf {α : Type} : Except Trap α → Option Trap
  | .error t => some t
  | .ok _ => none

/-- The entry a passed check found. -/
def entOf : Except Trap Lrt → Lrt
  | .ok e => e
  | .error _ => {}

/-- ea := (s[a] + imm) mod 2^64 (R306). -/
def State.gEa (s : State) (a : SReg) (imm : BitVec 24) : Nat := (s.rs a + imm.signExtend 64).toNat

/-! ### Places: package memory by PPA, host memory from 2^64 on -/

/-- The first place of host memory. -/
def hostBase : Nat := 2 ^ 64
/-- Line of a place (R11). -/
def lineOf (p : Nat) : Nat := p / 128

namespace State

/-- Stored bytes of a place. -/
def rawRead (s : State) (p n : Nat) : Nat :=
  if p < hostBase then mread s.mem p n else mread s.host (p - hostBase) n
/-- Stored bytes written. -/
def rawWrite (s : State) (p n v : Nat) : State :=
  if p < hostBase then { s with mem := mwrite s.mem p n v } else { s with host := mwrite s.host (p - hostBase) n v }
/-- The keys of a slot (R287); slot 0 and host places are not encrypted. -/
def keys (s : State) (key p : Nat) : Option (Nat × Nat) :=
  if key = 0 || hostBase ≤ p then none
  else (s.mg.keys.find? (fun k => k.1 = key)).map (fun k => (k.2.1.toNat, k.2.2.toNat))
/-- The plaintext of line l (a place divided by 128) under a key slot (R286). -/
def lineRead (s : State) (key l : Nat) : Nat :=
  match s.keys key (128 * l) with
  | none => s.rawRead (128 * l) 128
  | some (k1, k2) => decryptLine k1 k2 l (s.rawRead (128 * l) 128)
/-- Line l written whole under a key slot. -/
def lineWrite (s : State) (key l v : Nat) : State :=
  match s.keys key (128 * l) with
  | none => s.rawWrite (128 * l) 128 v
  | some (k1, k2) => s.rawWrite (128 * l) 128 (encryptLine k1 k2 l v)
/-- n bytes at place p under a key slot. -/
def placeRead (s : State) (key p n : Nat) : Nat :=
  pack 1024 (fun i => s.lineRead key (lineOf p + i)) ((p + n + 127) / 128 - p / 128) 0 / 2 ^ (8 * (p % 128))
    % 2 ^ (8 * n)
/-- The enabled ones of the n bytes of v at place p. -/
def placeWrite (s : State) (key p n v be : Nat) : State :=
  let m := beMask be n * 2 ^ (8 * (p % 128))
  let x := v * 2 ^ (8 * (p % 128))
  (List.range ((p + n + 127) / 128 - p / 128)).foldl (fun s i =>
    let m := m / 2 ^ (1024 * i) % 2 ^ 1024
    s.lineWrite key (lineOf p + i) (((x / 2 ^ (1024 * i)) &&& m) ||| (s.lineRead key (lineOf p + i) &&& (2 ^ 1024 - 1 - m)))) s

/-- What the home keeps of a line. -/
def line (s : State) (p : Nat) : LineInfo := tget s.lines (lineOf p) {}
/-- One line changed. -/
def modLine (s : State) (p : Nat) (f : LineInfo → LineInfo) : State :=
  { s with lines := tset s.lines (lineOf p) (f (s.line p)) }

end State

/-! ### Operations and update state (R311, R314 to R316) -/

/-- What a read of an element in update state returns (R316). -/
def Upd.value (u : Upd) : Nat :=
  match u.op with
  | some op => u.parts.foldl (fun v p => amoVal op v p.2 u.w) (u.v0 % 2 ^ (8 * u.w))
  | none =>
    let add (a : Acc) (v : Nat) : Acc := a.addF (Machine.value u.fmt (v % 2 ^ (8 * u.w)))
    (u.parts.foldl (fun a p => add a p.2) (add {} u.v0)).read u.fmt

/-- The element overlaps [p, p+n). -/
def Upd.meets (u : Upd) (p n : Nat) : Bool := u.p < p + n && p < u.p + u.w
/-- A write at p with byte enables be writes a byte of the element. -/
def Upd.hit (p be : Nat) (u : Upd) : Bool := (List.range u.w).any (fun i => p ≤ u.p + i && bit be (u.p + i - p))

namespace State

/-- n bytes at place p with the update state collected (R316). -/
def mergedRead (s : State) (key p n : Nat) : Nat :=
  let t := s.upds.foldl (fun (t : State) u => if u.meets p n then t.placeWrite u.key u.p u.w u.value (2 ^ u.w - 1) else t) s
  t.placeRead key p n

/-- The partial copies of some elements merged at the home: their update state ends and each merge adds 1 to the tag of its
line (R282, R316). A line with an uncorrectable error takes no merge (R411): its elements stay in update state (log 97). -/
def mergeWhere (s : State) (hit : Upd → Bool) : State :=
  let hit (u : Upd) : Bool := hit u && !(tget s.lines (lineOf u.p) {}).err
  let s := s.upds.foldl (fun (t : State) u =>
    if hit u then
      (t.placeWrite u.key u.p u.w u.value (2 ^ u.w - 1)).modLine u.p (fun l => { l with tag := l.tag + 1#32 })
    else t) s
  { s with upds := s.upds.filter (fun u => !hit u) }
/-- Every partial copy of [p, p+n) merged. -/
def mergeUpds (s : State) (p n : Nat) : State := s.mergeWhere (fun u => u.meets p n)

/-- A contribution of w bytes applied to the partial copy of a die (R314, R316). A pending element of another operation,
format or size is merged first. -/
def contribute (s : State) (key p w die : Nat) (op : Option AmoOp) (fmt : Ty) (val : Nat) : State :=
  let same (u : Upd) : Bool := u.p = p && u.w = w && u.op = op && (op.isSome || u.fmt = fmt)
  if s.upds.any (fun u => u.meets p w && !same u) || !s.upds.any same then
    let s := s.mergeUpds p w
    { s with upds := s.upds ++ [{ p := p, w := w, key := key, op := op, fmt := fmt, v0 := s.placeRead key p w,
                                  parts := [(die, val)] }] }
  else { s with upds := s.upds.map (fun u => if same u then { u with parts := u.parts ++ [(die, val)] } else u) }

end State

/-! ### Checkpoint units (R405, R406) -/

/-- The 64 KiB unit of a place, if a drain is open and the unit lies outside the reserve, is not drained and has no reserve
copy. -/
def State.ckUnit (s : State) (p : Nat) : Option Nat :=
  let u := p / 65536
  if s.ck.open_ && p < Config.ppaLimit && u % 1048576 < 1048576 - 52428 && !s.ck.drained.contains u
      && !s.ck.copies.any (fun k => k.1 = u) then some u else none
/-- Room in the reserve of a unit's stack. -/
def State.ckRoom (s : State) (u : Nat) : Bool := (s.ck.copies.filter (fun k => k.1 / 1048576 = u / 1048576)).length < 52428
/-- Bytes n from place p on lie in units of which some still needs room in a reserve that is full (R406). -/
def State.ckStuck (s : State) (p n : Nat) : Bool :=
  s.ck.open_ && 0 < n && (
    let us := (List.range ((p + n - 1) / 65536 + 1 - p / 65536)).filterMap (fun i => s.ckUnit ((p / 65536 + i) * 65536))
    let of (u : Nat) (v : Nat) : Bool := v / 1048576 = u / 1048576
    us.any (fun u => 52428 < (s.ck.copies.filter (fun k => of u k.1)).length + (us.filter (of u)).length))
/-- The old bytes of the unit of a place are copied into the reserve (R406). -/
def State.ckCopy (s : State) (p : Nat) : State :=
  match s.ckUnit p with
  | none => s
  | some u => { s with ck := { s.ck with copies := s.ck.copies ++ [(u, s.mem.filter (fun c => c.1 / 65536 = u))] } }

/-! ### Homes (R270 to R272) -/

/-- The n-th set bit of a mask, counting from bit 0. -/
def nthBit (m n : Nat) : Nat := ((List.range 8).filter (fun d => m / 2 ^ d % 2 = 1)).getD n 0
/-- Number of set bits of an 8-bit mask. -/
def bitCount (m : Nat) : Nat := ((List.range 8).filter (fun d => m / 2 ^ d % 2 = 1)).length

/-- Home die of an address: 8 for the host port, none while a first-touch page has no record (R270). -/
def State.homeDie (s : State) (e : Lrt) (a : Nat) : Option Nat :=
  match e.home with
  | 0 => some e.hdie
  | 1 => some (nthBit e.dmask ((a - e.base) / 4096 % bitCount e.dmask))
  | 2 => (s.ftdir.find? (fun r => r.1 = e.asid && r.2.1 = a / 4096)).map (·.2.2)
  | _ => some 8

/-- The die of an asking agent; 8 for agents of the hearth die. -/
def State.agentDie (s : State) : Agent → Nat
  | .ctx c _ | .evict c => coreDie c
  | .copy id => match s.copies.find? (fun r => r.id = id) with | some r => r.clus / 12 | none => 8
  | _ => 8
/-- The cluster over the package of an asking agent that has one. -/
def Agent.clus : Agent → Option Nat
  | .ctx c _ | .evict c => some (clusOf c)
  | _ => none

/-- Traffic between two dies crosses two bridges through the hearth die (R17). -/
def viaHearth (d e : Nat) : Bool := d < 8 && e < 8 && d != e && (d + 1) % 8 != e && (e + 1) % 8 != d

/-! ### Caches (R273, R339, R340) -/

/-- Bits as bytes enabled: a number whose byte i is 255 when bit i of the 128 is set. -/
def lineMask (v : BitVec 128) : Nat := beMask v.toNat 128
/-- A line with the bytes of v that m selects taken from x. -/
def patchLine (old : Nat) (x : Nat) (v : BitVec 128) : Nat :=
  let m := lineMask v
  (x &&& m) ||| (old &&& (2 ^ 1024 - 1 - m))
/-- The copy of a line. -/
def findLine (l : List CLine) (asid va : Nat) : Option CLine := l.find? (fun c => c.asid = asid && c.va = va / 128 * 128)
/-- A list of copies with the one of the same line replaced or added. -/
def putLine (l : List CLine) (c : CLine) : List CLine :=
  l.filter (fun d => !(d.asid = c.asid && d.va = c.va)) ++ [c]
/-- A list of copies without a line. -/
def dropLine (l : List CLine) (asid va : Nat) : List CLine := l.filter (fun d => !(d.asid = asid && d.va = va / 128 * 128))

/-- The copy serves a read at logical time t; a copy that no lease was given for, or whose lease a rebase ended, serves only
while write-pending (R339 to R341). -/
def CLine.serves (c : CLine) (t : Nat) : Bool := c.ent.coh != 0 || (c.lease != 0 && t ≤ c.lease) || 0 < c.wpend
/-- The copy, written through or into: bytes be of v at va. -/
def CLine.patch (c : CLine) (va v be : Nat) (dirty : Bool) : CLine :=
  let off := va % 128
  let b : BitVec 128 := BitVec.ofNat 128 (be * 2 ^ off)
  { c with data := BitVec.ofNat 1024 (patchLine c.data.toNat (v * 2 ^ (8 * off)) b), valid := c.valid ||| b,
           dirty := if dirty then c.dirty ||| b else c.dirty }

/-- What the caches of a core hold of the line of va for a reader with logical time t: bytes and which are valid (R273). -/
def State.cached (s : State) (c : Nat) (e : Lrt) (va t : Nat) : Nat × BitVec 128 :=
  let use (o : Option CLine) : Nat × BitVec 128 := match o with
    | some l => if l.serves t then (l.data.toNat, l.valid) else (0, 0#128)
    | none => (0, 0#128)
  let (d2, v2) := if e.cache = 1 || e.cache = 2 then use (findLine (s.clu (clusOf c)).l2 e.asid va) else (0, 0#128)
  let (d1, v1) := if e.cache = 1 then use (findLine (s.core c).l1 e.asid va) else (0, 0#128)
  (patchLine d2 d1 v1, v2 ||| v1)

/-- A write of the cluster makes every line on its way to a reader of the cluster one that is not kept (R340). -/
def State.noFill (s : State) (clus asid va : Nat) : State :=
  { s with reqs := s.reqs.map (fun r =>
      if r.who.clus = some clus && r.g.ent.asid = asid && r.g.va / 128 = va / 128 then { r with nofill := true } else r) }

/-! ### Requests -/

/-- The request with a number. -/
def State.req? (s : State) (id : Nat) : Option Req := s.reqs.find? (fun r => r.id = id)
/-- One request changed. -/
def State.modReq (s : State) (id : Nat) (f : Req → Req) : State :=
  { s with reqs := s.reqs.map (fun r => if r.id = id then f r else r) }
/-- A request that is done with. -/
def State.endReq (s : State) (id : Nat) : State := { s with reqs := s.reqs.filter (fun r => r.id != id) }

/-- A number for an agent. -/
def Agent.code : Agent → Nat
  | .coll i => 4 * i
  | .ctx c x => 4 * (8 * c + x) + 1
  | .copy i => 4 * i + 2
  | .evict c => 4 * (2 * c) + 3
  | .peer c i => 4 * (2 * (c + 262144 * i) + 1) + 3
/-- The route of an agent's traffic for one line, out (0) or back (1) (R282). -/
def lineRoute (w : Agent) (va back : Nat) : Nat := 4 * (w.code * 2 ^ 57 + va / 128 % 2 ^ 57) + back + 1

/-- The core and context an agent works for. -/
def State.agentCtx (s : State) : Agent → Option (Nat × Nat)
  | .ctx c x => some (c, x)
  | .copy id => (s.copies.find? (fun r => r.id = id)).map (fun r => (r.cmd.core, r.cmd.ctx))
  | .coll id => match s.coll.waits.find? (fun w => w.id = id) with
    | some w => some (w.core, w.ctx)
    | none => (s.coll.runs.find? (fun r => r.id = id)).bind (fun r =>
        (s.coll.insts.find? (fun i => i.id = r.inst)).map (fun i => (i.core, i.ctx)))
  | _ => none
/-- The logical time a request carries: that of the core it is made for (R339; of an engine's request DEDUCED, log 87). -/
def State.agentLt (s : State) (w : Agent) : Nat := match s.agentCtx w with | some (c, x) => s.lt c x | none => 0

/-- The chip a packet is for. -/
def pktChip : Packet → Nat
  | .msg _ d _ _ _ _ _ | .peerReq _ d _ _ _ _ _ | .peerRep d _ _ _ _ _ | .coll _ d _ _ _ _ | .cancel d _ | .room _ d _ _ _ _
  | .roomRep d _ _ | .accepted d _ => d

/-- A packet handed to the fabric port, for its chip; while the chip's entry is being written it waits (R393). -/
def State.toPort (s : State) (p : Packet) : State :=
  if s.fab.routeNew.any (fun e => e.1 = pktChip p) then { s with fab := { s.fab with held := s.fab.held ++ [p] } }
  else { s with fab := { s.fab with port := s.fab.port ++ [p] } }

/-- A read of a peer range takes the whole line where a cache may keep it. -/
def Req.wholeLine (r : Req) : Bool :=
  (r.g.ent.cache = 1 || r.g.ent.cache = 2) && (match r.want with | .read _ | .prefetch _ | .pin => true | _ => false)
/-- The address a peer range's home is asked for. -/
def Req.peerVa (r : Req) : Nat := if r.wholeLine then r.g.va / 128 * 128 else r.g.va
/-- What a peer range's home is asked (R285). -/
def Req.peerOp (r : Req) : PeerOp :=
  match r.want with
  | .read _ | .prefetch _ | .pin => .read (if r.wholeLine then 128 else r.g.len)
  | .grant _ => .grant
  | .write d be | .wback d be => .write r.g.len d be
  | .amo _ _ op v _ => .amo op r.g.len v
  | .cas _ _ e v _ => .cas r.g.len e v
  | .red op v => .red op r.g.len v
  | .fred ty v => .fred ty v
  | .sync => .sync
  | .rel v m _ => .rel v m

/-- An atomic of the cluster on the line is out (R354). -/
def State.atomicOut (s : State) (k asid va : Nat) : Bool :=
  s.reqs.any (fun r => r.who.clus = some k && r.g.ent.asid = asid && r.g.va / 128 = va / 128 && (match r.want with
    | .amo _ _ _ _ _ | .cas _ _ _ _ _ => true
    | _ => false))

/-- A request for another chip leaves (R285). -/
def State.toPeer (s : State) (r : Req) : State :=
  s.toPort (.peerReq s.mg.chip.toNat r.g.ent.peer r.id r.peerVa r.g.ent.asid r.lt r.peerOp)
/-- A refused request is asked again, not before n clocks have passed (R281, R452). -/
def State.askAgain (s : State) (r : Req) (n : Nat) : State :=
  (s.modReq r.id (fun r => { r with code := 0, served := false, p := none })).after
    (max n (max (s.meshWait (s.agentDie r.who)) (s.meshWait ((s.homeDie r.g.ent r.g.va).getD 9)))) (lineRoute r.who r.g.va 0) .homeRequest
    { id := r.id }

/-- A request leaves: to another chip, to the first-touch directory unless its hint names the recorded die (R272), or to
its home. -/
def State.ask (s : State) (r : Req) : State :=
  -- a line read while an atomic of the cluster on it is out is not kept (R354)
  let lent : Bool := match r.who.clus with | some k => s.atomicOut k r.g.ent.asid r.g.va | none => false
  let r := { r with id := s.nextId, lt := s.agentLt r.who, nofill := r.nofill || lent }
  let s := { s with nextId := s.nextId + 1, reqs := s.reqs ++ [r] }
  if r.g.ent.home = 4 then
    s.toPeer r
  else
    let known := s.homeDie r.g.ent r.g.va
    let dir := r.g.ent.home = 2 && r.p.isNone && (known.isNone || r.g.hint != known)
    s.after (max (s.meshWait (s.agentDie r.who)) (s.meshWait (known.getD 9))) (lineRoute r.who r.g.va 0)
      (if dir then .firstTouchAssign else .homeRequest) { id := r.id }

/-- What an answer is called when it arrives. -/
def Req.answerEv (r : Req) : Instr :=
  if r.code != 0 then .refusalArrival
  else match r.want with
    | .read _ | .prefetch _ | .amo _ _ _ _ _ | .cas _ _ _ _ _ | .sync => .variableResultLand
    | .grant _ => .writeGrantReturn
    | _ => .ackArrival

/-- The answer of a home leaves. -/
def State.answer (s : State) (r : Req) : State :=
  let s := s.modReq r.id (fun _ => { r with served := true })
  match r.who with
  | .peer chip n =>
    let bytes : List Byte := match r.want with
      | .read _ => bytesOf (r.data / 2 ^ (8 * (r.g.va % 128))) r.g.len
      | .sync => bytesOf r.data 16
      | .rel _ _ _ => bytesOf r.data 4
      | .amo _ _ _ _ _ | .cas _ _ _ _ _ => bytesOf r.data r.g.len
      | _ => []
    -- a grant given to another chip counts until the write that uses it comes (R279, R280)
    let s := match r.want, r.p with
      | .grant _, some p => if r.code = 0 then
          { s with fab := { s.fab with granted := s.fab.granted ++ [(chip, r.g.ent.asid, r.g.va, p)] } } else s
      | _, _ => s
    (s.endReq r.id).toPort (.peerRep chip n r.code r.wts (r.tag.map (·.toNat)) bytes)
  | _ => s.after (max (s.meshWait (s.agentDie r.who)) (s.meshWait r.home)) (lineRoute r.who r.g.va 1) r.answerEv
      { id := r.id, v := r.data, n := r.wts }

/-! ### Own writes (R337) -/

/-- Writes and reductions of a context to a line that precede bundle `serial` and have not been applied, in program
order. -/
def State.ownOps (s : State) (c x serial asid va : Nat) : List EntryKind :=
  let near (g : GAddr) : Bool := g.ent.asid = asid && g.va / 128 = va / 128
  (s.reqs.filterMap (fun r => if r.who = .ctx c x && !r.served && near r.g then
    match r.want with
    | .write d be => some (.global r.g (BitVec.ofNat 512 d) (BitVec.ofNat 64 be))
    | .red op v => some (.red r.g op v)
    | .fred ty v => some (.fred r.g ty v)
    | _ => none else none)) ++
  ((s.core c).cb.filterMap (fun e => if e.ctx = x && e.serial < serial then
    match e.kind with
    | .global g _ _ | .red g _ _ | .fred g _ _ => if near g then some e.kind else none
    | _ => none else none))

/-- A kind of entry is a reduction. -/
def EntryKind.isRed : EntryKind → Bool
  | .red _ _ _ | .fred _ _ _ => true
  | _ => false

/-- One of them applied to a copy of the state in which a line lies at place p0. -/
def State.applyOwn (p0 key die : Nat) (s : State) (k : EntryKind) : State :=
  match k with
  | .global g d be => (s.mergeWhere (Upd.hit (p0 + g.va % 128) be.toNat)).placeWrite key (p0 + g.va % 128) 64 d.toNat be.toNat
  | .red g op v => s.contribute key (p0 + g.va % 128) g.len die (some op) .i64 v
  | .fred g ty v => s.contribute key (p0 + g.va % 128) g.len die none ty v
  | _ => s

/-- Writes and write-backs of a cluster to a line that left before request `id` and that their home has not applied, in the order
in which they left: data and enables over the line (R282, R340). -/
def State.clusterOut (s : State) (k id asid va : Nat) (of_ : Agent → Bool) : List (Nat × Nat) :=
  s.reqs.filterMap (fun r =>
    if r.who.clus = some k && of_ r.who && r.id < id && (!r.served || r.code = 1 || r.code = 2) && r.g.ent.asid = asid
        && r.g.va / 128 = va / 128 then
      match r.want with
      | .write d be => some (d * 2 ^ (8 * (r.g.va % 128)), be * 2 ^ (r.g.va % 128))
      | .wback d be => some (d, be)
      | _ => none
    else none)
/-- Bytes of a list of writes over a line. -/
def outBytes (l : List (Nat × Nat)) : BitVec 128 := l.foldl (fun v p => v ||| BitVec.ofNat 128 p.2) 0#128
/-- A list of writes laid over a line. -/
def outOver (l : List (Nat × Nat)) (line : Nat) : Nat := l.foldl (fun d p => patchLine d p.1 (BitVec.ofNat 128 p.2)) line
/-- The bytes that the caches held as a read was issued and that are still nowhere but there: dirty ones of a line that hardware
does not keep coherent (R337, R343). -/
def State.stillHeld (s : State) (r : Req) : BitVec 128 :=
  match r.who with
  | .ctx c _ =>
    let dirty (l : List CLine) : BitVec 128 := match findLine l r.g.ent.asid r.g.va with | some d => d.dirty | none => 0#128
    if r.g.ent.coh = 0 then 0#128 else r.heldV &&& (dirty (s.core c).l1 ||| dirty (s.clu (clusOf c)).l2)
  | _ => 0#128

/-- A line as a context sees it in a cache: its own plain writes that have not been applied laid over. -/
def ownOver (ops : List EntryKind) (line : Nat) : Nat :=
  ops.foldl (fun l k => match k with
    | .global g d be => patchLine l (d.toNat * 2 ^ (8 * (g.va % 128))) (BitVec.ofNat 128 (be.toNat * 2 ^ (g.va % 128)))
    | _ => l) line
/-- The bytes of the line they write. -/
def ownBytes (ops : List EntryKind) : BitVec 128 :=
  ops.foldl (fun v k => match k with
    | .global g _ be => v ||| BitVec.ofNat 128 (be.toNat * 2 ^ (g.va % 128))
    | _ => v) 0#128
/-- The bytes of the line that their reductions name. -/
def redBytes (ops : List EntryKind) : BitVec 128 :=
  ops.foldl (fun v k => match k with
    | .red g _ _ | .fred g _ _ => v ||| BitVec.ofNat 128 ((2 ^ g.len - 1) * 2 ^ (g.va % 128))
    | _ => v) 0#128

/-! ### Translation (R277 to R279) -/

/-- What a walk finds: a place, the first virtual address and the size of its page and the place of that; or a code. -/
inductive Walk where
  | at (p base size pbase : Nat)
  | fail (code : Nat)
  deriving DecidableEq, Repr

/-- Eight bytes of a table. -/
def State.tab8 (s : State) (p : Nat) : Nat := mread s.mem p 8

/-- A walk that cannot go on: a migration is answered before a rule of step 5 (R279). -/
def walkBad (mig : Bool) : Walk := .fail (if mig then 1 else 3)
/-- Steps 4 and 5 of R279 where the walk has found the place p: its page begins at address base and at place pbase. -/
def walkAt (die : Nat) (mig bad : Bool) (p base size pbase : Nat) : Walk :=
  if mig || bad then walkBad mig
  else if die = 8 then (if 2 ^ 64 ≤ p then .fail 3 else .at (hostBase + p) base size (hostBase + pbase))
  else if p / 2 ^ 37 = die && p < Config.ppaLimit then .at p base size pbase
  else .fail 3

/-- Levels of a paged walk, index positions 39, 30, 21, 12 (R278): `rd` reads eight bytes of a table, `mig` and `bad` say what
the entries above have shown. Beside the answer, the table entries that a walk cache may keep. -/
def walkPages (rd : Nat → Nat) (die a o : Nat) : Bool → Bool → List Nat → Nat → Walk × List (Nat × Nat)
  | mig, _, [], _ => (walkBad mig, [])
  | mig, bad, sh :: rest, tbl =>
    if Config.ppaLimit ≤ tbl then (walkBad mig, [])
    else
      let at_ := tbl + 8 * (o / 2 ^ sh % 512)
      let e := rd at_
      let pa := fld e 12 40 * 4096
      let mig := mig || bit e 3
      let bad := bad || fld e 4 8 != 0 || fld e 52 12 != 0 || (bit e 2 && sh != 12)
      if !bit e 0 then (.fail 2, [])
      else if !bit e 1 then
        let (w, l) := walkPages rd die a o mig (bad || sh = 12) rest pa
        (w, (at_, 8) :: l)
      else
        let size := if sh = 21 then 2 ^ 21 else if bit e 2 then 65536 else 4096
        let bad := bad || sh = 39 || sh = 30 || (size = 65536 && pa % 65536 != 0)
        (walkAt die mig bad (pa + o % size) (a - o % size) size pa, [])

/-- A leaf entry at place e of a node (R277). -/
def walkLeaf (rd : Nat → Nat) (die a e : Nat) (bad : Bool) : Walk × List (Nat × Nat) :=
  let base := rd e
  let w := rd (e + 16)
  let pa := fld w 12 52 * 4096
  let (mig, o) := (bit w 1, a - base)
  let bad := bad || fld w 3 9 != 0 || rd (e + 24) != 0
  if bit w 2 then (.fail 2, [])
  else if !bit w 0 then (walkAt die mig bad (pa + o) (a / 4096 * 4096) 4096 ((pa + o) / 4096 * 4096), [])
  else if 2 ^ 48 ≤ o then (walkBad mig, [])
  else walkPages rd die a o mig bad [39, 30, 21, 12] pa

/-- The search of the B-tree from a node down, at most n nodes deep; a deeper tree is a translation error (log 14). -/
def walkNode (rd : Nat → Nat) (die a : Nat) : Nat → Nat → Bool → Walk × List (Nat × Nat)
  | 0, _, _ => (.fail 3, [])
  | n + 1, node, bad =>
    if Config.ppaLimit ≤ node then (.fail 3, [])
    else
      let h := rd node
      let bad := bad || h / 256 != 0 || rd (node + 8) != 0 || rd (node + 16) != 0 || rd (node + 24) != 0
      let es := (List.range (fld h 1 7)).map (fun i => node + 32 + 32 * i)
      let (w, l) :=
        if bit h 0 then
          match es.find? (fun e => rd e ≤ a && a < rd (e + 8)) with
          | some e => walkLeaf rd die a e bad
          | none => (.fail 2, [])
        else
          match (es.filter (fun e => rd e ≤ a)).foldl (fun (b : Option Nat) e => match b with
            | some f => if rd f ≤ rd e then some e else b
            | none => some e) none with
          | some e => walkNode rd die a n (rd (e + 8)) bad
          | none => (.fail 2, [])
      (w, (node, 4096) :: l)

/-- A walk of the tables of a die, steps 2 to 5 of R279 in their order (R277, R278). -/
def State.walkBy (s : State) (rd : Nat → Nat) (die asid a : Nat) : Walk × List (Nat × Nat) :=
  let r := mread s.mem ((s.die die).htbase + 16 * asid) 16
  if !bit r 0 then (.fail 2, [])
  else walkNode rd die a 64 (fld r 12 40 * 4096) (fld r 1 11 != 0 || fld r 52 76 != 0)
/-- A walk of the tables as they stand in memory. -/
def State.walk (s : State) (die asid a : Nat) : Walk := (s.walkBy s.tab8 die asid a).1
/-- Eight bytes of a table as a walker of the die reads them: from the walk cache where it holds them (R279). -/
def State.walkRead (s : State) (die asid p : Nat) : Nat :=
  match (s.die die).wc.find? (fun w => w.1 = asid && w.2.1 ≤ p && p < w.2.1 + w.2.2.1) with
  | some w => mread w.2.2.2 p 8
  | none => s.tab8 p
/-- What a walk has read, put into the walk cache: nothing, or all of it, beside or in place of what was there, as a free choice
decides, since neither its size nor its replacement is given (log 88). -/
def State.walkKeep (s : State) (die asid : Nat) (l : List (Nat × Nat)) : State :=
  let (n, s) := s.choose 3
  let new := l.map (fun p => (asid, p.1, p.2, s.mem.filter (fun c => p.1 ≤ c.1 && c.1 < p.1 + p.2)))
  s.modDie die (fun k => { k with wc := if n = 0 then k.wc else if n = 1 then k.wc ++ new else new })

/-- The place of an address by the translation cache of its home die (R279). -/
def State.tcPlace (s : State) (die asid a : Nat) : Option Nat :=
  ((s.die die).tc.find? (fun t => t.1 = asid && t.2.1 ≤ a && a < t.2.1 + t.2.2.1)).map (fun t => t.2.2.2 + (a - t.2.1))

/-! ### What a home does with a request (R279 step 6 on) -/

/-- Sync polls of a word that was written are answered again (R344). -/
def State.notify (s : State) (p n : Nat) : State :=
  (s.reqs.filter (fun r => r.want = .sync && r.served && !r.dead &&
      (match r.p with | some q => q < p + n && p < q + 16 | none => false))).foldl
    (fun (s : State) r => s.answer { r with data := s.mergedRead r.g.ent.key (r.p.getD 0) 16, wts := (s.line (r.p.getD 0)).wts }) s

/-- The time of a write at the home (R339): `stamp` for a hardware-coherent line or a sync word. -/
def State.stampLine (s : State) (p lt : Nat) (stamp : Bool) : State :=
  s.modLine p (fun l => if stamp then { l with wts := max (l.rts + 1) lt, rts := max (l.rts + 1) lt } else l)

/-- One write at the home: merges of the elements it writes, bytes, tag, time and polls (R282, R316, R339). Bytes lie within
one line. -/
def State.homeWrite (s : State) (key p n v be lt : Nat) (stamp : Bool) : State :=
  -- a line with an error is written whole: what its elements still had to merge is written over (R411)
  let s := if (s.line p).err then { s with upds := s.upds.filter (fun u => !u.meets p n) } else s
  let s := ((s.ckCopy p).mergeWhere (Upd.hit p be)).placeWrite key p n v be
  let s := (s.modLine p (fun l => { l with tag := l.tag + 1#32, err := false })).stampLine p lt stamp
  s.notify p n

/-- A copy enters an 8-way L1 of 256 sets (R273; the line number modulo 256 is the set: DESIGN CHOICE, log 5). A free choice
decides which copy of a full set leaves, among those that need not stay; where all must stay it is not kept. -/
def admitL1 (l : List CLine) (choice : Nat) (stays : CLine → Bool) (c : CLine) : List CLine × Option CLine :=
  let rest := l.filter (fun d => !(d.asid = c.asid && d.va = c.va))
  let set := rest.filter (fun d => d.va / 128 % 256 = c.va / 128 % 256)
  if set.length < 8 then (rest ++ [c], none)
  else
    let free := set.filter (fun d => !stays d)
    match free[choice % max 1 free.length]? with
    | some v => (dropLine rest v.asid v.va ++ [c], some v)
    | none => (rest, none)

/-- A copy enters a cache of at most `cap` lines; a free choice decides which unpinned copy, if any, leaves: the spec gives
no replacement rule (log 5). -/
def admitLine (l : List CLine) (cap choice : Nat) (c : CLine) : List CLine × Option CLine :=
  let rest := l.filter (fun d => !(d.asid = c.asid && d.va = c.va))
  let free := rest.filter (fun d => d.pins = 0 && d.wpend = 0)
  let n := free.length
  let k := choice % (n + 1)
  let out := if k < n then free[k]? else if cap ≤ rest.length then free.head? else none
  match out with
  | some v => (dropLine rest v.asid v.va ++ [c], some v)
  | none => (rest ++ [c], none)

/-- Traffic of a request for a hardware-coherent cached line at place p crosses two bridges through the hearth die (R17,
R273). -/
def State.crosses (s : State) (r : Req) (p : Nat) : Bool :=
  p < Config.ppaLimit && r.g.ent.coh = 0 && (r.g.ent.cache = 1 || r.g.ent.cache = 2) && viaHearth (s.agentDie r.who) (p / 2 ^ 37)

/-- A copy kept in the hearth cache, 512 MiB of lines by place and key (R273, R276). -/
def State.hearthKeep (s : State) (c : CLine) : State :=
  let (n, s) := s.choose 4194305
  { s with hearth := (admitLine s.hearth 4194304 n c).1 }

/-- A read served at the home, or on its way by a hearth copy whose lease covers it: the line, a lease, and the line as the
asking context sees it (R276, R282, R316, R339). -/
def State.homeRead (s : State) (r : Req) (p : Nat) : State :=
  let p0 := lineOf p * 128
  let l := s.line p
  let ops := match r.who with | .ctx c x => s.ownOps c x r.serial r.g.ent.asid r.g.va | _ => []
  -- what the asking cluster has written and its slice still holds for the home (R340): the line as the cluster sees it
  let out (of_ : Agent → Bool) : List (Nat × Nat) := match r.who.clus with
    | some k => if r.g.ent.cache = 1 || r.g.ent.cache = 2 then s.clusterOut k r.id r.g.ent.asid r.g.va of_ else []
    | none => []
  let (mine, others) := (out (fun _ => true), out (fun w => w != r.who))
  let held := s.stillHeld r
  let near := if s.crosses r p && !ops.any EntryKind.isRed then findLine s.hearth r.g.ent.key p0 else none
  match near.filter (fun h => r.lt ≤ h.lease) with
  | some h =>
    let data := h.data.toNat
    s.answer { r with data := outOver mine data, own := ownOver ops (patchLine (outOver others data) r.held held), wts := h.wts,
                      lease := h.lease }
  | none =>
    if l.err then s.answer { r with code := 5 }
    else
      let e := max r.lt l.wts + 8
      let s := if r.g.ent.coh = 0 then s.modLine p (fun l => { l with rts := max l.rts e }) else s
      let w := if r.g.ent.coh = 0 then l.wts else 0
      let data := s.mergedRead r.g.ent.key p0 128
      let own := match r.who with
        | .ctx c _ =>
          let put (s : State) (d be : Nat) : State := (s.mergeWhere (Upd.hit p0 be)).placeWrite r.g.ent.key p0 128 d be
          let base := others.foldl (fun (s : State) w => put s w.1 w.2) s
          (ops.foldl (State.applyOwn p0 r.g.ent.key (coreDie c)) (put base r.held held.toNat)).mergedRead r.g.ent.key p0 128
        | _ => data
      let s := if s.crosses r p then
          s.hearthKeep { asid := r.g.ent.key, va := p0, data := BitVec.ofNat 1024 data, valid := BitVec.allOnes 128, ent := r.g.ent,
                         lease := e, wts := l.wts }
        else s
      s.answer { r with data := outOver mine data, own := own, wts := w, lease := e }

/-- An earlier write-back of the same cluster to the same line has still to be applied: one that was refused is asked again (R282;
the order DEDUCED from R337, log 15). -/
def State.backOut (s : State) (r : Req) : Bool :=
  s.reqs.any (fun q => q.id < r.id && (!q.served || q.code = 1 || q.code = 2) && q.who.clus.isSome && q.who.clus = r.who.clus && q.g.ent.asid = r.g.ent.asid
    && q.g.va / 128 = r.g.va / 128 && (match q.want with | .wback _ _ => true | _ => false))

/-- Puts a step at the head of what moves next. -/
def State.now_ (s : State) (i : Instr) (a : Arg) : State := { s with agenda := .ev i a :: s.agenda }

/-- Service of a request whose place is known (R279 steps 6 and 7, R406). -/
def State.serve (s : State) (id p : Nat) : State :=
  match s.req? id with
  | none => s
  | some r =>
    let r := { r with p := some p, walking := false }
    let s := s.modReq id (fun _ => r)
    if r.g.ent.key != 0 && !s.mg.keys.any (fun k => k.1 = r.g.ent.key) then s.answer { r with code := 4 }
    else if s.backOut r then
      (s.modReq id (fun r => { r with p := none })).sched_ (s.pcyc + 1) (lineRoute r.who r.g.va 0) .homeRequest { id := id }
    else
      -- a write or atomic into an undrained unit waits for its copy into the reserve, or until the unit is drained; contributions
      -- are writes (R354)
      let writes := match r.want with
        | .grant _ | .write _ _ | .amo _ _ _ _ _ | .cas _ _ _ _ _ | .rel _ _ _ | .wback _ _ | .red _ _ | .fred _ _ => true
        | _ => false
      match (if writes then s.ckUnit p else none) with
      | some u =>
        if s.ckRoom u then
          let (k, s) := (s.ckCopy p).choose 256
          s.sched_ (s.pcyc + 1 + k) 0 .homeRequest { id := id, flag := true }
        else { s with ck := { s.ck with waits := s.ck.waits ++ [(id, u)] } }
      | none =>
        match r.want with
        | .read _ | .prefetch _ => s.homeRead r p
        | .pin =>
          let s := s.modLine p (fun l => { l with pins := match r.who.clus with
            | some k => if l.pins.contains k then l.pins else l.pins ++ [k] | none => l.pins })
          s.homeRead r p
        | .grant _ => s.answer r
        | .sync => if (s.line p).err then s.answer { r with code := 5 }
                   else s.answer { r with data := s.mergedRead r.g.ent.key p 16, wts := (s.line p).wts }
        | .rel _ _ _ => s.now_ .syncWordWrite { id := id }
        | .red _ _ | .fred _ _ => s.now_ .reductionApply { id := id }
        | _ => s.now_ .homeWriteApply { id := id }

/-- The die a request is served on. -/
def State.reqHome (s : State) (r : Req) : Nat := (s.homeDie r.g.ent r.g.va).getD 9

/-- The steps that a function puts at the head of what moves next follow one another in the order in which it put them there. -/
def State.inOrder (s : State) (f : State → State) : State :=
  let t := f { s with agenda := [] }
  { t with agenda := t.agenda.reverse ++ s.agenda }

/-- Requests that wait at a home for translation, in order of arrival: those whose line is free are served, or given a
walker while one is free (R279). -/
def State.runWaiting (s : State) (die : Nat) : State :=
  let go := fun (acc : State × List (Nat × Nat)) (id : Nat) =>
    let (s, busy) := acc
    match s.req? id with
    | none => (s.modDie die (fun d => { d with walkQ := d.walkQ.filter (· != id) }), busy)
    | some r =>
      let k := (r.g.ent.asid, r.g.va / 128)
      if busy.contains k || (s.die die).walkers.contains id then (s, k :: busy)
      else match (match r.p with | some p => some p | none => s.tcPlace die r.g.ent.asid r.g.va) with
        | some p => ((s.modDie die (fun d => { d with walkQ := d.walkQ.filter (· != id) })).serve id p, busy)
        | none =>
          if (s.die die).walkers.length < 512 then
            ((s.modDie die (fun d => { d with walkers := d.walkers ++ [id] })).after 0 0 .translationWalk
              { id := id, n := die }, k :: busy)
          else (s, k :: busy)
  ((s.die die).walkQ.foldl go (s, [])).1

/-! ### Lines that a tile names (R223, R284) -/

/-- Bytes of a weight row or of an activation vector of stream format f (R213). -/
def mxRowBytes : Nat → Nat
  | 0x10 => 288
  | 0x11 => 384
  | 0x12 => 512
  | _ => 256
/-- A line that a tile not yet compared names through the tongs (R223, R284). -/
def State.tongsHolds (s : State) (k asid va : Nat) : Bool :=
  (List.range 4).any (fun i =>
    let e := (s.core (4 * k + i)).eng0
    (e.tile.toList ++ e.closed).any (fun t => t.beats.any (fun b =>
      let hit : Src → Nat → Bool := fun src n => match src with
        | .tongs v a => a = asid && v < va / 128 * 128 + 128 && va / 128 * 128 < v + n
        | _ => false
      match b.2 with
      | .wload _ _ f _ src => hit src (mxRowBytes f)
      | .afeed _ _ _ _ wf _ srcs => srcs.any (fun q => hit q.2.src (mxRowBytes (wf.getD 0)))
      | _ => false)))
/-- The cluster that holds up writes to the line at place p: it has pinned the line, and a tile of it that is not yet compared names
its copy, by whatever address the writer names it (R274, R284). -/
def State.pinnedBy (s : State) (p : Nat) : Option Nat :=
  (s.line p).pins.find? (fun k => (s.clu k).l2.any (fun l => 0 < l.pins
    && (match l.home with | some q => lineOf q = lineOf p | none => false) && s.tongsHolds k l.asid l.va))
/-- The step that applies a write at its home. -/
def Req.applyEv (r : Req) : Instr :=
  match r.want with
  | .rel _ _ _ => .syncWordWrite
  | .red _ _ | .fred _ _ => .reductionApply
  | _ => .homeWriteApply
/-- A write to the line waits: a tile not yet compared names it, and a pin holds it (R284). -/
def State.pinWaits (s : State) (k asid va : Nat) : Bool :=
  s.tongsHolds k asid va
    && (s.clu k).l2.any (fun l => l.asid = asid && l.va = va / 128 * 128 && 0 < l.pins)

/-! ### Cache lines given up and written back (R273, R319) -/

/-- Dirty bytes of a line leave for the home; what is on its way from there is older. -/
def State.writeBack (s : State) (who : Agent) (launch task sendNo : Nat) (e : Lrt) (va data be : Nat) : State :=
  let s := match who.clus with | some k => s.noFill k e.asid va | none => s
  s.ask { id := 0, who := who, launch := launch, task := task, sendNo := sendNo,
          g := { va := va / 128 * 128, len := 128, ent := e }, want := .wback data be }

/-- Requests the spill queue of a slice holds: its 1 MiB at one line of 128 B each (R275; the size of a request in it DESIGN CHOICE,
log 98). -/
def spillMax : Nat := 8192
/-- Something from outside its cluster reaches a slice: it joins the input buffer, or the spill queue while that holds anything or the
buffer is full; none where both are full (R275). -/
def State.enterSlice (s : State) (k id : Nat) : Option State :=
  let u := s.clu k
  if u.spill.isEmpty && u.inbuf.length < 64 then some (s.modClu k (fun u => { u with inbuf := u.inbuf ++ [id] }))
  else if u.spill.length < spillMax then some (s.modClu k (fun u => { u with spill := u.spill ++ [id] }))
  else none
/-- The slice whose input buffer an answer goes through: that of a home about a line that the slice may keep (R275). -/
def Req.slice (r : Req) : Option Nat :=
  if (r.g.ent.cache = 1 || r.g.ent.cache = 2) && !r.hit && r.code = 0 then match r.want with
    | .read _ | .prefetch _ | .pin | .write _ _ | .wback _ _ => r.who.clus
    | _ => none
  else none

/-- A copy put into the slice of a core's cluster. A dirty line that leaves goes home with its valid bytes (R273). -/
def State.fillL2 (s : State) (c : Nat) (l : CLine) : State :=
  let (n, s) := s.choose 65537
  let (ls, out) := admitLine (s.clu (clusOf c)).l2 65536 n l
  let s := s.modClu (clusOf c) (fun k => { k with l2 := ls })
  match out with
  | some v => if v.dirty = 0#128 then s else s.writeBack (.evict c) v.launch 0 0 v.ent v.va v.data.toNat v.valid.toNat
  | none => s
/-- Dirty bytes of an L1 line written to the slice (R273, R319, R343). -/
def State.toSlice (s : State) (c : Nat) (l : CLine) : State :=
  let t : CLine := (findLine (s.clu (clusOf c)).l2 l.asid l.va).getD { l with valid := 0#128, dirty := 0#128, lease := 0, wts := 0 }
  s.fillL2 c { t with data := BitVec.ofNat 1024 (patchLine t.data.toNat l.data.toNat l.dirty), valid := t.valid ||| l.dirty,
                      dirty := t.dirty ||| l.dirty, launch := l.launch }
/-- An L1 line that may not leave its set: its slice copy may not change while a tile not yet compared names it (R284). -/
def State.l1Stays (s : State) (c : Nat) (l : CLine) : Bool := l.dirty != 0#128 && s.pinWaits (clusOf c) l.asid l.va
/-- A line has, or can have, a place in the L1 of a core. -/
def State.l1Room (s : State) (c asid va : Nat) : Bool :=
  let set := (s.core c).l1.filter (fun d => d.va / 128 % 256 = va / 128 % 256)
  (findLine set asid va).isSome || set.length < 8 || set.any (fun d => !s.l1Stays c d)
/-- A copy put into the L1 of a core. A dirty line that leaves is written to the slice, so that no older copy there outlives
it (R273; DEDUCED from R337 and R359, log 15). -/
def State.fillL1 (s : State) (c : Nat) (l : CLine) : State :=
  let (n, s) := s.choose 8
  let (ls, out) := admitL1 (s.core c).l1 n (s.l1Stays c) l
  let s := s.modCore c (fun k => { k with l1 := ls })
  match out with
  | some v => if v.dirty = 0#128 then s else s.toSlice c v
  | none => s

/-- A fetched line put into a copy: bytes d and the lease of its reply. Of a copy that hardware keeps coherent the newer one is
kept whole; of another one the bytes in `stay` (R273, R339, R340). -/
def CLine.refill (k : CLine) (d lease wts : Nat) (stay : BitVec 128) : CLine :=
  if k.ent.coh = 0 then
    if lease < k.lease && k.valid = BitVec.allOnes 128 then k
    else { k with data := BitVec.ofNat 1024 d, valid := BitVec.allOnes 128, lease := lease, wts := wts }
  else { k with data := BitVec.ofNat 1024 (patchLine d k.data.toNat stay), valid := BitVec.allOnes 128, lease := max k.lease lease,
                wts := wts }

/-- A fetched line kept in the caches (R273). The reply holds the cluster's writes up to its asking; a line that the cluster has
written since is not kept, and of a write-pending copy, which serves whatever its lease, only the bytes stay that the home has still
to apply: the reply may hold later writes of the others than those of the copy (R337, R340; log 15). A pinned copy is as its home
keeps it (R284). -/
def State.keepLine (s : State) (c : Nat) (r : Req) (l1 : Bool) : State :=
  let e := r.g.ent
  let va := r.g.va / 128 * 128
  let k := clusOf c
  let new : CLine := { asid := e.asid, va := va, data := 0#1024, valid := 0#128, ent := e, launch := r.launch }
  let out := outBytes (s.clusterOut k s.nextId e.asid va (fun _ => true))
  let old := findLine (s.clu k).l2 e.asid va
  if e.cache != 1 && e.cache != 2 then s
  else if r.nofill then
    match old with
    | some l => if e.coh = 0 && 0 < l.wpend && l.pins = 0 then
        s.modClu k (fun u => { u with l2 := u.l2.map (fun (m : CLine) =>
          if m.asid = e.asid && m.va = va then { m with valid := m.valid &&& out } else m) })
      else s
    | none => s
  else
    let l := old.getD new
    let k2 := if l.pins != 0 && l.home.isSome then l else l.refill r.data r.lease r.wts (l.dirty ||| (l.valid &&& out))
    let s := s.fillL2 c k2
    if l1 && e.cache = 1 then
      let m := (findLine (s.core c).l1 e.asid va).getD new
      s.fillL1 c (m.refill k2.data.toNat k2.lease k2.wts m.dirty)
    else s

/-- A slice holds the line write-pending (R340). -/
def State.linePending (s : State) (k asid va : Nat) : Bool :=
  match findLine (s.clu k).l2 asid va with | some l => 0 < l.wpend | none => false
/-- The line of an atomic may leave the caches of its cluster: it is not write-pending (R340), and its dirty bytes are not held
up by a tile (R284). -/
def State.lendOk (s : State) (c : Nat) (e : Lrt) (va : Nat) : Bool :=
  (e.cache != 1 && e.cache != 2) || (!s.linePending (clusOf c) e.asid va
    && !(match findLine (s.core c).l1 e.asid va with | some l => s.l1Stays c l | none => false))
/-- The line of an atomic leaves the caches of its cluster, dirty bytes going home before it (R312, R354; log 15). A pinned
line stays pinned. -/
def State.lendLine (s : State) (c : Nat) (e : Lrt) (va : Nat) : State :=
  let s := s.noFill (clusOf c) e.asid va
  let s := match findLine (s.core c).l1 e.asid va with
    | some l => if l.dirty = 0#128 then s else s.toSlice c l
    | none => s
  let s := match findLine (s.clu (clusOf c)).l2 e.asid va with
    | some l => if l.dirty = 0#128 then s else s.writeBack (.evict c) l.launch 0 0 e va l.data.toNat l.valid.toNat
    | none => s
  let here (d : CLine) : Bool := d.asid = e.asid && d.va = va / 128 * 128
  let left (d : CLine) : CLine := if here d then { d with dirty := 0#128, lease := 0 } else d
  let s := s.modClu (clusOf c) (fun k => { k with l2 := (k.l2.map left).filter (fun d => !here d || d.pins != 0) })
  (List.range 4).foldl (fun s k => if e.coh = 0 || clusOf c * 4 + k = c then
    s.modCore (clusOf c * 4 + k) (fun k => { k with l1 := dropLine k.l1 e.asid va }) else s) s

end Sys2Proof.Machine
end

