-- ==== Sys2Proof/Machine/Scalar.lean ====
section
/-! DEFINITION. Control, scalar integer, scalar floating-point and ring instructions (R151 to R178). -/

namespace Sys2Proof.Machine

/-! ### Shared forms -/

/-- An instruction that writes one scalar result at a fixed distance (R140, R151). -/
def alu (i : Instr) (dist : Nat) (d : SReg) (f : State → Dword) (s : State) : Out :=
  perform i none .go (fun s => s.resS dist d (f s)) s

/-- A scalar floating-point instruction of fixed distance 4 (R140, R170). -/
def fpOp (i : Instr) (okTy : Bool) (d : SReg) (f : State → Nat) (s : State) : Out :=
  perform i (need okTy formatFault) .go (fun s => s.resS 4 d (BitVec.ofNat 64 (f s))) s

/-- Clocks within which FDIV and FSQRT land (R453). -/
def fdivRange : Ty → Nat × Nat
  | .f64 => (16, 48)
  | .f32 => (10, 24)
  | _ => (8, 16)

/-- FDIV and FSQRT: the mode trap in exposed mode, else a variable-latency result (R54, R171, R453). -/
def fpVar (i : Instr) (ty : Ty) (d : SReg) (f : State → Nat) (s : State) : Out :=
  perform i (if !isFP ty then some formatFault else need (!s.exposed) modeTrap) .go
    (fun s => s.varRange (fdivRange ty).1 (fdivRange ty).2 (.s d (BitVec.ofNat 64 (f s)))) s

/-- Value of scalar operand n in format ty (R170). -/
def State.fs (s : State) (ty : Ty) (n : SReg) : Num := operand ty s.exposed ((s.rs n).toNat % 2 ^ ty.width)

/-- A branch to a target, with the first clock after issue in which the next bundle may issue (R153, R154). -/
def State.branch (s : State) (target : Int) (delay : Nat) : State := s.effect (.branch target delay)

/-! ### Changing the position (R152 to R154) -/

/-- BR (R152). -/
def execBr (off : BitVec 24) (s : State) : Out :=
  perform (.br off) none .go (fun s => s.branch (s.iss.pos + off.toInt) 2) s

/-- The condition of BRC (R152). -/
def Cond.holds (c : Cond) (a b : Dword) : Bool :=
  match c with
  | .eq => a = b
  | .ne => a != b
  | .lt => a.slt b
  | .ge => !a.slt b
  | .ltu => a.ult b
  | .geu => !a.ult b

/-- BRC (R152, R154). -/
def execBrc (cond : Cond) (a b : SReg) (off : BitVec 24) (s : State) : Out :=
  perform (.brc cond a b off) none .go
    (fun s => if Cond.holds cond (s.rs a) (s.rs b) then s.branch (s.iss.pos + off.toInt) 2 else s) s

/-- CALL: the link is the position after the bundle (R152). -/
def execCall (a : SReg) (off : BitVec 24) (s : State) : Out :=
  perform (.call a off) none .go
    (fun s => (s.resS 1 a (BitVec.ofNat 64 s.iss.next)).branch (s.iss.pos + off.toInt) 2) s

/-- RET (R152). The target is s[a] read unsigned (R151). -/
def execRet (a : SReg) (s : State) : Out :=
  perform (.ret a) none .go (fun s => s.branch (s.rs a).toNat 3) s

/-- JMPI (R152, R153). s[a] is read unsigned and the sum is unbounded (DEDUCED, log 11). -/
def execJmpi (a : SReg) (imm : BitVec 28) (s : State) : Out :=
  perform (.jmpi a imm) none .go (fun s => s.branch ((s.rs a).toNat + imm.toInt) 3) s

/-! ### Hardware loops (R155 to R159) -/

/-- The first clear bit of word w from bit b on, at most 64. -/
def firstClear (w : Nat) : Nat → Nat → Nat
  | 0, b => b
  | n + 1, b => if 64 ≤ b then b else if w / 2 ^ b % 2 = 1 then firstClear w n (b + 1) else b

/-- The scan of a skip map from idx (R156): the iteration reached and the words read. rd j a is the word at a, the j-th
word of this scan. A word at or above 2^22 is no further word: nothing is read there (DESIGN CHOICE, log 95). -/
def scanMap (rd : Nat → Nat → Nat) (map cnt : Nat) : Nat → Nat → Nat → Nat × Nat
  | 0, idx, j => (idx, j)
  | n + 1, idx, j =>
    if cnt ≤ idx then (idx, j)
    else
      let a := map + 8 * (idx / 64)
      -- a byte at or above 2^22 reads as 0
      if Config.spadBytes ≤ a then (idx, j)
      else
        let b := firstClear (rd j a) 65 (idx % 64)
        let idx' := min cnt (idx / 64 * 64 + b)
        if b < 64 then (idx', j + 1) else scanMap rd map cnt n idx' (j + 1)

/-- What a skip-map scan by context x of core c that begins in this clock is to find as the banks stand: word j is read at t + 2 + j
(R156). The cells of the words it finds are declared with it; `State.scanReads` reads each word at its clock. -/
def State.scan (s : State) (c x map cnt idx : Nat) : Nat × Nat :=
  scanMap (fun j a => s.spBytes c x a (s.now c + 2 + j) 8) map cnt (Config.spadBytes / 8 + 1) idx 0

/-- Uses of the words a scan read (R156). -/
def State.scanUses (s : State) (c map idx n : Nat) : List Use :=
  (List.range n).map (fun j =>
    let a := map + 8 * (idx / 64 + j)
    { bank := bankOf a, row := rowOf a, clk := s.now c + 2 + j, read := true })


/-- Loop-stack trap (R132, R157). -/
def loopTrap : Trap := { cause := 0x0C }

/-- The checks of LOOP and LOOPI (R155, R386). -/
def State.loopCheck (s : State) (b : SReg) (cnt : Nat) (sk : Bool) : Option Trap :=
  if s.cx.r.ls.length = 6 then some loopTrap
  else if !sk then none
  else if s.exposed then some modeTrap
  else
    let map := (s.rs b).toNat
    if Config.spadBytes ≤ map || map % 8 != 0 then some (alignTrap map)
    else
      let r := s.scan s.iss.core s.iss.ctx map cnt 0
      need ((List.range r.2).all (fun j => s.bankOk s.iss.core s.cx.launch (bankOf (map + 8 * j)))) (bankTrap map)

/-- The effect of LOOP and LOOPI (R155, R156). -/
def State.enterLoop (s : State) (b : SReg) (cnt : Nat) (len : BitVec 16) (md sk : Bool) : State :=
  let start := s.iss.next
  let stop := start + len.toNat
  let map := if sk then (s.rs b).toNat else 0
  let r := if sk then s.scan s.iss.core s.iss.ctx map cnt 0 else (0, 0)
  let e : LoopEntry := { idx := 0, cnt := cnt, start := start, stop := stop, md := md, sk := sk, map := map }
  let s := if sk then State.declare { s with iss := { s.iss with loop := some e } } (s.scanUses s.iss.core map 0 r.2) else s
  -- a loop that reads no word of its map, for want of an iteration, waits for none (DEDUCED, log 11)
  let s := if r.2 != 0 then { s with iss := { s.iss with extra := max s.iss.extra (r.2 + 3) } } else s
  if cnt ≤ r.1 then s.branch stop 1
  else s.effect (.push { e with idx := r.1 })

/-- LOOP (R155). -/
def execLoop (a b : SReg) (len : BitVec 16) (md sk : Bool) (s : State) : Out :=
  perform (.loop a b len md sk) (s.loopCheck b (s.rs a).toNat sk) .go
    (fun s => s.enterLoop b (s.rs a).toNat len md sk) s

/-- LOOPI (R155). -/
def execLoopi (n : BitVec 10) (b : SReg) (len : BitVec 16) (md sk : Bool) (s : State) : Out :=
  perform (.loopi n b len md sk) (s.loopCheck b n.toNat sk) .go (fun s => s.enterLoop b n.toNat len md sk) s

/-- LEXIT (R157). -/
def execLexit (s : State) : Out :=
  perform .lexit (need (s.cx.r.ls.length != 0) loopTrap) .go (fun s => s.effect .pop) s

/-- li_N (R158). -/
def Regs.li (r : Regs) (n : Nat) : Nat :=
  match r.ls[n]? with
  | none => 0
  | some e => if e.md then e.cnt - 1 - e.idx else e.idx

/-- LIDX (R158). -/
def execLidx (d : SReg) (n : Fin 6) (s : State) : Out :=
  alu (.lidx d n) 1 d (fun s => BitVec.ofNat 64 (s.cx.r.li n.val)) s

/-! ### Traps, system registers, mode and time (R160 to R164) -/

/-- TRAP (R160): a notice is held in one entry, for which it waits; an abort is the user-trap cause. -/
def execTrap (imm : BitVec 28) (s : State) : Out :=
  perform (.trap imm) (need (!imm.getLsbD 27) { cause := 0x13, info := imm.toNat })
    (waitFor (s.cc.occupied s.iss.ctx < Config.ctxEntries && s.cc.cb.length < Config.commitEntries))
    (fun s => s.addEntry .none (.notice imm.toNat s.iss.pos)) s

/-- DIETOPOd (R24). -/
def Die.topo (d : Die) : Dword :=
  BitVec.ofNat 64 (d.clen.toNat + (if d.dfail then 2 ^ 12 else 0) + d.mxen.toNat * 2 ^ 16)
/-- DIECOREd (R91). -/
def Die.cores (d : Die) : Dword := BitVec.ofNat 64 (d.cen.toNat + d.spare.toNat * 2 ^ 48)

/-- The bits of the boolean list, first lowest. -/
def bits : List Bool → Nat
  | [] => 0
  | b :: l => Bool.code b + 2 * bits l

/-- SLOTMAP of a core as context x reads it; a half-core maps both V slots to its group and reads vdup = 1 (R93). -/
def State.slotmap (s : State) (c x : Nat) : Dword :=
  let k := s.core c
  if k.split then BitVec.ofNat 64 (k.slotmap.toNat % 4 + (if s.half c x = 1 then 12 else 0) + 16)
  else k.slotmap.setWidth 64

/-- The power state of a half of a core (R95). -/
def Core.pow (k : Core) (half : Nat) : Power := if half = 1 then k.pow1 else k.pow0
/-- It changed. -/
def Core.modPow (k : Core) (half : Nat) (f : Power → Power) : Core :=
  if half = 1 then { k with pow1 := f k.pow1 } else { k with pow0 := f k.pow0 }

/-- The request of a core, or of a half-core in split mode (R97): the largest hdr.hcap among launches with a task placed
on it. -/
def State.request (s : State) (c half : Nat) : Nat :=
  let on := ((s.core c).ctxs.filter (fun p => p.2.status != .free && s.half c p.1 = half)).map (·.2.launch)
    ++ ((s.core c).starts.filter (fun p => s.half c p.1 = half)).map (·.2.1)
  on.foldl (fun m l => max m (s.launch l).hcap) 0

/-- PWRGNT of a core or half-core (R98). -/
def State.pwrgnt (s : State) (c half : Nat) : Dword :=
  BitVec.ofNat 64 (((s.core c).pow half).grant % 256 + s.request c half % 256 * 2 ^ 8 + ((s.core c).pow half).spent % 256 * 2 ^ 16)

/-- Group g is degraded: it holds a retired data bank (R259). -/
def Spad.degraded (sp : Spad) (g : Nat) : Bool := (List.range 4).any (fun m => sp.ret.getLsbD (g + 8 * m))
/-- Group g is rebuilding at clock y (R263). -/
def Spad.rebuilding (sp : Spad) (g y : Nat) : Bool :=
  match sp.reb.find? (fun p => p.1 = g) with
  | some (_, w) => w ≤ y && y < w + 4096
  | none => false

/-- SPSTAT (R264). -/
def State.spstat (s : State) (c : Nat) : Dword :=
  let sp := (s.core c).sp
  BitVec.ofNat 64 (sp.ret.toNat + bits ((List.range 8).map sp.degraded) * 2 ^ 32 + sp.unp.toNat * 2 ^ 40
    + bits ((List.range 8).map (fun g => sp.rebuilding g (s.now c))) * 2 ^ 48 + min sp.rep 255 * 2 ^ 56)

/-- CBSTAT as context x of core c reads it (R265). -/
def State.cbstat (s : State) (c x : Nat) : Dword :=
  let k := s.core c
  let cov := k.cb.any (fun e => e.ctx = x && e.st = .held && e.covered (s.ctx c x))
  BitVec.ofNat 64 (k.occupied x + k.cb.length * 2 ^ 7 + (if cov then 2 ^ 16 else 0))

/-- MXSTAT (R231). -/
def Core.mxstat (k : Core) : Dword :=
  BitVec.ofNat 64 (min k.asus 255 + min k.ssus 255 * 2 ^ 8 + min k.trip 255 * 2 ^ 16 + Bool.code k.aret * 2 ^ 24
    + Bool.code k.sret * 2 ^ 25)

/-- Undrained units and reserve units in use (R406, R408): units of a stack below its reserve. -/
def Ckpt.status (k : Ckpt) : Dword :=
  let undr := if k.open_ then 15938368 - k.drained.length else 0
  let full := (List.range 16).any (fun st => 52428 ≤ (k.copies.filter (fun p => p.1 / 1048576 = st)).length)
  BitVec.ofNat 64 (Bool.code k.open_ + (if full then 2 else 0) + undr * 4 + k.copies.length * 2 ^ 26)

/-- PLACE (R431). -/
def State.placeReg (s : State) (c x : Nat) : Dword :=
  BitVec.ofNat 64 (x + s.half c x * 2 ^ 3 + coreK c * 2 ^ 4 + coreClus c * 2 ^ 6 + coreDie c * 2 ^ 10
    + s.mg.chip.toNat * 2 ^ 13)

/-- The value of a system register as the issuing context reads it (R161, R431). -/
def State.sysreg (s : State) (n : Nat) : Dword :=
  let (c, x) := (s.iss.core, s.iss.ctx)
  let l := s.cl
  if n = 0x0000 then s.cx.wid
  else if n = 0x0001 then s.placeReg c x
  else if n = 0x0002 then BitVec.ofNat 64 (l.gin + l.ltag * 2 ^ 32)
  else if n = 0x0003 then BitVec.ofNat 64 (l.h 64 42 + l.nf * 2 ^ 42)
  else if n = 0x0004 then BitVec.ofNat 64 s.pcyc
  else if n = 0x0030 then s.cx.r.srseed.setWidth 64
  else if n = 0x0031 then BitVec.ofNat 64 (Bool.code s.cx.r.ilk + 2 * s.cx.r.rm.code)
  else if 0x0100 ≤ n && n ≤ 0x0107 then (s.die (n - 0x0100)).topo
  else if 0x0108 ≤ n && n ≤ 0x010F then (s.die (n - 0x0108)).cores
  else if n = 0x0110 then s.slotmap c x
  else if n = 0x0111 then s.pwrgnt c (s.half c x)
  else if n = 0x0112 then s.cc.mxstat
  else if n = 0x0114 then s.spstat c
  else if n = 0x0115 then s.cbstat c x
  else if n = 0x0116 then BitVec.ofNat 64 (s.cx.r.gtag.toNat + s.cx.r.gcnt.toNat * 2 ^ 32)
  else if n = 0x0117 then BitVec.ofNat 64 (s.lt c x % 2 ^ 48)
  else if n = 0x0118 then
    BitVec.ofNat 64 (bits ((List.range 32).map (fun b => tget s.cc.sp.owner b 0 = s.cx.launch)) + l.bank * 2 ^ 32)
  else if n = 0x0119 then s.mg.chip.setWidth 64
  else if n = 0x011A then s.ck.status
  else tget s.mg.caps n 0#64

/-- SYSRD (R161, R431). -/
def execSysrd (d : SReg) (r : BitVec 16) (s : State) : Out :=
  alu (.sysrd d r) 1 d (fun s => s.sysreg r.toNat) s

/-- SYSWR (R161): SRSEED reseeds the generators for later bundles; every other register ignores it. -/
def execSyswr (a : SReg) (r : BitVec 16) (s : State) : Out :=
  perform (.syswr a r) none .go
    (fun s => if r = 0x0030#16 then s.effect (.reseed ((s.rs a).setWidth 32)) else s) s

/-- The issuing context has no result of an earlier bundle in flight: none of fixed distance, no variable-latency result
(R141), no row of an AFEED (R216). -/
def State.quiet (s : State) : Bool :=
  (s.cx.r.flight ++ s.cx.split).all (fun f => f.serial = s.iss.serial) && s.cx.pend.all (fun p => p.2.1 = s.iss.serial)
    && !(s.cc.eng (s.half s.iss.core s.iss.ctx)).rows.any (fun r => r.ctx = s.iss.ctx)

/-- FPMODE (R142, R163). -/
def execFpmode (d : SReg) (rm : Rm) (m : ModeSel) (s : State) : Out :=
  let toExposed := m = .exposed && s.cx.r.ilk
  perform (.fpmode d rm m)
    (need (!(m = .exposed && s.cx.r.ls.any (·.sk))) modeTrap)
    (waitFor (!toExposed || s.quiet))
    (fun s =>
      let r := s.cx.r
      let s := s.resS 1 d (BitVec.ofNat 64 (Bool.code r.ilk + 2 * r.rm.code))
      s.effect (.fpctl (if rm = .ctx then r.rm else rm)
        (match m with | .keep => r.ilk | .exposed => false | .interlocked => true))) s

/-- CYC (R164). -/
def execCyc (d : SReg) (s : State) : Out := alu (.cyc d) 1 d (fun s => BitVec.ofNat 64 s.pcyc) s

/-! ### Scalar integer (R165 to R169) -/

/-- An RI immediate, sign-extended (R151). -/
def sx (imm : BitVec 28) : Dword := imm.signExtend 64

/-- Signed quotient toward zero (R166). -/
def divS (a b : Dword) : Dword := if b = 0#64 then BitVec.allOnes 64 else BitVec.ofInt 64 (Int.tdiv a.toInt b.toInt)
/-- Unsigned quotient (R166). -/
def divU (a b : Dword) : Dword := if b = 0#64 then BitVec.allOnes 64 else BitVec.ofNat 64 (a.toNat / b.toNat)
/-- Signed remainder, with the sign of a (R166). -/
def remS (a b : Dword) : Dword := if b = 0#64 then a else BitVec.ofInt 64 (Int.tmod a.toInt b.toInt)
/-- Unsigned remainder (R166). -/
def remU (a b : Dword) : Dword := if b = 0#64 then a else BitVec.ofNat 64 (a.toNat % b.toNat)
/-- Leading zero bits (R168). -/
def clz64 (a : Dword) : Nat := if a = 0#64 then 64 else 63 - Nat.log2 a.toNat
/-- Trailing zero bits among the bits from k on (R168). -/
def ctzFrom (a : Dword) : Nat → Nat → Nat
  | 0, k => k
  | n + 1, k => if a.getLsbD k then k else ctzFrom a n (k + 1)
/-- Number of 1 bits among the low n (R168). -/
def popcount (x : Nat) : Nat → Nat
  | 0 => 0
  | n + 1 => x % 2 + popcount (x / 2) n
/-- The field of BFX (R169). -/
def bfxVal (a : Dword) (p w : Nat) (sgn : Bool) : Dword :=
  let x := a.toNat / 2 ^ p % 2 ^ w
  BitVec.ofInt 64 (if sgn && 2 ^ (w - 1) ≤ x then (x : Int) - 2 ^ w else x)
/-- The insertion of BFI (R169). -/
def bfiVal (d a : Dword) (p w : Nat) : Dword :=
  BitVec.ofNat 64 (d.toNat - d.toNat / 2 ^ p % 2 ^ w * 2 ^ p + a.toNat % 2 ^ w * 2 ^ p)

/-- ADD (R165). -/
def execAdd (d a b : SReg) (s : State) : Out := alu (.add d a b) 1 d (fun s => s.rs a + s.rs b) s

/-- SUB (R165). -/
def execSub (d a b : SReg) (s : State) : Out := alu (.sub d a b) 1 d (fun s => s.rs a - s.rs b) s

/-- AND (R165). -/
def execAnd (d a b : SReg) (s : State) : Out := alu (.and d a b) 1 d (fun s => s.rs a &&& s.rs b) s

/-- OR (R165). -/
def execOr (d a b : SReg) (s : State) : Out := alu (.or d a b) 1 d (fun s => s.rs a ||| s.rs b) s

/-- XOR (R165). -/
def execXor (d a b : SReg) (s : State) : Out := alu (.xor d a b) 1 d (fun s => s.rs a ^^^ s.rs b) s

/-- SHL (R165). -/
def execShl (d a b : SReg) (s : State) : Out := alu (.shl d a b) 1 d (fun s => s.rs a <<< ((s.rs b).toNat % 64)) s

/-- SHR (R165). -/
def execShr (d a b : SReg) (s : State) : Out := alu (.shr d a b) 1 d (fun s => s.rs a >>> ((s.rs b).toNat % 64)) s

/-- SRA (R165). -/
def execSra (d a b : SReg) (s : State) : Out := alu (.sra d a b) 1 d (fun s => (s.rs a).sshiftRight ((s.rs b).toNat % 64)) s

/-- MUL (R166). -/
def execMul (d a b : SReg) (s : State) : Out := alu (.mul d a b) 3 d (fun s => s.rs a * s.rs b) s

/-- MULH (R166). -/
def execMulh (d a b : SReg) (s : State) : Out := alu (.mulh d a b) 3 d (fun s => BitVec.ofInt 64 ((s.rs a).toInt * (s.rs b).toInt / 2 ^ 64)) s

/-- MULHU (R166). -/
def execMulhu (d a b : SReg) (s : State) : Out := alu (.mulhu d a b) 3 d (fun s => BitVec.ofNat 64 ((s.rs a).toNat * (s.rs b).toNat / 2 ^ 64)) s

/-- DIV (R166). -/
def execDiv (d a b : SReg) (s : State) : Out := alu (.div d a b) 12 d (fun s => divS (s.rs a) (s.rs b)) s

/-- DIVU (R166). -/
def execDivu (d a b : SReg) (s : State) : Out := alu (.divu d a b) 12 d (fun s => divU (s.rs a) (s.rs b)) s

/-- REM (R166). -/
def execRem (d a b : SReg) (s : State) : Out := alu (.rem d a b) 12 d (fun s => remS (s.rs a) (s.rs b)) s

/-- REMU (R166). -/
def execRemu (d a b : SReg) (s : State) : Out := alu (.remu d a b) 12 d (fun s => remU (s.rs a) (s.rs b)) s

/-- MIN (R167). -/
def execMin (d a b : SReg) (s : State) : Out := alu (.min d a b) 1 d (fun s => if (s.rs b).slt (s.rs a) then s.rs b else s.rs a) s

/-- MAX (R167). -/
def execMax (d a b : SReg) (s : State) : Out := alu (.max d a b) 1 d (fun s => if (s.rs a).slt (s.rs b) then s.rs b else s.rs a) s

/-- MINU (R167). -/
def execMinu (d a b : SReg) (s : State) : Out := alu (.minu d a b) 1 d (fun s => if (s.rs b).ult (s.rs a) then s.rs b else s.rs a) s

/-- MAXU (R167). -/
def execMaxu (d a b : SReg) (s : State) : Out := alu (.maxu d a b) 1 d (fun s => if (s.rs a).ult (s.rs b) then s.rs b else s.rs a) s

/-- SEQ (R167). -/
def execSeq (d a b : SReg) (s : State) : Out := alu (.seq d a b) 1 d (fun s => if s.rs a = s.rs b then 1#64 else 0#64) s

/-- SLT (R167). -/
def execSlt (d a b : SReg) (s : State) : Out := alu (.slt d a b) 1 d (fun s => if (s.rs a).slt (s.rs b) then 1#64 else 0#64) s

/-- SLTU (R167). -/
def execSltu (d a b : SReg) (s : State) : Out := alu (.sltu d a b) 1 d (fun s => if (s.rs a).ult (s.rs b) then 1#64 else 0#64) s

/-- SEL (R167). -/
def execSel (d a b : SReg) (s : State) : Out := alu (.sel d a b) 1 d (fun s => if s.rs d != 0#64 then s.rs a else s.rs b) s

/-- ADDI (R165). -/
def execAddi (d a : SReg) (imm : BitVec 28) (s : State) : Out :=
  alu (.addi d a imm) 1 d (fun s => s.rs a + sx imm) s

/-- ANDI (R165). -/
def execAndi (d a : SReg) (imm : BitVec 28) (s : State) : Out :=
  alu (.andi d a imm) 1 d (fun s => s.rs a &&& sx imm) s

/-- ORI (R165). -/
def execOri (d a : SReg) (imm : BitVec 28) (s : State) : Out :=
  alu (.ori d a imm) 1 d (fun s => s.rs a ||| sx imm) s

/-- XORI (R165). -/
def execXori (d a : SReg) (imm : BitVec 28) (s : State) : Out :=
  alu (.xori d a imm) 1 d (fun s => s.rs a ^^^ sx imm) s

/-- SHLI (R165). -/
def execShli (d a : SReg) (n : Fin 64) (s : State) : Out := alu (.shli d a n) 1 d (fun s => s.rs a <<< n.val) s

/-- SHRI (R165). -/
def execShri (d a : SReg) (n : Fin 64) (s : State) : Out := alu (.shri d a n) 1 d (fun s => s.rs a >>> n.val) s

/-- SRAI (R165). -/
def execSrai (d a : SReg) (n : Fin 64) (s : State) : Out := alu (.srai d a n) 1 d (fun s => (s.rs a).sshiftRight n.val) s

/-- CLZ (R168). -/
def execClz (d a : SReg) (s : State) : Out :=
  alu (.clz d a) 1 d (fun s => BitVec.ofNat 64 (clz64 (s.rs a))) s

/-- CTZ (R168). -/
def execCtz (d a : SReg) (s : State) : Out :=
  alu (.ctz d a) 1 d (fun s => BitVec.ofNat 64 (ctzFrom (s.rs a) 64 0)) s

/-- POPC (R168). -/
def execPopc (d a : SReg) (s : State) : Out :=
  alu (.popc d a) 1 d (fun s => BitVec.ofNat 64 (popcount (s.rs a).toNat 64)) s

/-- LI (R168). -/
def execLi (d : SReg) (imm : BitVec 32) (sh : Fin 4) (s : State) : Out :=
  alu (.li d imm sh) 1 d (fun _ => imm.setWidth 64 <<< (16 * sh.val)) s

/-- BFX (R169). -/
def execBfx (d a : SReg) (p : Fin 64) (w : BitVec 7) (sgn : Bool) (s : State) : Out :=
  alu (.bfx d a p w sgn) 1 d (fun s => bfxVal (s.rs a) p.val w.toNat sgn) s

/-- BFI (R169). -/
def execBfi (d a : SReg) (p : Fin 64) (w : BitVec 7) (s : State) : Out :=
  alu (.bfi d a p w) 1 d (fun s => bfiVal (s.rs d) (s.rs a) p.val w.toNat) s

/-! ### Scalar floating point (R170 to R174) -/

/-- FADD (R171). -/
def execFadd (ty : Ty) (d a b : SReg) (rm : Rm) (sat : Bool) (s : State) : Out :=
  fpOp (.fadd ty d a b rm sat) (isFP ty) d
    (fun s => finish ty (s.rm rm) sat s.exposed (sumOf [s.fs ty a, s.fs ty b] (s.rm rm))) s

/-- FSUB (R171). -/
def execFsub (ty : Ty) (d a b : SReg) (rm : Rm) (sat : Bool) (s : State) : Out :=
  fpOp (.fsub ty d a b rm sat) (isFP ty) d
    (fun s => finish ty (s.rm rm) sat s.exposed (sumOf [s.fs ty a, (s.fs ty b).neg] (s.rm rm))) s

/-- FMUL (R171). -/
def execFmul (ty : Ty) (d a b : SReg) (rm : Rm) (sat : Bool) (s : State) : Out :=
  fpOp (.fmul ty d a b rm sat) (isFP ty) d
    (fun s => finish ty (s.rm rm) sat s.exposed ((s.fs ty a).mul (s.fs ty b))) s

/-- FFMA: the product and c form one exact sum (R171). -/
def execFfma (ty : Ty) (d a b c : SReg) (rm : Rm) (sat : Bool) (s : State) : Out :=
  fpOp (.ffma ty d a b c rm sat) (isFP ty) d
    (fun s => finish ty (s.rm rm) sat s.exposed (sumOf [(s.fs ty a).mul (s.fs ty b), s.fs ty c] (s.rm rm))) s

/-- FDIV (R171). -/
def execFdiv (ty : Ty) (d a b : SReg) (rm : Rm) (sat : Bool) (s : State) : Out :=
  fpVar (.fdiv ty d a b rm sat) ty d (fun s => finish ty (s.rm rm) sat s.exposed ((s.fs ty a).div (s.fs ty b))) s

/-- FSQRT (R171). -/
def execFsqrt (ty : Ty) (d a : SReg) (rm : Rm) (sat : Bool) (s : State) : Out :=
  fpVar (.fsqrt ty d a rm sat) ty d (fun s => finish ty (s.rm rm) sat s.exposed (s.fs ty a).sqrt) s

/-- FMIN (R172). -/
def execFmin (ty : Ty) (d a b : SReg) (rm : Rm) (sat : Bool) (s : State) : Out :=
  fpOp (.fmin ty d a b rm sat) (isFP ty) d (fun s => encodeF ty (satF ty sat (minMax false (s.fs ty a) (s.fs ty b)))) s

/-- FMAX (R172). -/
def execFmax (ty : Ty) (d a b : SReg) (rm : Rm) (sat : Bool) (s : State) : Out :=
  fpOp (.fmax ty d a b rm sat) (isFP ty) d (fun s => encodeF ty (satF ty sat (minMax true (s.fs ty a) (s.fs ty b)))) s

/-- FCMP: predicate codes 8 to 0xD take the format fault (R173). -/
def execFcmp (ty : Ty) (d a b : SReg) (p : Ty) (s : State) : Out :=
  fpOp (.fcmp ty d a b p) (isFP ty && p.code < 8) d
    (fun s => if predicate p.code (s.fs ty a) (s.fs ty b) then 1 else 0) s

/-- A converted value in a 64-bit register: sign-extended for I formats, zero-extended otherwise (R170). -/
def extend64 (t : Ty) (x : Nat) : Dword := if isSigned t then BitVec.ofInt 64 (intValue t x) else BitVec.ofNat 64 x

/-- FCVT (R174). -/
def execFcvt (ty t2 : Ty) (d a : SReg) (rm : Rm) (sat : Bool) (s : State) : Out :=
  alu (.fcvt ty t2 d a rm sat) 4 d
    (fun s => extend64 t2 (convert ty t2 (s.rm rm) sat s.exposed (s.rs a).toNat)) s

/-! ### Ring handles (R143 to R145, R175 to R178) -/

/-- Slots of a handle: C = h.cnt + 1 (R143). -/
def Ring.c (r : Ring) : Nat := r.cnt + 1
/-- Bytes of a slot (R143). -/
def Ring.slotBytes (r : Ring) : Nat := 64 * 2 ^ r.k
/-- Scratchpad byte address of slot n (R143). -/
def Ring.slotAddr (r : Ring) (n : Nat) : Nat := r.base * 64 + n * r.slotBytes
/-- The fill pointer (R143). -/
def Ring.fp (r : Ring) : Nat := (r.cp + r.fill) % r.c
/-- Bits [63:0] of a handle (R40, R143). -/
def Ring.low (r : Ring) : Nat :=
  Bool.code r.v + r.k * 2 + r.base * 2 ^ 4 + r.cnt * 2 ^ 20 + r.fmt * 2 ^ 30 + r.fill * 2 ^ 35
/-- The handle of 64 bits, its pointers zero (R40, R175). -/
def Ring.ofLow (w : Nat) : Ring :=
  { v := bit w 0, k := fld w 1 3, base := fld w 4 16, cnt := fld w 20 10, fmt := fld w 30 5, fill := fld w 35 11 }
/-- Stream format codes that name a format (R44, R45). -/
def streamFmtOk (f : Nat) : Bool := f ≤ 0x0D || (0x10 ≤ f && f ≤ 0x12)
/-- The value meets R40. -/
def Ring.valid (w : Nat) : Bool :=
  let r := Ring.ofLow w
  if !r.v then w % 2 ^ 64 = 0
  else r.k != 7 && streamFmtOk r.fmt && fld w 46 18 = 0 && r.fill ≤ r.c && r.base * 64 + r.c * r.slotBytes ≤ 2 ^ 22

/-- Handle n of the issuing context as of issue (R145). -/
def State.rh (s : State) (h : HReg) : Ring := s.cx.r.h[h.val]
/-- A ring condition: an interlocked context waits for it, an exposed one takes the ring trap (R144). -/
def State.ringWait (s : State) (c : Bool) : Wait := if c then .go else if s.exposed then .trap ringTrap else .hold

/-- HSET (R175). -/
def execHset (h : HReg) (a : SReg) (s : State) : Out :=
  let w := (s.rs a).toNat
  perform (.hset h a) none
    ((s.ringWait ((s.rh h).eng = 0)).and (if Ring.valid w then .go else .trap { cause := 0x04 }))
    (fun s => s.effect (.ringSet h (Ring.ofLow (s.rs a).toNat))) s

/-- n := s[a] + imm, both signed (R176). -/
def State.advance (s : State) (a : SReg) (imm : BitVec 28) : Int := (s.rs a).toInt + imm.toInt

/-- HADVF (R144, R176). -/
def execHadvf (h : HReg) (a : SReg) (imm : BitVec 28) (s : State) : Out :=
  let r := s.rh h
  let n := s.advance a imm
  perform (.hadvf h a imm) (need (r.v && 0 ≤ n && n ≤ r.c) ringTrap)
    (if n = 0 then .go else s.ringWait (r.eng = 0 && r.fill + n ≤ r.c))
    (fun s => s.effect (.ring h (s.advance a imm) 0 0)) s

/-- HADVC (R144, R176). -/
def execHadvc (h : HReg) (a : SReg) (imm : BitVec 28) (s : State) : Out :=
  let r := s.rh h
  let n := s.advance a imm
  perform (.hadvc h a imm) (need (r.v && 0 ≤ n && n ≤ r.c) ringTrap)
    (if n = 0 then .go else s.ringWait (n ≤ r.fill))
    (fun s => s.effect (.ring h (-s.advance a imm) (s.advance a imm) 0)) s

/-- Free slots, C − h.fill − h.eng; below 0 where one bundle has reserved more slots than were free (R144, R177). -/
def Ring.room (r : Ring) : Int := (r.c : Int) - r.fill - r.eng

/-- What HQRY returns (R177). -/
def Ring.query (r : Ring) (sel : Nat) : Nat :=
  if !r.v then 0
  else match sel with
    | 0 => r.fill
    | 1 => r.cp
    | 2 => r.eng
    | 3 => r.fp
    | 4 => (r.room % 2 ^ 64).toNat
    | 5 => r.slotAddr r.cp
    | 6 => r.slotAddr r.fp
    | _ => r.low

/-- HQRY (R177). -/
def execHqry (d : SReg) (h : HReg) (sel : Fin 8) (s : State) : Out :=
  alu (.hqry d h sel) 1 d (fun s => BitVec.ofNat 64 ((s.rh h).query sel.val)) s

/-- HWAIT (R178). -/
def execHwait (h : HReg) (a : SReg) (n : BitVec 27) (free : Bool) (s : State) : Out :=
  let r := s.rh h
  let m : Int := (s.rs a).toInt + n.toNat
  perform (.hwait h a n free) (need (r.v && 0 ≤ m && m ≤ r.c) ringTrap)
    (waitFor (if free then m ≤ r.room else m ≤ r.fill)) id s

end Sys2Proof.Machine
end

