-- ==== Sys2Proof/Machine/Memory.lean ====
section
/-! DEFINITION. The M-slot instructions (R288 to R319). -/

namespace Sys2Proof

/-- Bytes of a size code (R289). -/
def Size.bytes : Size → Nat
  | .b | .bs => 1
  | .h | .hs => 2
  | .w | .ws => 4
  | .d => 8
/-- The loaded value of w bytes (R289). -/
def Size.ext (z : Size) (v : Nat) : Dword :=
  match z with
  | .bs | .hs | .ws => BitVec.ofInt 64 (Machine.signedW (v % 2 ^ (8 * z.bytes)) z.bytes)
  | _ => BitVec.ofNat 64 (v % 2 ^ (8 * z.bytes))
/-- Size codes a scalar store accepts (R293). -/
def Size.store : Size → Bool
  | .b | .h | .w | .d => true
  | _ => false
/-- Size codes AMO, CAS and SAMO accept (R311). -/
def Size.atomic : Size → Bool
  | .w | .d | .ws => true
  | _ => false

/-- Number of the core a place names (R301). -/
def Place.num (p : Place) : Nat := Machine.coreNo p.die.val p.clus.val p.core.val
/-- The wider of two scopes. -/
def Scope.max (a b : Scope) : Scope := if a.code < b.code then b else a

namespace Machine

/-! ### Sizes, lanes and chunks -/

/-- Byte enables of chunk i of a vector register under a mask (R294): 4 bits for each active lane. -/
def laneBe (k : KWord) (i : Nat) : Nat := pack 4 (fun l => if k.getLsbD l then 15 else 0) 16 (16 * i)
/-- The bits of the active lanes below byte n. -/
def laneEn (k : KWord) (n : Nat) : VWord :=
  BitVec.ofNat 16384 (pack 32 (fun l => if k.getLsbD l && 4 * l < n then 2 ^ 32 - 1 else 0) 512 0)
/-- Chunk i of a register. -/
def chunkOf (v : VWord) (i : Nat) : Chunk := BitVec.ofNat 512 (v.toNat / 2 ^ (512 * i))

/-- The first failure of a list of checks, in order. -/
def firstTrap : List (Option Trap) → Option Trap
  | [] => none
  | some t :: _ => some t
  | none :: l => firstTrap l
/-- A check made after another has passed. -/
def thenCheck (a b : Option Trap) : Option Trap := match a with | some t => some t | none => b

/-! ### Releases and acquires of single words (R343, R345, R353, R354) -/

/-- Every write of a task below send number sn that has left its core meets the write column of R343 for a scope. -/
def State.performedOf (s : State) (c x task sn : Nat) (sc : Scope) : Bool :=
  let out := s.reqs.filter (fun r => r.who = .ctx c x && r.task = task && r.sendNo < sn && (match r.want with
    | .write _ _ | .wback _ _ | .red _ _ | .fred _ _ => true | _ => false))
  let remote := s.msgs.any (fun m => m.core = c && m.ctx = x && m.task = task && m.sendNo < sn)
  match sc with
  | .core => true
  | .clus => !remote && !out.any (fun r => r.g.ent.home != 4
      && (r.g.ent.coh != 0 || (r.g.ent.cache != 1 && r.g.ent.cache != 2) || r.g.ent.home = 3
        || (match r.want with | .red _ _ | .fred _ _ => true | _ => false)))
  | .die | .pkg => !remote && !out.any (fun r => r.g.ent.home != 4)
      && !(s.clu (clusOf c)).l2.any (fun l => 0 < l.wpend && l.ent.home != 4)
  | .sys => !remote && out.isEmpty && !(s.clu (clusOf c)).l2.any (fun l => 0 < l.wpend)

/-- Every earlier write of a context that has left the core meets the write column of R343 for a scope. -/
def State.performed (s : State) (c x : Nat) (sc : Scope) : Bool :=
  s.performedOf c x (s.ctx c x).task (s.ctx c x).sendNo sc

/-- The wait of an implicit quench point that is a release at sc: the drain, then the writes performed (R256, R353,
R354; log 16). -/
def State.waitRelease (s : State) (sc : Scope) : Wait :=
  s.waitDrain.and (if s.performed s.iss.core s.iss.ctx sc then .go else .ack)

/-- The time of the last release on a tagged word, as it stands at t + 2, raises the acquirer's (R353). -/
def State.acquireWord (s : State) (a : Nat) : State :=
  s.raiseLt s.iss.core s.iss.ctx (s.wordTime s.iss.core a (s.now s.iss.core + 2))

/-! ### The issuing core's scratchpad (R293 to R297) -/

/-- A read of n bytes at ea within a chunk, at t + 2: its use, and the DRAIN entries that give it bytes (R245, R255). -/
def State.readsWord (s : State) (ea n : Nat) : State :=
  (s.declare [s.useAt ea 2 true]).markRead s.iss.core s.iss.ctx (ea / 64 * 64) (beAt ea n) (s.now s.iss.core + 2)

/-- SLD (R293). -/
def execSld (d a : SReg) (sz : Size) (imm : BitVec 24) (s : State) : Out :=
  perform (.sld d a sz imm) (s.spCheck (s.spEa a imm) sz.bytes sz.bytes) .go (fun s =>
    let ea := (s.spEa a imm).toNat
    let s := s.readsWord ea sz.bytes
    s.result 4 (.s d (sz.ext (s.spRead ea sz.bytes))) true [(0, ea / 64 * 64, s.now s.iss.core + 2)]) s

/-- SST (R293). -/
def execSst (d a : SReg) (sz : Size) (imm : BitVec 24) (s : State) : Out :=
  perform (.sst d a sz imm)
    (thenCheck (need sz.store formatFault) (s.spCheck (s.spEa a imm) sz.bytes sz.bytes)) (s.room 1) (fun s =>
    let ea := (s.spEa a imm).toNat
    (s.declare [s.useAt ea 2 true]).addEntry .none
      (.spad (ea / 64 * 64) (BitVec.ofNat 512 ((s.rs d).toNat % 2 ^ (8 * sz.bytes) * 2 ^ (8 * (ea % 64))))
        (BitVec.ofNat 64 ((2 ^ sz.bytes - 1) * 2 ^ (ea % 64))) false)) s

/-- Chunk addresses and the clocks after issue in which they are used. -/
abbrev Chunks := List (Int × Nat)

/-- The checks of R292 on each chunk, in increasing number (R291). -/
def State.chunkCheck (s : State) (l : Chunks) : Option Trap := firstTrap (l.map (fun p => s.spCheck p.1 64 64))

/-- The 32 chunks from ea on (R294). -/
def rowChunks (ea : Int) : Chunks := (List.range 32).map (fun (i : Nat) => (ea + 64 * (i : Int), 2 + i / 8))

/-- The uses of a list of chunks. -/
def State.chunkUses (s : State) (l : Chunks) : List Use := l.map (fun p => s.useAt p.1.toNat p.2 true)

/-- A vector load from chunks: active lanes below byte n receive their bytes (R294, R297). -/
def State.loadChunks (s : State) (d : VReg) (k : KReg) (dist n : Nat) (l : Chunks) : State :=
  let (c, x) := (s.iss.core, s.iss.ctx)
  let s := s.declare (s.chunkUses l)
  let s := l.zipIdx.foldl (fun s p =>
    s.markRead c x p.1.1.toNat (laneBe (s.rk k) p.2 % 2 ^ (n - min n (64 * p.2))) (s.now c + p.1.2)) s
  let v := (l.zipIdx.map (fun p => s.chunk c x p.1.1.toNat (s.now c + p.1.2) * 2 ^ (512 * p.2))).foldl (· + ·) 0
  s.result dist (.v d (BitVec.ofNat 16384 v) (laneEn (s.rk k) n)) true
    (l.zipIdx.map (fun p => (p.2, p.1.1.toNat, s.now c + p.1.2)))

/-- The entries of a vector store to chunks: data and byte enables by chunk; `order` sorts them by address where several
chunks may name one address (R296). -/
def State.storeChunks (s : State) (d : VReg) (k : KReg) (n : Nat) (l : Chunks) : State :=
  let v := s.rv d
  let be (i : Nat) : Nat := laneBe (s.rk k) i % 2 ^ (n - min n (64 * i))
  let es := (l.zipIdx.map (fun p => (p.1.1.toNat, p.2))).filter (fun p => be p.2 != 0)
  let es := sortBy (fun p q => p.1 < q.1 || (p.1 = q.1 && p.2 ≤ q.2)) es
  let stripe := es.length = 32 && es.all (fun p => be p.2 = 2 ^ 64 - 1) && (es.headD (1, 0)).1 % 2048 = 0
    && es.zipIdx.all (fun p => p.1.1 = (es.headD (1, 0)).1 + 64 * p.2)
  es.foldl (fun s p => s.addEntry .none (.spad p.1 (chunkOf v p.2) (BitVec.ofNat 64 (be p.2)) stripe))
    (s.declare (s.chunkUses l))

/-- Entries a masked vector store of n bytes adds. -/
def chunkCount (k : KWord) (n : Nat) : Nat := ((List.range ((n + 63) / 64)).filter (fun i => laneBe k i != 0)).length

/-- VSLD (R294). -/
def execVsld (d : VReg) (a : SReg) (k : KReg) (imm : BitVec 24) (s : State) : Out :=
  perform (.vsld d a k imm) (s.chunkCheck (rowChunks (s.spEa a imm))) .go
    (fun s => s.loadChunks d k 7 2048 (rowChunks (s.spEa a imm))) s

/-- VSST (R294). -/
def execVsst (d : VReg) (a : SReg) (k : KReg) (imm : BitVec 24) (s : State) : Out :=
  perform (.vsst d a k imm) (s.chunkCheck (rowChunks (s.spEa a imm))) (s.room (chunkCount (s.rk k) 2048))
    (fun s => s.storeChunks d k 2048 (rowChunks (s.spEa a imm))) s

/-- The chunks of a strided access (R295). -/
def State.strideChunks (s : State) (a b : SReg) (imm : BitVec 24) : Chunks :=
  (List.range 32).map (fun (i : Nat) => (s.spEa a imm + (i : Int) * (s.rs b).toInt, 2 + i / 8))

/-- The checks of a strided access: each chunk, then the stride (R291, R295). -/
def State.strideCheck (s : State) (a b : SReg) (imm : BitVec 24) : Option Trap :=
  thenCheck (s.chunkCheck (s.strideChunks a b imm))
    (need ((s.rs b).toInt % 64 = 0 && (s.rs b).toInt / 64 % 8 != 0) (alignTrap ((s.spEa a imm) % 2 ^ 64).toNat))

/-- VSLDS (R295). -/
def execVslds (d : VReg) (a b : SReg) (k : KReg) (imm : BitVec 24) (s : State) : Out :=
  perform (.vslds d a b k imm) (s.strideCheck a b imm) .go
    (fun s => s.loadChunks d k 7 2048 (s.strideChunks a b imm)) s

/-- VSSTS (R295). -/
def execVssts (d : VReg) (a b : SReg) (k : KReg) (imm : BitVec 24) (s : State) : Out :=
  perform (.vssts d a b k imm) (s.strideCheck a b imm) (s.room (chunkCount (s.rk k) 2048))
    (fun s => s.storeChunks d k 2048 (s.strideChunks a b imm)) s

/-- The placement of R296: each chunk takes the first clock with fewer than 8 chunks and none in its bank; none when a
chunk finds no clock up to t + 6. -/
def packChunks : List Int → Chunks → Option Chunks
  | [], done => some done
  | a :: rest, done =>
    match (List.range 5).find? (fun j =>
        let here := done.filter (fun p => p.2 = 2 + j)
        here.length < 8 && !here.any (fun p => bankOf p.1.toNat = bankOf a.toNat)) with
    | some j => packChunks rest (done ++ [(a, 2 + j)])
    | none => none

/-- Addresses of a gather or scatter (R296). -/
def State.gatherAddrs (s : State) (a : SReg) (b : VReg) (imm : BitVec 24) : List Int :=
  (List.range 32).map (fun i => s.spEa a imm + elem 32 (s.rv b).toNat i)

/-- The checks of a gather or scatter: each chunk, then the packing (R296). -/
def State.gatherCheck (s : State) (l : List Int) : Option Trap :=
  thenCheck (s.chunkCheck (l.map (fun a => (a, 2))))
    (need (packChunks l []).isSome { cause := 0x08, sub := 1 })

/-- VSGATH (R296). -/
def execVsgath (d : VReg) (a : SReg) (b : VReg) (k : KReg) (imm : BitVec 24) (s : State) : Out :=
  perform (.vsgath d a b k imm) (s.gatherCheck (s.gatherAddrs a b imm)) .go
    (fun s => s.loadChunks d k 8 2048 ((packChunks (s.gatherAddrs a b imm) []).getD [])) s

/-- VSSCAT (R296). -/
def execVsscat (d : VReg) (a : SReg) (b : VReg) (k : KReg) (imm : BitVec 24) (s : State) : Out :=
  perform (.vsscat d a b k imm) (s.gatherCheck (s.gatherAddrs a b imm)) (s.room (chunkCount (s.rk k) 2048))
    (fun s => s.storeChunks d k 2048 ((packChunks (s.gatherAddrs a b imm) []).getD [])) s

/-- The chunks of the first bytes of a ring slot (R297). -/
def Ring.chunks (r : Ring) (slot : Nat) : Chunks :=
  (List.range (min 32 (r.slotBytes / 64))).map (fun i => (((r.slotAddr slot + 64 * i : Nat) : Int), 2 + i / 8))

/-- VHLD (R297). -/
def execVhld (d : VReg) (h : HReg) (k : KReg) (off : BitVec 10) (s : State) : Out :=
  let r := s.rh h
  let l := r.chunks ((r.cp + off.toNat) % r.c)
  perform (.vhld d h k off) (thenCheck (need r.v ringTrap) (s.chunkCheck l)) (s.ringWait (off.toNat < r.fill))
    (fun s => s.loadChunks d k 7 (min r.slotBytes 2048) l) s

/-- VHST (R297). -/
def execVhst (d : VReg) (h : HReg) (k : KReg) (off : BitVec 10) (s : State) : Out :=
  let r := s.rh h
  let l := r.chunks ((r.cp + r.fill + off.toNat) % r.c)
  let n := min r.slotBytes 2048
  perform (.vhst d h k off) (thenCheck (need r.v ringTrap) (s.chunkCheck l))
    ((s.ringWait (r.eng = 0 && r.fill + off.toNat < r.c)).and (s.room (chunkCount (s.rk k) n)))
    (fun s => s.storeChunks d k n l) s

/-! ### Full and empty words (R298 to R300) -/

/-- The check of a tagged form (R292). -/
def State.tagCheck (s : State) (a : SReg) (imm : BitVec 24) : Option Trap := s.spCheck (s.spEa a imm) 8 8
/-- The tag as it will stand at t + 2 (R298). -/
def State.tagAt (s : State) (ea : Int) : Bool :=
  s.isFull s.iss.core ea.toNat (s.now s.iss.core + 2)
/-- A write and tag change of the word at ea, made at t + 2, with the time a release leaves there (R256, R353). -/
def State.tagWrite (s : State) (ea : Nat) (data : Dword) (write : Bool) (tag : Option Bool) (rel : Option Nat := none) : State :=
  (s.declare [s.useAt ea 2 false]).directWrite s.iss.core
    { id := 0, clk := s.now s.iss.core + 2, addr := ea / 64 * 64, chg := some (s.iss.core, s.iss.ctx),
      data := BitVec.ofNat 512 (data.toNat * 2 ^ (8 * (ea % 64))),
      be := if write then BitVec.ofNat 64 (255 * 2 ^ (ea % 64)) else 0#64,
      tset := if tag.isSome then BitVec.ofNat 8 (2 ^ (ea % 64 / 8)) else 0#8, tval := tag.getD false, rel := rel }

/-- LDF (R299). -/
def execLdf (d a : SReg) (sc : Scope) (imm : BitVec 24) (s : State) : Out :=
  perform (.ldf d a sc imm) (s.tagCheck a imm) (waitFor (s.tagAt (s.spEa a imm))) (fun s =>
    let ea := (s.spEa a imm).toNat
    let s := s.readsWord ea 8
    (s.acquireWord ea).varIn 3 (.s d (BitVec.ofNat 64 (s.spRead ea 8))) true) s

/-- LDFE (R299). -/
def execLdfe (d a : SReg) (sc : Scope) (imm : BitVec 24) (s : State) : Out :=
  perform (.ldfe d a sc imm) (s.tagCheck a imm) (s.waitDrain.and (waitFor (s.tagAt (s.spEa a imm)))) (fun s =>
    let ea := (s.spEa a imm).toNat
    let v := s.spRead ea 8
    ((s.acquireWord ea).tagWrite ea 0#64 false (some false)).varIn 3 (.s d (BitVec.ofNat 64 v)) true) s

/-- STE (R299). -/
def execSte (d a : SReg) (sc : Scope) (imm : BitVec 24) (s : State) : Out :=
  perform (.ste d a sc imm) (s.tagCheck a imm) ((s.waitRelease sc).and (waitFor (!s.tagAt (s.spEa a imm)))) (fun s =>
    let ea := (s.spEa a imm).toNat
    let s := s.seesAcks s.iss.core s.iss.ctx sc
    s.tagWrite ea (s.rs d) true (some true) (some (s.lt s.iss.core s.iss.ctx))) s

/-- STF (R299). -/
def execStf (d a : SReg) (sc : Scope) (imm : BitVec 24) (s : State) : Out :=
  perform (.stf d a sc imm) (s.tagCheck a imm) (s.waitRelease sc) (fun s =>
    let ea := (s.spEa a imm).toNat
    let s := s.seesAcks s.iss.core s.iss.ctx sc
    s.tagWrite ea (s.rs d) true (some true) (some (s.lt s.iss.core s.iss.ctx))) s

/-- TAGRD (R299). -/
def execTagrd (d a : SReg) (imm : BitVec 24) (s : State) : Out :=
  perform (.tagrd d a imm) (s.tagCheck a imm) .go (fun s =>
    let ea := s.spEa a imm
    (s.declare [s.useAt ea.toNat 2 true]).varIn 3 (.s d (if s.tagAt ea then 1#64 else 0#64)) true) s

/-- TAGWR (R299). -/
def execTagwr (d a : SReg) (imm : BitVec 24) (s : State) : Out :=
  perform (.tagwr d a imm) (s.tagCheck a imm) s.waitDrain
    (fun s => s.tagWrite (s.spEa a imm).toNat 0#64 false (some ((s.rs d).getLsbD 0))) s

/-! ### Scratchpads of other cores (R301 to R304) -/

/-- The cores named may be reached by the issuing task (R302). -/
def State.placeOk (s : State) (die clus k : Nat) (half : Bool) : Bool :=
  let c := coreNo die clus k
  let d := s.die die
  bit s.cl.hdmask die && !d.dfail && d.clen.getLsbD clus && d.cen.getLsbD (4 * clus + k) && (!half || (s.core c).split)

/-- The checks of a remote form at its destination: the place, then range and alignment (R301, R302). -/
def remoteCheck (ok : Bool) (ea : Int) (n al : Nat) : Option Trap :=
  if !ok then some (lrtTrap (ea % 2 ^ 64).toNat)
  else if ea < 0 || (Config.spadBytes : Int) < ea + n then some (spadTrap (ea % 2 ^ 64).toNat)
  else need (ea.toNat % al = 0) (alignTrap ea.toNat)

/-- ea of a remote form (R301). -/
def State.remoteEa (s : State) (a : SReg) (off : Int) : Int := ((s.rs a).toNat : Int) + off

/-- Whether the place may be named (R302). -/
def State.plOk (s : State) (p : Place) : Bool := s.placeOk p.die.val p.clus.val p.core.val p.half

/-- RSST (R303). -/
def execRsst (d a : SReg) (sz : Size) (pl : Place) (off : BitVec 13) (s : State) : Out :=
  let ea := s.remoteEa a off.toInt
  perform (.rsst d a sz pl off)
    (thenCheck (need sz.store formatFault) (remoteCheck (s.plOk pl) ea sz.bytes sz.bytes)) (s.room 1) (fun s =>
    let ea := ea.toNat
    s.addEntry .none (.remote [pl.num] (ea / 64 * 64)
      (BitVec.ofNat 512 ((s.rs d).toNat % 2 ^ (8 * sz.bytes) * 2 ^ (8 * (ea % 64))))
      (BitVec.ofNat 64 ((2 ^ sz.bytes - 1) * 2 ^ (ea % 64))))) s

/-- The entries of RVST and MVST (R303). -/
def State.remoteChunks (s : State) (cores : List Nat) (d : VReg) (k : KReg) (ea : Nat) : State :=
  (List.range 32).foldl (fun s i => if laneBe (s.rk k) i = 0 then s
    else s.addEntry .none (.remote cores (ea + 64 * i) (chunkOf (s.rv d) i) (BitVec.ofNat 64 (laneBe (s.rk k) i)))) s

/-- RVST (R303). -/
def execRvst (d : VReg) (a : SReg) (k : KReg) (pl : Place) (off : BitVec 13) (s : State) : Out :=
  let ea := s.remoteEa a off.toInt
  perform (.rvst d a k pl off) (remoteCheck (s.plOk pl) ea 2048 64) (s.room (chunkCount (s.rk k) 2048))
    (fun s => s.remoteChunks [pl.num] d k ea.toNat) s

/-- MVST; with an empty core set it has no effect (R302, R303). -/
def execMvst (d : VReg) (a : SReg) (k : KReg) (die : Fin 8) (clus : Fin 12) (set : BitVec 4) (off : BitVec 12)
    (s : State) : Out :=
  let ea := s.remoteEa a off.toInt
  let ks := (List.range 4).filter set.getLsbD
  let half := s.half s.iss.core s.iss.ctx = 1
  perform (.mvst d a k die clus set off)
    (if ks.isEmpty then none else remoteCheck (ks.all (fun k => s.placeOk die.val clus.val k half)) ea 2048 64)
    (if ks.isEmpty then .go else s.room (chunkCount (s.rk k) 2048))
    (fun s => if ks.isEmpty then s
      else s.remoteChunks (ks.map (fun k => coreNo die.val clus.val k)) d k ea.toNat) s

/-- The narrowest scope that contains two places, cores with their half-cores: CORE is one half-core in split mode (R22). -/
def scopeOf (c e hc he : Nat) : Scope :=
  if c = e && hc = he then .core else if clusOf c = clusOf e then .clus else if coreDie c = coreDie e then .die else .pkg

/-- The route of a context's remote traffic to one core (R305). -/
def remoteRoute (c x dest : Nat) : Nat := 4 * ((8 * c + x) * 512 + dest) + 3

/-- A chunk or RSTE leaves for another core: it counts as pending and takes the next send number (R310, R348). -/
def State.sendRemote (s : State) (c x launch task : Nat) (m : Msg) (n : Nat) : State :=
  let id := s.nextId
  let sn := (s.ctx c x).sendNo
  let m := { m with id := id, core := c, ctx := x, task := task, launch := launch, sendNo := sn, bytes := n }
  let s := { s with nextId := id + 1, msgs := s.msgs ++ [m] }
  let s := s.modCtx c x (fun k => { k with pbytes := k.pbytes + n })
  s.after (max (s.meshWait (coreDie c)) (s.meshWait (coreDie m.dest))) (remoteRoute c x m.dest) (if m.rste.isSome then .rsteArrival else .remoteStoreArrival) { id := id, core := m.dest }

/-- RSTE (R304). -/
def execRste (d a : SReg) (sc : Scope) (pl : Place) (off : BitVec 13) (s : State) : Out :=
  let ea := s.remoteEa a off.toInt
  let sc' := Scope.max sc (scopeOf s.iss.core pl.num (s.half s.iss.core s.iss.ctx) (Bool.code pl.half))
  perform (.rste d a sc pl off) (remoteCheck (s.plOk pl) ea 8 8) (s.waitRelease sc') (fun s =>
    let ea := ea.toNat
    let (c, x) := (s.iss.core, s.iss.ctx)
    let s := s.seesAcks c x sc'
    let s := s.sendRemote c x s.cx.launch s.cx.task
      { id := 0, core := c, ctx := x, task := 0, launch := 0, dest := pl.num, addr := ea / 64 * 64,
        data := BitVec.ofNat 512 ((s.rs d).toNat * 2 ^ (8 * (ea % 64))), be := BitVec.ofNat 64 (255 * 2 ^ (ea % 64)),
        rste := some sc', wts := s.lt c x } 8
    s.modCx (fun k => { k with sendNo := k.sendNo + 1 })) s

/-! ### Global memory (R306 to R309) -/

/-- The home-die hint as the launch admits it (R23). -/
def State.hint (s : State) (h : Hint) : Option Nat :=
  match h with
  | some d => if bit s.cl.hdmask d.val then some d.val else none
  | none => none

/-- A request of the issuing context. -/
def State.mine (s : State) (g : GAddr) (w : Want) : Req :=
  { id := 0, who := .ctx s.iss.core s.iss.ctx, serial := s.iss.serial, pos := s.iss.pos, launch := s.cx.launch,
    task := s.cx.task, g := g, want := w }

/-- The pieces of n bytes at a by line. -/
def lineSegs (a n : Nat) : List (Nat × Nat) :=
  (List.range ((a + n + 127) / 128 - a / 128)).map (fun i =>
    let lo := max a ((a / 128 + i) * 128)
    (lo, min (a + n) ((a / 128 + i + 1) * 128) - lo))

/-- Bank of the slice that a line lies in (R275). -/
def sliceBank (va : Nat) : Nat := va / 128 % 16
/-- The clock in which the core's port of a bank of the slice takes one more line (R275). -/
def State.slicePort (s : State) (c bank : Nat) : Nat × State :=
  let t := max s.pcyc (tget (s.core c).l2Next bank 0)
  (t, s.modCore c (fun k => { k with l2Next := tset k.l2Next bank (t + 1) }))

/-- A line of the slice that serves a read goes into the reader's L1 (R273). -/
def State.raiseLine (s : State) (c : Nat) (e : Lrt) (a d : Nat) : State :=
  match findLine (s.clu (clusOf c)).l2 e.asid a with
  | some l =>
    if e.cache = 1 && l.valid = BitVec.allOnes 128 && l.wpend = 0 then
      s.fillL1 c { l with data := BitVec.ofNat 1024 d, pins := 0, pinBy := [], dirty := match findLine (s.core c).l1 e.asid a with
        | some k => k.dirty
        | none => 0#128 }
    else s
  | none => s

/-- One piece of a read: from a cache that holds its bytes, or from the home (R273, R275, R337, R340). It is no hit while a reduction
of the context on one of the bytes has still to be applied, or while an earlier read of the context has asked the home for one: what
that brings may be newer (log 96). A hit in the slice takes 14 clocks from its request; of an L1 hit no time is promised. -/
def State.readSeg (s : State) (grp : Nat) (e : Lrt) (hint : Option Nat) (a n : Nat) : State :=
  let (c, x) := (s.iss.core, s.iss.ctx)
  let r := s.mine { va := a, len := n, ent := e, hint := hint } (.read grp)
  if e.cache != 1 && e.cache != 2 then s.ask r
  else
    let ops := s.ownOps c x s.iss.serial e.asid a
    let (d, v) := s.cached c e a (s.lt c x)
    let v := v &&& ~~~redBytes ops
    let mask := BitVec.ofNat 128 ((2 ^ n - 1) * 2 ^ (a % 128))
    let first := !s.reqs.any (fun q => q.who = .ctx c x && q.g.ent.asid = e.asid && !q.hit && q.g.va < a + n && a < q.g.va + q.g.len
      && (match q.want with | .read _ => true | _ => false))
    let hit : Bool := first && v &&& mask = mask
    let r := { r with held := ownOver ops d, heldV := v ||| (ownBytes ops &&& ~~~redBytes ops) }
    let inL1 : Bool := hit && e.cache = 1 && (match findLine (s.core c).l1 e.asid a with
      | some l => l.serves (s.lt c x) && l.valid &&& mask = mask
      | none => false)
    let (t, s) := if inL1 then (s.pcyc, s) else s.slicePort c (sliceBank a)
    if hit then
      let r := { r with id := s.nextId, data := d, own := r.held, served := true, hit := true, nofill := true }
      let s := { s with nextId := s.nextId + 1, reqs := s.reqs ++ [r] }
      if inL1 then s.after 0 0 .variableResultLand { id := r.id }
      else (s.raiseLine c e a d).sched_ (t + 14) 0 .variableResultLand { id := r.id }
    else s.ask r

/-- A read of several pieces whose register waits for the last (R141, R308). -/
def State.startRead (s : State) (dest : RegRef) (sz : Size) (a : Nat) (lanes : List (Nat × Nat))
    (segs : List (Nat × Nat × Lrt)) (hint : Option Nat) : State :=
  let g : Group := { id := s.nextId, who := .ctx s.iss.core s.iss.ctx, serial := s.iss.serial, dest := dest, sz := sz,
                     lanes := lanes, left := segs.length, at_ := a }
  let s := State.modCx { s with nextId := s.nextId + 1, groups := s.groups ++ [g] }
    (fun k => { k with pend := k.pend ++ [(g.id, s.iss.serial, dest)] })
  segs.foldl (fun s p => s.readSeg g.id p.2.2 hint p.1 p.2.1) s

/-- An entry for a global write, and its grant request (R280). -/
def State.globalEntry (s : State) (g : GAddr) (k : EntryKind) : State :=
  let id := s.nextId
  (s.addEntry .asked k).ask (s.mine g (.grant id))

/-- GLD (R307). -/
def execGld (d a : SReg) (sz : Size) (hint : Hint) (imm : BitVec 24) (s : State) : Out :=
  let ea := s.gEa a imm
  let r := s.gcheck ea sz.bytes (·.rd) sz.bytes
  perform (.gld d a sz hint imm) (trapOf r) .go
    (fun s => s.startRead (.s d) sz ea [] [(ea, sz.bytes, entOf r)] (s.hint hint)) s

/-- GST (R307). -/
def execGst (d a : SReg) (sz : Size) (hint : Hint) (imm : BitVec 24) (s : State) : Out :=
  let ea := s.gEa a imm
  let r := s.gcheck ea sz.bytes (·.wr) sz.bytes
  perform (.gst d a sz hint imm) (thenCheck (need sz.store formatFault) (trapOf r)) (s.room 1) (fun s =>
    let g : GAddr := { va := ea / 64 * 64, len := 64, ent := entOf r, hint := s.hint hint, off := ea % 64 }
    s.globalEntry g (.global g (BitVec.ofNat 512 ((s.rs d).toNat % 2 ^ (8 * sz.bytes) * 2 ^ (8 * (ea % 64))))
      (BitVec.ofNat 64 ((2 ^ sz.bytes - 1) * 2 ^ (ea % 64))))) s

/-- Active lanes of a mask. -/
def laneList (k : KWord) : List Nat := (List.range 512).filter k.getLsbD

/-- VGLD (R308). -/
def execVgld (d : VReg) (a : SReg) (k : KReg) (hint : Hint) (imm : BitVec 24) (s : State) : Out :=
  let ea := s.gEa a imm
  let r := s.gcheck ea 2048 (·.rd) 64
  perform (.vgld d a k hint imm) (trapOf r) .go (fun s =>
    s.startRead (.v d) .d ea ((laneList (s.rk k)).map (fun l => (l, ea + 4 * l)))
      ((lineSegs ea 2048).map (fun p => (p.1, p.2, entOf r))) (s.hint hint)) s

/-- VGST (R308). -/
def execVgst (d : VReg) (a : SReg) (k : KReg) (hint : Hint) (imm : BitVec 24) (s : State) : Out :=
  let ea := s.gEa a imm
  let r := s.gcheck ea 2048 (·.wr) 64
  perform (.vgst d a k hint imm) (trapOf r) (s.room (chunkCount (s.rk k) 2048)) (fun s =>
    (List.range 32).foldl (fun s i => if laneBe (s.rk k) i = 0 then s else
      let g : GAddr := { va := ea + 64 * i, len := 64, ent := entOf r, hint := s.hint hint }
      s.globalEntry g (.global g (chunkOf (s.rv d) i) (BitVec.ofNat 64 (laneBe (s.rk k) i)))) s) s

/-- Lane addresses of a gather or scatter (R309). -/
def State.laneAddrs (s : State) (a : SReg) (b : VReg) (k : KReg) (imm : BitVec 24) : List (Nat × Nat) :=
  (laneList (s.rk k)).map (fun l =>
    (l, (s.gEa a imm + ((BitVec.ofNat 32 (elem 32 (s.rv b).toNat l)).signExtend 64).toNat) % 2 ^ 64))

/-- VGGATH (R309). -/
def execVggath (d : VReg) (a : SReg) (b : VReg) (k : KReg) (hint : Hint) (imm : BitVec 24) (s : State) : Out :=
  let l := s.laneAddrs a b k imm
  perform (.vggath d a b k hint imm) (firstTrap (l.map (fun p => trapOf (s.gcheck p.2 4 (·.rd) 4)))) .go (fun s =>
    if l.isEmpty then s
    else s.startRead (.v d) .d 0 l (l.map (fun p => (p.2, 4, entOf (s.gcheck p.2 4 (·.rd) 4)))) (s.hint hint)) s

/-- The chunks a scatter writes: address, data, byte enables; the highest lane's bytes are kept (R309). -/
def scatterChunks (v : VWord) : List (Nat × Nat) → List (Nat × Nat × Nat) → List (Nat × Nat × Nat)
  | [], acc => sortBy (fun p q => p.1 ≤ q.1) acc
  | (l, a) :: rest, acc =>
    let (d, be) := match acc.find? (fun p => p.1 = a / 64 * 64) with | some p => p.2 | none => (0, 0)
    let nbe := 15 * 2 ^ (a % 64)
    let nd := mergeBe d (elem 32 v.toNat l * 2 ^ (8 * (a % 64))) nbe
    scatterChunks v rest (acc.filter (fun p => p.1 != a / 64 * 64) ++ [(a / 64 * 64, nd, be ||| nbe)])

/-- VGSCAT (R309). -/
def execVgscat (d : VReg) (a : SReg) (b : VReg) (k : KReg) (hint : Hint) (imm : BitVec 24) (s : State) : Out :=
  let l := s.laneAddrs a b k imm
  let ch := scatterChunks (s.rv d) l []
  perform (.vgscat d a b k hint imm) (firstTrap (l.map (fun p => trapOf (s.gcheck p.2 4 (·.wr) 4)))) (s.room ch.length)
    (fun s => ch.foldl (fun s p =>
      let e := match l.find? (fun q => q.2 / 64 * 64 = p.1) with | some q => entOf (s.gcheck q.2 4 (·.wr) 4) | none => {}
      let g : GAddr := { va := p.1, len := 64, ent := e, hint := s.hint hint,
                         off := ((List.range 64).find? (fun i => bit p.2.2 i)).getD 0 }
      s.globalEntry g (.global g (BitVec.ofNat 512 p.2.1) (BitVec.ofNat 64 p.2.2))) s) s

/-! ### Atomics and reductions (R311 to R315) -/

/-- The request of an atomic, and its pending result (R312). The context's next bundle waits behind the round trip
(R136). -/
def State.startAtomic (s : State) (d : SReg) (e : Lrt) (hint : Option Nat) (ea : Nat) (w : Nat) (want : Nat → Want) : State :=
  let rid := s.nextId
  let s := State.modCx { s with nextId := rid + 1 } (fun k =>
    { k with pend := k.pend ++ [(rid, s.iss.serial, .s d)], comps := k.comps ++ [.atomic rid] })
  let s := if e.cache = 1 || e.cache = 2 then s.lendLine s.iss.core e ea else s
  s.ask (s.mine { va := ea, len := w, ent := e, hint := hint } (want rid))

/-- AMO (R312). -/
def execAmo (d a b : SReg) (sz : Size) (hint : Hint) (sc : Scope) (op : AmoOp) (s : State) : Out :=
  let ea := (s.rs a).toNat
  let r := s.gcheck ea sz.bytes (·.at_) sz.bytes
  perform (.amo d a b sz hint sc op) (thenCheck (need sz.atomic formatFault) (trapOf r))
    ((s.waitRelease sc).and (waitFor (s.lendOk s.iss.core (entOf r) ea)))
    (fun s => (s.seesAcks s.iss.core s.iss.ctx sc).startAtomic d (entOf r) (s.hint hint) ea sz.bytes (fun rid => .amo rid d op (s.rs b).toNat sz)) s

/-- CAS (R312). -/
def execCas (d a b : SReg) (sz : Size) (hint : Hint) (sc : Scope) (s : State) : Out :=
  let ea := (s.rs a).toNat
  let r := s.gcheck ea sz.bytes (·.at_) sz.bytes
  perform (.cas d a b sz hint sc) (thenCheck (need sz.atomic formatFault) (trapOf r))
    ((s.waitRelease sc).and (waitFor (s.lendOk s.iss.core (entOf r) ea)))
    (fun s => (s.seesAcks s.iss.core s.iss.ctx sc).startAtomic d (entOf r) (s.hint hint) ea sz.bytes
      (fun rid => .cas rid d (s.rs d).toNat (s.rs b).toNat sz)) s

/-- RED (R314). -/
def execRed (d a : SReg) (sz : Size) (hint : Hint) (op : AmoOp) (s : State) : Out :=
  let ea := (s.rs a).toNat
  let r := s.gcheck ea sz.bytes (·.at_) sz.bytes
  perform (.red d a sz hint op) (thenCheck (need (sz.store && op != .swap) formatFault) (trapOf r)) (s.room 1)
    (fun s =>
      let g : GAddr := { va := ea, len := sz.bytes, ent := entOf r, hint := s.hint hint }
      s.globalEntry g (.red g op ((s.rs d).toNat % 2 ^ (8 * sz.bytes)))) s

/-- Bytes of a FRED element, and whether the format is accepted (R315). -/
def fredBytes : Ty → Nat
  | .f32 => 4
  | _ => 2
/-- Formats FRED accepts (R315). -/
def fredOk : Ty → Bool
  | .f32 | .f16 | .bf16 => true
  | _ => false

/-- FRED (R315). -/
def execFred (d a : SReg) (hint : Hint) (ty : Ty) (s : State) : Out :=
  let ea := (s.rs a).toNat
  let w := fredBytes ty
  let r := s.gcheck ea w (·.at_) w
  perform (.fred d a hint ty) (thenCheck (need (fredOk ty) formatFault) (trapOf r)) (s.room 1)
    (fun s =>
      let g : GAddr := { va := ea, len := w, ent := entOf r, hint := s.hint hint }
      s.globalEntry g (.fred g ty ((s.rs d).toNat % 2 ^ (8 * w)))) s

/-- SAMO (R313). -/
def execSamo (d a b : SReg) (sz : Size) (sc : Scope) (op : AmoOp) (s : State) : Out :=
  perform (.samo d a b sz sc op)
    (thenCheck (need sz.atomic formatFault) (s.spCheck (s.rs a).toNat sz.bytes sz.bytes)) (s.waitRelease sc) (fun s =>
    let ea := (s.rs a).toNat
    let x := s.spRead ea sz.bytes
    let y := amoVal op x (s.rs b).toNat sz.bytes
    -- the release carries the time its own acquire has raised (R353, R354)
    let s := (s.acquireWord ea).seesAcks s.iss.core s.iss.ctx sc
    ((s.declare [s.useAt ea 2 false]).directWrite s.iss.core
      { id := 0, clk := s.now s.iss.core + 2, addr := ea / 64 * 64, chg := some (s.iss.core, s.iss.ctx),
        data := BitVec.ofNat 512 (y * 2 ^ (8 * (ea % 64))), be := BitVec.ofNat 64 ((2 ^ sz.bytes - 1) * 2 ^ (ea % 64)),
        rel := some (s.lt s.iss.core s.iss.ctx) }).varIn 3 (.s d (sz.ext x)) true) s

/-! ### Pins and cache control (R317 to R319) -/

/-- GPF: a failed check drops it (R317). -/
def execGpf (a : SReg) (l2 : Bool) (hint : Hint) (imm : BitVec 24) (s : State) : Out :=
  let va := s.gEa a imm / 128 * 128
  perform (.gpf a l2 hint imm) none .go (fun s =>
    match s.cl.lrtFind va 128 (·.rd) with
    | .ok e => if e.cache != 1 && e.cache != 2 then s
        else s.ask (s.mine { va := va, len := 128, ent := e, hint := s.hint hint } (.prefetch l2))
    | .error _ => s) s

/-- The checks of PIN, UNPIN, GWB and GINV (R318, R319). -/
def State.rangeCheck (s : State) (ea n most : Nat) (perm cached : Lrt → Bool) : Except Trap Lrt :=
  if ea % 128 != 0 || n % 128 != 0 || n < 128 || most < n then .error (alignTrap ea)
  else match s.cl.lrtFind ea n perm with
    | .ok e => if cached e then .ok e else .error (permTrap ea e.asid)
    | .error t => .error t

/-- The shape of the four: one entry, which acts when it drains. -/
def State.rangeForm (s : State) (i : Instr) (ea n : Nat) (r : Except Trap Lrt) (hint : Hint) (k : GAddr → EntryKind) : Out :=
  perform i (trapOf r) (s.room 1)
    (fun s => s.addEntry .none (k { va := ea, len := n, ent := entOf r, hint := s.hint hint })) s

/-- PIN (R318). -/
def execPin (a b : SReg) (hint : Hint) (imm : BitVec 24) (s : State) : Out :=
  let (ea, n) := (s.gEa a imm, (s.rs b).toNat)
  s.rangeForm (.pin a b hint imm) ea n (s.rangeCheck ea n 1048576 (·.rd) (fun e => e.cache = 1 || e.cache = 2)) hint .pin

/-- UNPIN (R318). -/
def execUnpin (a b : SReg) (hint : Hint) (imm : BitVec 24) (s : State) : Out :=
  let (ea, n) := (s.gEa a imm, (s.rs b).toNat)
  s.rangeForm (.unpin a b hint imm) ea n (s.rangeCheck ea n 1048576 (fun _ => true) (fun e => e.cache = 1 || e.cache = 2))
    hint .unpin

/-- GWB (R319). -/
def execGwb (a b : SReg) (hint : Hint) (sc : Scope) (imm : BitVec 24) (s : State) : Out :=
  let (ea, n) := (s.gEa a imm, (s.rs b).toNat)
  s.rangeForm (.gwb a b hint sc imm) ea n (s.rangeCheck ea n (2 ^ 32) (fun _ => true) (fun _ => true)) hint (fun g => .gwb g sc)

/-- GINV (R319). -/
def execGinv (a b : SReg) (hint : Hint) (sc : Scope) (imm : BitVec 24) (s : State) : Out :=
  let (ea, n) := (s.gEa a imm, (s.rs b).toNat)
  s.rangeForm (.ginv a b hint sc imm) ea n (s.rangeCheck ea n (2 ^ 32) (fun _ => true) (fun _ => true)) hint
    (fun g => .ginv g sc)

end Machine
end Sys2Proof
end

