-- ==== Sys2Proof/Machine/Matrix.lean ====
section
/-! DEFINITION. The matrix engine pair: beats of the T slot, tiles and their signatures, the comparison and the Hardy's
replay (R92, R211 to R240). -/

namespace Sys2Proof.Machine

/-! ### Formats, rows and signatures (R211, R213, R226) -/

/-- Matrix class of a stream format code; none when the engine does not accept it (R44, R211). -/
def mxClass : Nat → Option Nat
  | 0 => some 1
  | 1 => some 2
  | 2 | 3 => some 4
  | 4 | 5 | 6 => some 8
  | 0x10 => some 8
  | 0x11 => some 16
  | 0x12 => some 32
  | _ => none
/-- Element e of a row or vector of stream format f (R213). -/
def mxElem (f bytes e : Nat) : Num :=
  if 16 ≤ f then
    let n := 8 * recordBytes (f - 16)
    blkElem (f - 16) (bytes / 2 ^ (n * (e / 128)) % 2 ^ n) (e % 128)
  else match tyOf f with
    | some t => value t (elem t.width bytes e)
    | none => .nan
/-- Every Billet record of a row has blk.zero = 0 (R212). -/
def mxZeroOk (f bytes : Nat) : Bool :=
  if 16 ≤ f then
    let n := 8 * recordBytes (f - 16)
    (List.range (mxRowBytes f * 8 / n)).all (fun r => blkZeroOk (bytes / 2 ^ (n * r) % 2 ^ n))
  else true

/-- One bit of Crc64 (R226). -/
def crcBit (s : Nat) : Nat := if 2 ^ 63 ≤ s then (2 * s % 2 ^ 64) ^^^ 0x42F0E1EBA9EA3693 else 2 * s
/-- Crc64 (R226). -/
def crc64 (sig : Nat) (bytes : List Byte) : Nat :=
  bytes.foldl (fun s b => (List.range 8).foldl (fun s _ => crcBit s) (s ^^^ (b.toNat * 2 ^ 56))) sig

/-! ### Fields of the register sets (R218) -/

/-- mx.wsrc. -/
def MxSet.wsrc (m : MxSet) : Bool := m.ctl.getLsbD 0
/-- mx.afmt. -/
def MxSet.afmt (m : MxSet) : Nat := fld m.ctl.toNat 1 2
/-- The accumulator format: FP32, FP64 or I32. -/
def MxSet.aty (m : MxSet) : Ty := match m.afmt with | 0 => .f32 | 1 => .f64 | _ => .i32
/-- mx.dfmt. -/
def MxSet.dfmt (m : MxSet) : Nat := fld m.ctl.toNat 3 4
/-- mx.dh. -/
def MxSet.dh (m : MxSet) : Nat := fld m.ctl.toNat 7 4
/-- mx.drm. -/
def MxSet.drm (m : MxSet) : Nat := fld m.ctl.toNat 11 3
/-- mx.dsat. -/
def MxSet.dsat (m : MxSet) : Bool := m.ctl.getLsbD 14
/-- mx.zen. -/
def MxSet.zen (m : MxSet) : Bool := m.ctl.getLsbD 15
/-- The fields of MXTILE may be used: its reserved bits are zero (R218). -/
def MxSet.tileOk (m : MxSet) : Bool := fld m.tile.toNat 32 32 = 0
/-- Reserved bits of MXCTL are zero. -/
def MxSet.ctlOk (m : MxSet) : Bool := fld m.ctl.toNat 16 48 = 0
/-- mx.tile. -/
def MxSet.tileId (m : MxSet) : Nat := fld m.tile.toNat 0 32
/-- mxt.stride. -/
def MxSet.stride (m : MxSet) : Nat := fld m.tstr.toNat 0 16
/-- mxt.fmt. -/
def MxSet.tfmt (m : MxSet) : Nat := fld m.tstr.toNat 16 5
/-- mxt.ctr. -/
def MxSet.ctr (m : MxSet) : Nat := fld m.tstr.toNat 21 27
/-- The tongs fields may be used (R218). -/
def MxSet.tongsOk (m : MxSet) : Bool :=
  m.stride != 0 && fld m.tstr.toNat 48 16 = 0 && fld m.tbase.toNat 0 7 = 0 && canonVa m.tbase.toNat
/-- mxt.ctr advanced by one. -/
def MxSet.advance (m : MxSet) : MxSet :=
  { m with tstr := BitVec.ofNat 64 (m.tstr.toNat - m.ctr * 2 ^ 21 + (m.ctr + 1) % 2 ^ 27 * 2 ^ 21) }

/-! ### The issuing context's engine (R92, R220, R231, R232) -/

/-- The engine of the issuing context. -/
def State.eng (s : State) : Engine := s.cc.eng (s.half s.iss.core s.iss.ctx)
/-- It changed. -/
def State.modEng (s : State) (f : Engine → Engine) : State :=
  s.modCc (fun k => k.modEng (s.half s.iss.core s.iss.ctx) f)
/-- Its array, or either array of the pair, is retired (R231). -/
def State.engRetired (s : State) : Bool :=
  if s.cc.split then (if s.half s.iss.core s.iss.ctx = 1 then s.cc.sret else s.cc.aret) else s.cc.aret || s.cc.sret
/-- The open tile of the issuing context. -/
def State.tile (s : State) : Option Tile := if s.eng.owner = some s.iss.ctx then s.eng.tile else none
/-- The set that governs a beat: the shadow set for WLOAD.nxt (R219). -/
def State.mset (s : State) (next : Bool) : MxSet := if next then s.eng.shadow else s.eng.active
/-- A bank of an engine: the active one, or the next. -/
def Engine.bank (e : Engine) (next : Bool) : Bank := if e.sel != next then e.bank1 else e.bank0
/-- One bank changed. -/
def Engine.modBank (e : Engine) (next : Bool) (f : Bank → Bank) : Engine :=
  if e.sel != next then { e with bank1 := f e.bank1 } else { e with bank0 := f e.bank0 }

/-- A matrix trap carries the tile id (R218, R412). -/
def State.mxTrap (s : State) (cause : Nat) : Trap := { cause := cause, info := s.eng.active.tileId }
/-- The matrix-use fault (R220). -/
def State.mxUse (s : State) : Option Trap := need s.cl.mx (s.mxTrap 0x0E)
/-- The wait of a beat for the engine (R92, R231). -/
def State.beatWait (s : State) : Wait :=
  waitFor (!s.engRetired && (s.eng.owner = none || s.eng.owner = some s.iss.ctx))
/-- A check made after the wait for the engine. -/
def orTrap (c : Bool) (t : Trap) : Wait := if c then .go else .trap t

/-- A beat that opens a tile uses the tile id of set m, which becomes or is the active one (R218, R221). -/
def State.opens (s : State) (m : MxSet) : Wait := orTrap (s.tile.isSome || m.tileOk) formatFault

/-- A check of R291 made after the wait for the engine. -/
def passes : Option Trap → Wait
  | some t => .trap t
  | none => .go

/-- Two consecutive beats share a record entry (R221). -/
def Beat.follows : Beat → Beat → Bool
  | .wload b r f st (.spad a), .wload b' r' f' _ (.spad a') => b = b' && r' = r + 1 && f = f' && a' = a + st
  | .wload b r f st (.tongs a i), .wload b' r' f' _ (.tongs a' i') =>
    b = b' && r' = r + 1 && f = f' && a' = a + st && i = i'
  | .afeed f st a _ _ _ _, .afeed f' _ a' _ _ _ _ => f = f' && a' = a + st
  | .accum a st _, .accum a' st' _ => a' = a + 1 && st = st'
  | .drain a c _ _, .drain a' c' _ _ => a' = a + 1 && c = c'
  | .tzero a n, .tzero a' n' => a' = a + 1 && n = n'
  | _, _ => false
/-- Record entries a tile uses with one more beat. -/
def Tile.entriesWith (t : Tile) (b : Beat) : Nat :=
  match t.beats.getLast? with
  | some (_, p) => if p.follows b then t.entries else t.entries + 1
  | none => t.entries + 1
/-- The record has room for the beat (R221); a split engine keeps none (R232). -/
def State.beatFits (s : State) (b : Beat) : Wait :=
  orTrap (s.cc.split || (s.tile.getD {}).entriesWith b ≤ 256) (s.mxTrap 0x0D)

/-- The first beat of a tile takes the engine and opens a record (R92, R220, R221). -/
def State.openTile (s : State) (swapped : Bool) : State :=
  if s.tile.isSome then s
  else
    let x := s.iss.ctx
    State.modEng { s with nextId := s.nextId + 1 } (fun e =>
      { e with owner := some x, lastUser := some x,
               opens := e.opens.map (fun o => { o with other := o.other || o.ctx != x }) ++ [{ ctx := x, serial := s.iss.serial, active := e.active, shadow := e.shadow, swapped := swapped }],
               tile := some { id := s.nextId, ctx := x, tileId := e.active.tileId, set := e.active } })
/-- The open tile changed. -/
def State.modTile (s : State) (f : Tile → Tile) : State := s.modEng (fun e => { e with tile := e.tile.map f })
/-- A beat enters the record. -/
def State.addBeat (s : State) (b : Beat) : State :=
  if s.cc.split then s
  else s.modTile (fun t => { t with entries := t.entriesWith b, beats := t.beats ++ [(s.iss.serial, b)] })

/-! ### WLOAD (R213, R216, R224, R225, R234) -/

/-- A row that AFEEDs now see: a new format is latched and clears the other valid bits (R213). -/
def Bank.land (b : Bank) (r : LateRow) : Bank :=
  let keep := b.fmt = some r.fmt
  let base : BitVec 32 := if keep then b.valid else 0#32
  { b with fmt := some r.fmt, valid := base ||| BitVec.ofNat 32 (2 ^ r.row), rows := tset b.rows r.row r.data,
           srcs := tset (if keep then b.srcs else []) r.row r.from_ }
/-- One step of the owning context for the rows on their way. -/
def Bank.step (b : Bank) : Bank :=
  let due := b.late.filter (fun r => r.left ≤ 1)
  due.foldl Bank.land { b with late := (b.late.filter (fun r => 1 < r.left)).map (fun r => { r with left := r.left - 1 }) }
/-- The format the bank will have latched. -/
def Bank.fmtNext (b : Bank) : Option Nat := match b.late.getLast? with | some r => some r.fmt | none => b.fmt

/-- A row of the tongs stream as a beat of context x in bundle `serial` reads it: bytes from lines pinned and, for a stream,
resident in the slice (R224), the context's own earlier stores laid over them, if it still runs the task `own` of that beat (R222). -/
def State.tongsRow (s : State) (c x serial : Nat) (asid va n : Nat) (own : Bool := true) (resident : Bool := true) : Option Nat :=
  let lines := (List.range ((va + n + 127) / 128 - va / 128)).map (fun i => (va / 128 + i) * 128)
  let copies := lines.map (fun l => ((s.clu (clusOf c)).l2.find? (fun k => k.asid = asid && k.va = l && 0 < k.pins
    && (!resident || k.valid = BitVec.allOnes 128))).map (fun k =>
        ownOver (if own then s.ownOps c x (serial + 1) asid l else []) k.data.toNat))
  if copies.all Option.isSome then
    some (pack 1024 (fun i => (copies.getD i none).getD 0) copies.length 0 / 2 ^ (8 * (va % 128)) % 2 ^ (8 * n))
  else none

/-- The map word of a row's K indices (R225). -/
def MxSet.mapAddr (m : MxSet) (p q : Nat) : Nat := fld m.zmap.toNat 0 22 + 8 * (p * q / 8 * 4 / 64)
/-- Every weight of the row that falls in a set block encodes zero (R225). -/
def zeroBlocksOk (f bytes p q word : Nat) : Bool :=
  (List.range (32 * q)).all (fun e =>
    let k := p * q + e % q
    let j := e / q
    if word / 2 ^ ((k / 8 * 4 + j / 8) % 64) % 2 = 1 then
      (match mxElem f bytes e with | .fin _ m _ => m = 0 | _ => false) else true)

/-- A use of the map word, when the governing set enables it. -/
def State.mapOk (s : State) (m : MxSet) (row f : Nat) (bytes : Nat) : Wait :=
  if !m.zen then .go
  else
    let q := (mxClass f).getD 1
    let a := m.mapAddr row q
    if fld m.zmap.toNat 22 42 != 0 || m.zmap.toNat % 8 != 0 then .trap formatFault
    else match s.spCheck a 8 8 with
      | some t => .trap t
      | none => orTrap (zeroBlocksOk f bytes row q (s.spRead a 8)) formatFault

/-- The rule on formats that reach the active bank after an AFEED of the tile (R220). -/
def State.latchOk (s : State) (next : Bool) (f : Nat) : Wait :=
  orTrap (next || (s.eng.bank false).fmtNext = some f || !(s.tile.getD {}).fed) (s.mxTrap 0x0D)

/-- The effect of a WLOAD once its bytes are known. -/
def State.loadRow (s : State) (next : Bool) (row f left step : Nat) (src : Src) (bytes : Nat) : State :=
  let m := s.mset next
  let s := s.openTile false
  let s := if m.zen then s.readsWord (m.mapAddr row ((mxClass f).getD 1)) 8 else s
  let s := s.addBeat (.wload (s.eng.sel != next) row f step src)
  s.modEng (fun e => e.modBank next (fun b => { b with late := b.late ++
    [{ left := left, row := row, fmt := f, data := BitVec.ofNat 4096 bytes,
       from_ := { ctx := s.iss.ctx, task := s.cx.task, serial := s.iss.serial, use := s.now s.iss.core + 2, src := src } }] }))

/-- The chunks a ring beat reads, all at t + 2 (R217). -/
def State.beatUses (s : State) (a n : Nat) : List Use :=
  (List.range ((n + 63) / 64)).map (fun i => s.useAt (a + 64 * i) 2 true)

/-- A beat or an engine form reads n bytes from a on, whole chunks, all at t + 2 (R217, R255). -/
def State.readsRow (s : State) (a n : Nat) : State :=
  (List.range ((n + 63) / 64)).foldl (fun s i =>
    s.markRead s.iss.core s.iss.ctx (a + 64 * i) (2 ^ min 64 (n - 64 * i) - 1) (s.now s.iss.core + 2)) (s.declare (s.beatUses a n))

/-- WLOAD from a ring (R234). -/
def State.wloadRing (s : State) (i : Instr) (next : Bool) (row : Nat) (h : HReg) (off : Nat) : Out :=
  let m := s.mset next
  let r := s.rh h
  let f := r.fmt
  let n := mxRowBytes f
  let a := r.slotAddr ((r.cp + off) % r.c)
  let bytes := s.spRead a n
  let q := (mxClass f).isSome
  perform i s.mxUse
    (s.beatWait.and <| (s.opens s.eng.active).and <| (orTrap (!m.wsrc && m.ctlOk) formatFault).and <| (orTrap r.v ringTrap).and <|
      (orTrap (q && n ≤ r.slotBytes) formatFault).and <| (s.latchOk next f).and <|
      (s.beatFits (.wload (s.eng.sel != next) row f r.slotBytes (.spad a))).and <|
      (passes (s.spCheck a n 64)).and <| (s.ringWait (off < r.fill)).and <|
      (orTrap (mxZeroOk f bytes) formatFault).and <| s.mapOk m row f bytes)
    (fun s =>
      let s := s.readsRow a n
      s.loadRow next row f 3 r.slotBytes (.spad a) bytes) s

/-- WLOAD from the tongs (R224, R234). -/
def State.wloadTongs (s : State) (i : Instr) (next : Bool) (row : Nat) : Out :=
  let m := s.mset next
  let f := m.tfmt
  let n := mxRowBytes f
  let va := (m.tbase.toNat + m.ctr * m.stride * 128) % 2 ^ 64
  let r := s.cl.lrtFind va n (·.rd)
  let e := entOf r
  let bytes := s.tongsRow s.iss.core s.iss.ctx s.iss.serial e.asid va n
  perform i s.mxUse
    (s.beatWait.and <| (s.opens s.eng.active).and <| (orTrap (m.tongsOk && m.ctlOk && (mxClass f).isSome) formatFault).and <| (s.latchOk next f).and <|
      (s.beatFits (.wload (s.eng.sel != next) row f (m.stride * 128) (.tongs va e.asid))).and <|
      (passes (trapOf r)).and <|
      (orTrap bytes.isSome { cause := 0x0F, addr := va, asid := e.asid, info := s.eng.active.tileId }).and <|
      (orTrap (mxZeroOk f (bytes.getD 0)) formatFault).and <| s.mapOk m row f (bytes.getD 0))
    (fun s =>
      let s := s.loadRow next row f 18 (m.stride * 128) (.tongs va e.asid) (bytes.getD 0)
      s.modEng (fun e => if next then { e with shadow := e.shadow.advance } else { e with active := e.active.advance })) s

/-- WLOAD from a ring (R234). -/
def execWload (w : Fin 32) (h : HReg) (off : Fin 32) (s : State) : Out := s.wloadRing (.wload w h off) false w.val h off.val
/-- WLOAD.nxt from a ring (R234). -/
def execWloadNxt (w : Fin 32) (h : HReg) (off : Fin 32) (s : State) : Out :=
  s.wloadRing (.wloadNxt w h off) true w.val h off.val
/-- The word of WLOAD from the tongs is also that of ring h0 at offset 0: mx.wsrc decides which it is (log 8). -/
def execWloadTongs (w : Fin 32) (s : State) : Out :=
  if (s.mset false).wsrc then s.wloadTongs (.wloadTongs w) false w.val else s.wloadRing (.wloadTongs w) false w.val 0 0
/-- The same for WLOAD.nxt (log 8). -/
def execWloadNxtTongs (w : Fin 32) (s : State) : Out :=
  if (s.mset true).wsrc then s.wloadTongs (.wloadNxtTongs w) true w.val else s.wloadRing (.wloadNxtTongs w) true w.val 0 0

/-! ### AFEED (R212, R215, R235) -/

/-- The exact sums of the 32 columns: an activation vector against a bank's format and rows (R215). A row that is not valid
reads as +0. -/
def feedCols (af abytes : Nat) (wf : Option Nat) (row : Nat → Option Nat) : List Sum :=
  let q := (mxClass af).getD 1
  let ws := (List.range 32).map row
  let xs := ((List.range (32 * q)).map (mxElem af abytes)).toArray
  (List.range 32).map (fun j =>
    (List.range (32 * q)).foldl (fun acc k =>
      let w := match wf, ws.getD (k / q) none with
        | some f, some b => mxElem f b (j * q + k % q)
        | _, _ => .fin false 0 0
      acc.add ((xs.getD k .nan).mul w)) {})

/-- The valid rows of a bank. -/
def Bank.row (b : Bank) (p : Nat) : Option Nat := if b.valid.getLsbD p then some (tget b.rows p 0#4096).toNat else none

/-- AFEED (R235). A row of I8 whose bank has latched no format takes part as I8 without I8 weights, so that an I32 ACCUM of it takes
the format fault (R212; log 105). -/
def execAfeed (h : HReg) (off : Fin 32) (s : State) : Out :=
  let r := s.rh h
  let f := r.fmt
  let n := mxRowBytes f
  let a := r.slotAddr ((r.cp + off.val) % r.c)
  let b := s.eng.bank false
  let use := s.now s.iss.core + 2
  let beat : Beat := .afeed f r.slotBytes a use b.fmt b.valid b.srcs
  perform (.afeed h off) s.mxUse
    (s.beatWait.and <| (s.opens s.eng.active).and <| (orTrap r.v ringTrap).and <|
      (orTrap ((mxClass f).isSome && n ≤ r.slotBytes
        && (match b.fmt with | some w => mxClass w = mxClass f | none => true)) formatFault).and <|
      (s.beatFits beat).and <|
      (passes (s.spCheck a n 64)).and <| (s.ringWait (off.val < r.fill)).and <|
      orTrap (mxZeroOk f (s.spRead a n)) formatFault)
    (fun s =>
      let bytes := s.spRead a n
      let s := s.readsRow a n
      let s := (s.openTile false).addBeat beat
      let t := s.tile.getD {}
      let row : FedRow := { left := 34, ctx := s.iss.ctx, tile := t.id, num := t.feeds, q := (mxClass f).getD 1,
                            i8 := f = 6 && b.fmt = some 6, cols := feedCols f bytes b.fmt b.row }
      (s.modTile (fun t => { t with feeds := t.feeds + 1, fed := true })).modEng (fun e =>
        { e with rows := e.rows ++ [row] })) s

/-! ### ACCUM, DRAIN, TSWAP, TZERO, TCLOSE (R236 to R240) -/

/-- One element of an accumulator row combined with a column (R215). -/
def accElem (ty : Ty) (set : Bool) (old : Nat) (col : Option Sum) : Nat :=
  match col with
  | none => if set then 0 else old
  | some c =>
    let v := if set then c else c.add (value ty old)
    if ty = .i32 then (match v.total .rne with
      | .fin neg m e => wrapInt .i32 false (signed neg (m * 2 ^ e.toNat))
      | _ => 0)
    else finish ty .rne false false (v.total .rne)

/-- An accumulator row of an array after ACCUM, its stuck digits included (R215, R229). -/
def accRow (ty : Ty) (set : Bool) (old : List Nat) (cols : Option (List Sum)) (stuck : List (Nat × Nat)) : List Nat :=
  (List.range 32).map (fun j =>
    let v := accElem ty set (old.getD j 0) (cols.map (fun c => c.getD j {}))
    (stuck.filter (fun p => p.1 = j)).foldl (fun v p => v ^^^ p.2) v)

/-- An empty accumulator row. -/
def zeroRow : List Nat := List.replicate 32 0
/-- Row a of the Anvil, or of the only array of a split engine. -/
def Engine.accA (e : Engine) (a : Nat) : List Nat := tget e.acc a zeroRow
/-- Row a of the Swage. -/
def Engine.accB (e : Engine) (a : Nat) : List Nat := tget e.accS a (e.accA a)
/-- Both arrays' row a written. -/
def Engine.setAcc (e : Engine) (a : Nat) (ra rb : List Nat) : Engine :=
  { e with acc := tset e.acc a ra, accS := if rb = ra then tdel e.accS a else tset e.accS a rb }
/-- The stuck digits of an array on a row. -/
def Engine.stuckOn (e : Engine) (swage : Bool) (a : Nat) : List (Nat × Nat) :=
  (e.stuck.filter (fun k => k.1 = swage && k.2.1 = a)).map (fun k => (k.2.2.1, k.2.2.2))

/-- The row an ACCUM takes: in exposed mode the one that emerges in this cycle, in interlocked mode the oldest untaken one
of the tile (R216). -/
def State.takeRow (s : State) : Option FedRow :=
  let t := (s.tile.getD {}).id
  if s.exposed then s.eng.rows.find? (fun r => r.tile = t && r.left = 0) else s.eng.rows.find? (fun r => r.tile = t)

/-- In interlocked mode an ACCUM waits for its row (R216). -/
def State.rowWait (s : State) (row : Option FedRow) : Wait :=
  if s.exposed then .go else match row with
    | none => .trap (s.mxTrap 0x0D)
    | some r => waitFor (r.left = 0)

/-- ACCUM and ACCUM.set (R236). -/
def State.accum (s : State) (i : Instr) (a : Nat) (set : Bool) : Out :=
  let m := s.eng.active
  let row := if s.tile.isSome then s.takeRow else none
  let beat : Beat := .accum a set (row.map (·.num))
  perform i s.mxUse
    (s.beatWait.and <| (s.opens m).and <| (orTrap (m.afmt != 3 && m.ctlOk) formatFault).and <|
      (orTrap (set || (s.tile.getD {}).init.contains a) (s.mxTrap 0x0D)).and <| (s.beatFits beat).and <|
      (s.rowWait row).and <|
      orTrap (match row with
        | some r => (m.aty != .i32 || r.i8) && (r.q != 1 || m.aty = .f64)
        | none => true) formatFault)
    (fun s =>
      let s := (s.openTile false).addBeat beat
      let half := s.half s.iss.core s.iss.ctx = 1
      let cols := row.map (·.cols)
      let s := s.modEng (fun e =>
        { e.setAcc a (accRow m.aty set (e.accA a) cols (e.stuckOn half a)) (accRow m.aty set (e.accB a) cols (e.stuckOn true a))
          with rows := e.rows.filter (fun r => some r != row) })
      if set then s.modTile (fun t => { t with init := t.init ++ [a] }) else s) s

/-- ACCUM (R236). -/
def execAccum (a : Fin 128) (s : State) : Out := s.accum (.accum a) a.val false
/-- ACCUM.set (R236). -/
def execAccumSet (a : Fin 128) (s : State) : Out := s.accum (.accumSet a) a.val true

/-- The drained row of an array as a number, element 0 lowest (R237). -/
def drainRow (m : MxSet) (ty : Ty) (rm : Rm) (row : List Nat) : Nat :=
  pack ty.width (fun j => reconvert m.aty ty rm m.dsat false (row.getD j 0)) 32 0

/-- The drain format accepted with an accumulator format (R237). -/
def drainTy (m : MxSet) : Option Ty :=
  match tyOf m.dfmt with
  | some t => if m.aty = .i32 then (if t = .i8 || t = .i16 || t = .i32 then some t else none)
    else (if isFloat t then some t else none)
  | none => none

/-- A rounding code (R49). -/
def rmOf : Nat → Option Rm
  | 0 => some .rne
  | 1 => some .rtz
  | 2 => some .rup
  | 3 => some .rdn
  | 4 => some .rna
  | 7 => some .ctx
  | _ => none

/-- DRAIN and DRAIN.clr (R216, R227, R237). A reserved code in mx.drm takes R49's reserved-field trap (log 79). -/
def State.drainBeat (s : State) (i : Instr) (a : Nat) (clr : Bool) : Out :=
  let m := s.eng.active
  let h : HReg := Fin.ofNat 16 m.dh
  let r := s.rh h
  let ty := drainTy m
  let rm := s.rm ((rmOf m.drm).getD .rne)
  let nb := 4 * (ty.getD .f64).width
  let n := (nb + 63) / 64
  let ad := r.slotAddr ((r.cp + r.fill + r.eng) % r.c)
  perform i s.mxUse
    (s.beatWait.and <| (s.opens m).and <|
      (orTrap (m.ctlOk && m.afmt != 3 && ty.isSome) formatFault).and <|
      (orTrap (rmOf m.drm).isSome { cause := 0x04 }).and <|
      (orTrap ((s.tile.getD {}).init.contains a) (s.mxTrap 0x0D)).and <| (orTrap r.v ringTrap).and <|
      (orTrap (nb ≤ r.slotBytes) formatFault).and <| (s.beatFits (.drain a clr rm [])).and <|
      (passes (s.spCheck ad nb 64)).and <|
      (s.ringWait (r.fill + r.eng < r.c)).and <| s.room n)
    (fun s =>
      let (c, x) := (s.iss.core, s.iss.ctx)
      let half := s.half c x
      let t := s.now c
      let ids := (List.range n).map (s.nextId + ·)
      let s := s.openTile false
      let tid := (s.tile.getD {}).id
      let s := s.addBeat (.drain a clr rm ids)
      let va := drainRow m (ty.getD .f64) rm (s.eng.accA a)
      let vb := drainRow m (ty.getD .f64) rm (s.eng.accB a)
      let first := s.nextId
      let s := s.declare ((List.range n).map (fun i => s.useAt (ad + 64 * i) 6 true))
      let s := (List.range n).foldl (fun s i => s.addEntry .none
        (.drain (ad + 64 * i) (BitVec.ofNat 512 (va / 2 ^ (512 * i))) (BitVec.ofNat 64 (2 ^ (min 64 (nb - 64 * i)) - 1))
          half tid (t + 7))) s
      let s := s.effect (.ring h 0 0 1)
      let s := s.modCx (fun k => { k with resv := k.resv ++ [(h.val, first, s.iss.serial, false)] })
      let s := s.modCc (fun k => { k with pubs := k.pubs ++ [(t + 9, x, h.val, first)] })
      let s := s.modEng (fun e =>
        let fold (sig : Dword) (v : Nat) : Dword := BitVec.ofNat 64 (crc64 sig.toNat (bytesOf v nb))
        let act := { e.active with
          siga := if half = 1 then e.active.siga else fold e.active.siga va,
          sigs := if half = 1 then fold e.active.sigs va else if s.cc.split then e.active.sigs else fold e.active.sigs vb }
        { (if clr then e.setAcc a zeroRow zeroRow else e) with active := act })
      s.modTile (fun t' => { t' with unpub := t'.unpub ++ [first] })) s

/-- DRAIN (R237). -/
def execDrain (a : Fin 128) (s : State) : Out := s.drainBeat (.drain a) a.val false
/-- DRAIN.clr (R237). -/
def execDrainClr (a : Fin 128) (s : State) : Out := s.drainBeat (.drainClr a) a.val true

/-- TSWAP; an MREGW of the same bundle faults there (R238, R378). -/
def execTswap (s : State) : Out :=
  perform .tswap s.mxUse ((s.beatWait.and (orTrap s.tile.isNone (s.mxTrap 0x0D))).and (s.opens s.eng.shadow)) (fun s =>
    let s := s.openTile true
    let s := s.modEng (fun e => { e with active := e.shadow, shadow := e.active, sel := !e.sel })
    (s.modTile (fun t => { t with set := s.eng.active, tileId := s.eng.active.tileId })).addBeat .tswap) s

/-- TZERO a, n; the field holds n − 1 (R239). -/
def execTzero (a : Fin 128) (n : Fin 32) (s : State) : Out :=
  let rows := (List.range (n.val + 1)).map (a.val + ·)
  perform (.tzero a n) s.mxUse ((s.beatWait.and (s.opens s.eng.active)).and (s.beatFits (.tzero a.val n.val))) (fun s =>
    let s := (s.openTile false).addBeat (.tzero a.val n.val)
    let s := s.modEng (fun e => rows.foldl (fun e r => e.setAcc r zeroRow zeroRow) e)
    s.modTile (fun t => { t with init := t.init ++ rows })) s

/-- A DRAIN is among a tile's beats (R227). -/
def Tile.drains (t : Tile) : Bool := t.beats.any (fun b => match b.2 with | .drain _ _ _ _ => true | _ => false)

/-- TCLOSE: a beat of another context than the owner waits (R92); with no open tile it has no effect; it waits while three
closed records are not compared (R221, R240). The engine is released in the clock of its issue (log 78), also by an
owner that has come back without its tile (R92). A tile with no DRAIN has the pair of all ones (R227). The TCLOSE itself takes no
entry of the record (R221; log 101). -/
def execTclose (s : State) : Out :=
  perform .tclose s.mxUse
    (s.beatWait.and (if s.tile.isNone then .go else waitFor (s.eng.closed.length < 3)))
    (fun s => match s.tile with
      | none => s.modEng (fun e => if e.owner = some s.iss.ctx then { e with owner := none } else e)
      | some t => s.modEng (fun e =>
        let sig (x : Dword) : Dword := if t.drains then x else BitVec.allOnes 64
        let t := { t with siga := sig e.active.siga, sigs := sig e.active.sigs, serial := s.iss.serial }
        { e with owner := none, tile := none, closed := if s.cc.split then [] else e.closed ++ [t] })) s

/-! ### Steps of an engine (R216) -/

/-- One step of context x for an engine: rows come closer, a row in exposed mode that no ACCUM took goes, and weight rows
of the owner, or of an engine with no owner, come to be seen. -/
def Engine.step (e : Engine) (x : Nat) (exposed : Bool) : Engine :=
  let openTile (r : FedRow) : Bool := match e.tile with | some t => t.id = r.tile | none => false
  let rows := e.rows.filterMap (fun r =>
    if r.ctx != x then some r
    else if r.left = 0 then (if exposed || !openTile r then none else some r)
    else some { r with left := r.left - 1 })
  { e with rows := rows }
/-- A row on its way lands in this step and brings the active bank a format that an AFEED of the open tile has not met
(R220). -/
def Engine.newFormat (e : Engine) : Bool :=
  let b := e.bank false
  (match e.tile with | some t => t.fed | none => false)
    && b.late.any (fun r => r.left ≤ 1 && b.fmt != some r.fmt)
/-- The weight rows on their way, one step. -/
def Engine.stepBanks (e : Engine) : Engine := { e with bank0 := e.bank0.step, bank1 := e.bank1.step }

/-- The task that loaded a row still has its context. -/
def State.loaderHere (s : State) (c : Nat) (q : RowSrc) : Bool := (s.ctx c q.ctx).task = q.task && (s.ctx c q.ctx).status != .free
/-- The tongs' rows whose clock of reading begins are read again: what was committed before it is seen, a write of the line made since
the beat issued among it (R222). -/
def State.tongsReads (s : State) (c : Nat) : State :=
  let now := s.now c
  let again (r : LateRow) : LateRow := match r.from_.src with
    | .tongs va asid => if r.from_.use != now then r else
      match s.tongsRow c r.from_.ctx r.from_.serial asid va (mxRowBytes r.fmt) (s.loaderHere c r.from_) with
      | some d => { r with data := BitVec.ofNat 4096 d }
      | none => r
    | _ => r
  let all (e : Engine) : Engine :=
    { e with bank0 := { e.bank0 with late := e.bank0.late.map again }, bank1 := { e.bank1 with late := e.bank1.late.map again } }
  s.modCore c (fun k => { k with eng0 := all k.eng0, eng1 := all k.eng1 })

/-! ### Comparison and the Hardy (R227 to R231) -/

/-- A chunk as the replay of a beat reads it (R223): the banks as they stand, with the entries of the beat's own task that precede it. -/
def State.chunkBefore (s : State) (c : Nat) (q : RowSrc) (a : Nat) : Nat :=
  let k := s.core c
  let mine := s.loaderHere c q
  k.cb.foldl (fun v e =>
    let before := match e.kind with | .drain _ _ _ _ _ _ => e.serial < q.serial | _ => e.serial ≤ q.serial
    if mine && e.ctx = q.ctx && before then match e.forward a q.use with
      | some (d, be) => mergeBe v d be
      | none => v else v) (mread k.sp.data a 64)

/-- The n bytes of a source at replay time (R223). -/
def State.replayBytes (s : State) (c : Nat) (q : RowSrc) (n : Nat) : Nat :=
  match q.src with
  | .spad a => pack 512 (fun i => s.chunkBefore c q (a + 64 * i)) ((n + 63) / 64) 0 % 2 ^ (8 * n)
  | .tongs va asid => (s.tongsRow c q.ctx q.serial asid va n (s.loaderHere c q) false).getD 0

/-- The replay so far: accumulator rows, rows fed, signature, bytes of each DRAIN entry. -/
structure Replay where
  acc  : Tab (List Nat) := []
  rows : List (List Sum) := []
  sig  : Nat := 2 ^ 64 - 1
  out  : List (Nat × Nat) := []
  accums : Nat := 0

/-- One beat replayed. A weight row that a resume brought back has no source, since the save area gives it none (R419): it is replayed
as +0 (log 104). -/
def State.replayBeat (s : State) (c : Nat) (t : Tile) (p : Replay) (b : Nat × Beat) : Replay :=
  match b.2 with
  | .afeed f _ a use wf valid srcs =>
    let bytes := s.replayBytes c { ctx := t.ctx, task := (s.ctx c t.ctx).task, serial := b.1, use := use, src := .spad a } (mxRowBytes f)
    let row (i : Nat) : Option Nat :=
      match wf, srcs.find? (fun q => q.1 = i) with
      | some w, some (_, q) => if valid.getLsbD i then some (s.replayBytes c q (mxRowBytes w)) else none
      | _, _ => none
    { p with rows := p.rows ++ [feedCols f bytes wf row] }
  | .accum a set row =>
    { p with accums := p.accums + 1,
             acc := tset p.acc a (accRow t.set.aty set (tget p.acc a zeroRow) (row.bind (fun n => p.rows[n]?)) []) }
  | .drain a clr rm ents =>
    let ty := (drainTy t.set).getD .f64
    let v := drainRow t.set ty rm (tget p.acc a zeroRow)
    { p with sig := crc64 p.sig (bytesOf v (4 * ty.width)),
             out := p.out ++ ents.zipIdx.map (fun q => (q.1, v / 2 ^ (512 * q.2) % 2 ^ 512)),
             acc := if clr then tset p.acc a zeroRow else p.acc }
  | .tzero a n => { p with acc := (List.range (n + 1)).foldl (fun t i => tset t (a + i) zeroRow) p.acc }
  | _ => p

/-- The Hardy's replay of a tile of core c (R229, R230). Its own signature starts where the Anvil's did at the tile's first beat, also
where the Swage's stood elsewhere (log 103). -/
def State.replay (s : State) (c : Nat) (t : Tile) : Replay := t.beats.foldl (s.replayBeat c t) { sig := t.set.siga.toNat }

/-- Clocks of the replay: K of the class of the record's AFEEDs, A its ACCUM beats (R230). -/
def Tile.replayClocks (t : Tile) : Nat :=
  let k := (t.beats.findSome? (fun b => match b.2 with | .afeed f _ _ _ _ _ _ => (mxClass f).map (32 * ·) | _ => none)).getD 0
  40 + 4 * k * (t.beats.filter (fun b => match b.2 with | .accum _ _ _ => true | _ => false)).length

/-- No clock: draining is stopped. -/
def never : Nat := 2 ^ 64

/-- The closed tile with a number on a core. -/
def State.closedTile (s : State) (c id : Nat) : Option Tile := (s.core c).eng0.closed.find? (fun t => t.id = id)

/-- The Hardy of a cluster takes the next failed comparison, if it is free (R230): one that has waited, in the clock of the decision
before it (log 102). -/
def State.hardyNext (s : State) (k : Nat) : State :=
  let h := (s.clu k).hardy
  match h.until_, h.queue with
  | none, (c, id, _) :: _ =>
    let due := s.pcyc + ((s.closedTile c id).getD {}).replayClocks + 1
    (s.modClu k (fun u => { u with hardy := { u.hardy with until_ := some due } })).sched_ due 0 .hardyDecision { n := k }
  | _, _ => s

/-- A record about a tile (R229, R412). -/
def State.tileRecord (s : State) (c x cause sub : Nat) (t : Tile) (hardy : Nat) : State :=
  s.post (s.recOf c x { cls := 3, cause := cause, sub := sub, slot := 5, info := t.tileId, addr := hardy, d0 := t.siga.toNat,
                        d1 := t.sigs.toNat })

/-- Writes that waited for a pinned line and need not any more are applied, in order of arrival (R284). -/
def State.releasePinned (s : State) (k : Nat) : State :=
  let go := fun (s : State) (id : Nat) => match s.req? id with
    | some r => if r.served || (match r.p with | some p => (s.pinnedBy p).isSome | none => false) then s
        else State.now_ (s.modClu k (fun u => { u with inbuf := u.inbuf.filter (· != id) })) r.applyEv { id := id }
    | none => s.modClu k (fun u => { u with inbuf := u.inbuf.filter (· != id) })
  s.inOrder (fun s =>
    let s := (s.clu k).inbuf.foldl go s
    if (s.clu k).spill.isEmpty then s else s.now_ .spillQueueReturn { n := k })

/-- TILE_COMPARISON: core, id (R228, R229). -/
def execTileComparison (s : State) : Out :=
  let (c, id) := (s.arg.core, s.arg.id)
  match s.closedTile c id with
  | none => .next s
  | some t =>
    if t.siga = t.sigs then
      .next ((s.modCore c (fun k => { k with eng0 := { k.eng0 with closed := k.eng0.closed.filter (fun u => u.id != id) } }))
        |>.releasePinned (clusOf c))
    else
      let s := s.modCore c (fun k => { k with stopDrain := never, eng0 := { k.eng0 with closed := k.eng0.closed.map (fun u =>
        if u.id = id then { u with failed := true } else u) } })
      .next ((s.modClu (clusOf c) (fun u => { u with hardy := { u.hardy with queue := u.hardy.queue ++ [(c, id, s.pcyc)] } }))
        |>.hardyNext (clusOf c))

/-- The management core pre-empts tasks of a core that can no longer run them, and moves their launches to another (R231, R415,
R420). -/
def State.preemptAll (s : State) (c : Nat) (of : Launch → Bool) : State :=
  let hit := (s.core c).ctxs.filter (fun p => p.2.status != .free && of (s.launch p.2.launch))
  let s := hit.foldl (fun (s : State) p => s.after 0 0 .preemptRequest { core := c, ctx := p.1, id := p.2.task, flag := true }) s
  let moved := ((hit.map (·.2.launch)) ++ (s.saves.filter (fun w => w.core = c && of (s.launch w.launch))).map (·.launch)).eraseDups
  moved.foldl (fun (s : State) l => s.after 0 0 .launchMove { core := c, id := l, flag := true }) s

/-- An array is named suspect; at the second time within 2^30 clocks it is retired and the core becomes matrix-less, its mxen
bit clearing in the clock of the retirement (R24: within 64 clocks of it; DESIGN CHOICE, log 84); the management core pre-empts
the contexts of matrix launches (R231). -/
def State.suspect (s : State) (c x : Nat) (swage : Bool) (t : Tile) (hardy : Nat) : State :=
  let k := s.core c
  let last := if swage then k.sLast else k.aLast
  let retire := match last with | some t => s.pcyc ≤ t + 2 ^ 30 | none => false
  let s := s.modCore c (fun k => if swage then { k with ssus := k.ssus + 1, sLast := some s.pcyc, sret := k.sret || retire }
    else { k with asus := k.asus + 1, aLast := some s.pcyc, aret := k.aret || retire })
  if retire then
    let s := (s.modDie (coreDie c) (fun d => { d with mxen := d.mxen &&& ~~~(BitVec.ofNat 48 (2 ^ (c % 48))) })).tileRecord
      c x 0x1B 5 t hardy
    s.preemptAll c (·.mx)
  else s

/-- Draining of a core resumes on the clock after the Hardy's decision, plus those of an overwrite, unless another tile of the
core waits for the Hardy (R229, R230). -/
def State.resumeDrain (s : State) (c : Nat) (rest : List (Nat × Nat × Nat)) (extra : Nat) : State :=
  s.modCore c (fun q => if (rest.any (fun w => w.1 = c)) then q else { q with stopDrain := s.pcyc + 1 + extra })

/-- HARDY_DECISION: n, the cluster (R229, R230). -/
def execHardyDecision (s : State) : Out :=
  let k := s.arg.n
  match (s.clu k).hardy.queue with
  | [] => .next s
  | (c, id, _) :: rest =>
    let s := s.modClu k (fun u => { u with hardy := { queue := rest, until_ := none } })
    match s.closedTile c id with
    -- its context has rolled back or ended since
    | none => .next ((s.resumeDrain c rest 0).hardyNext k)
    | some t =>
      let x := t.ctx
      let r := s.replay c t
      let held := (s.core c).cb.filter (fun e => match e.kind with | .drain _ _ _ _ i _ => i = id | _ => false)
      let read := held.any (·.read)
      let eqA : Bool := r.sig = t.siga.toNat
      let eqS : Bool := r.sig = t.sigs.toNat
      let drop (s : State) : State := s.modCore c (fun k =>
        { k with eng0 := { k.eng0 with closed := k.eng0.closed.filter (fun u => u.id != id) } })
      let (s, extra) :=
        if eqA && eqS then (drop (s.tileRecord c x 0x1B 0 t r.sig), 0)
        else if eqA then (drop ((s.tileRecord c x 0x1B 1 t r.sig).suspect c x true t r.sig), 0)
        else if eqS && !read then
          let s := (s.tileRecord c x 0x1B 2 t r.sig).suspect c x false t r.sig
          let s := s.modCore c (fun k => { k with cb := k.cb.map (fun e => match e.kind, r.out.find? (fun o => o.1 = e.id) with
            | .drain a _ be g i f, some (_, d) => { e with kind := .drain a (BitVec.ofNat 512 d) be g i f }
            | _, _ => e) })
          (drop s, held.length)
        else if eqS then
          let s := (s.tileRecord c x 0x1B 3 t r.sig).suspect c x false t r.sig
          ((drop s).rollback c x .rolling, 0)
        else
          let s := s.tileRecord c x 0x1C 0 t r.sig
          let s := s.modCore c (fun k => { k with trip := k.trip + 1 })
          let gin := (s.launch (s.ctx c x).launch).gin
          (((drop s).dropHeld c x).cancelGin (coreDie c) gin, 0)
      .next (((s.resumeDrain c rest extra).releasePinned k).hardyNext k)

end Sys2Proof.Machine
end

