-- ==== Sys2Proof/Machine/Engines.lean ====
section
/-! DEFINITION. The E-slot instructions and the header flags: copies and timelines, sync objects, fences, barriers, engine
registers, messages, collectives, launches, banks and power (R106, R321 to R324, R334, R364 to R390). -/

namespace Sys2Proof

/-- The comparisons of ACQ and ACQP (R368). -/
def AcqCmp.holds (c : AcqCmp) (a b : Dword) : Bool :=
  match c with
  | .eq => a = b
  | .ne => a != b
  | .ge => !a.slt b
  | .geu => !a.ult b
  | .gt => b.slt a
  | .gtu => b.ult a

namespace Machine

/-- NOP (R107). -/
def execNop (s : State) : Out := perform .nop none .go (fun s => s) s

/-- A usage error with its sub code (R410). -/
def usageTrap (sub : Nat) (a : Nat) : Trap := { cause := 0x11, sub := sub, addr := a }

/-! ### Copy commands (R321 to R324) -/

/-- A scalar floating-point code from or to which Billet records are made (R324). -/
def billetSide (f : Nat) : Bool := f ≤ 3
/-- A Billet code (R44). -/
def isBillet (f : Nat) : Bool := 0x10 ≤ f && f ≤ 0x12
/-- Source and destination bytes of the smallest whole conversion; none where check 3 of R324 fails. -/
def CopyCmd.unit (c : CopyCmd) : Option (Nat × Nat) :=
  let (sf, df) := (c.f 14 5, c.f 19 5)
  let w (f : Nat) : Nat := (tyOf f).elim 8 Ty.width
  if c.isCvt then
    if billetSide sf && isBillet df then some (16 * w sf, recordBytes (df - 16))
    else if isBillet sf && billetSide df then some (recordBytes (sf - 16), 16 * w df)
    else if sf ≤ 13 && df ≤ 13 then some (w sf / 8, w df / 8)
    else none
  else if c.isRed then (if df ≤ 13 then some (w df / 8, w df / 8) else none)
  else some (1, 1)
/-- Bytes of an element of the IDX or XPS stage, or of one conversion (R323). -/
def CopyCmd.elemBytes (c : CopyCmd) : Nat :=
  if c.isIdx then 4 * 2 ^ fld c.aux0.toNat 54 3
  else if c.isXps then 2 ^ fld c.aux0.toNat 32 3
  else (c.unit.getD (1, 1)).1
/-- Delivered bytes of n source bytes. -/
def CopyCmd.conv (c : CopyCmd) (n : Nat) : Nat := let u := c.unit.getD (1, 1); n / u.1 * u.2
/-- Source bytes of the whole command. -/
def CopyCmd.srcBytes (c : CopyCmd) : Nat := if c.isIdx then c.len * c.elemBytes else c.len
/-- Bytes delivered to one destination: M of R326. -/
def CopyCmd.delivered (c : CopyCmd) : Nat := c.conv c.srcBytes

/-- Check 1 of R324. -/
def CopyCmd.bitsOk (c : CopyCmd) (x : Bool) : Bool :=
  let (a0, a1) := (c.aux0.toNat, c.aux1.toNat)
  let a0Ok := if c.isIdx then fld a0 57 7 = 0 && fld a0 54 3 ≤ 5 && a0 % 4 = 0
    else if c.isXps then fld a0 35 29 = 0 && fld a0 32 3 ≤ 3 else a0 = 0
  let a1Ok := c.isSigv || (if c.isIdx && !c.b 9 then fld a1 32 32 = 0 else a1 = 0)
  let fmtOk := c.isCvt || (if c.isRed then c.f 14 5 = c.f 19 5 else c.f 14 5 = 0 && c.f 19 5 = 0)
  let mcOk := !c.isMc || c.dk = 1 || (c.dk = 2 && (match spadPlace c.dst 2 c.core with
    | some (k, _, _) => clusOf k = clusOf c.core && k < 384 | none => false))
  c.f 43 21 = 0 && a0Ok && a1Ok && fmtOk && c.f 24 3 != 5 && c.f 24 3 != 6 && c.f 28 4 ≤ 8 && c.sk != 3
    && (!c.isSigv || c.isSig) && !(c.isIdx && c.isXps) && mcOk
    && !(c.dk = 3 && (c.isRed || c.isMc || c.isTagf || c.b 1)) && (x || !(c.isIdx || c.isXps || c.isSigv))

/-- Check 2 of R324. Under IDX the indexed side is checked piece by piece (R330). -/
def CopyCmd.sizesOk (c : CopyCmd) (r : Ring) : Bool :=
  let side (kind a n : Nat) : Bool := match spadPlace a kind c.core with
    | some (_, _, b) => b + n ≤ 2 ^ 22
    | none => false
  let srcN := if c.isIdx && !c.b 1 then 0 else c.srcBytes
  let dstN := if c.isScat then 0 else c.delivered
  1 ≤ c.len && c.len ≤ 2 ^ 32
    && (!c.isIdx || (c.len ≤ 2 ^ 20 && c.aux0.toNat % 2 ^ 22 + 4 * c.len ≤ 2 ^ 22))
    && (!c.isXps || (c.len = fld c.aux0.toNat 0 16 * fld c.aux0.toNat 16 16 * c.elemBytes && c.len ≤ 65536))
    && (c.sk = 0 || side c.sk c.src srcN)
    && (match c.dk with
      | 0 => true
      | 3 => c.dst < 16 && c.delivered ≤ r.slotBytes
      | k => side k c.dst dstN)
    && (!c.isTagf || ((c.dk = 1 || c.dk = 2) && c.dst % 8 = 0 && c.delivered % 8 = 0))

/-- Check 3 of R324. Elements of the IDX and XPS stages hold whole conversions (DEDUCED). -/
def CopyCmd.formatsOk (c : CopyCmd) : Bool :=
  (match c.unit with
    | some (u, _) => c.srcBytes % u = 0 && (!(c.isIdx || c.isXps) || c.elemBytes % u = 0)
    | none => false)
  && (!c.isRed || (match tyOf (c.f 19 5) with
    | some t => if c.f 28 4 = 0 then (t = .f32 || t = .f16 || t = .bf16) else !isFloat t
    | none => false))

/-- Check 5 of R324: remote places meet R302. The address of the side that does not. -/
def State.copyPlace (s : State) (c : CopyCmd) : Option Nat :=
  let ok (k : Nat) (half : Bool) : Bool := k < 384 && s.placeOk (coreDie k) (coreClus k) (coreK k) half
  let one (kind a : Nat) : Bool := if kind != 2 then true else match spadPlace a 2 c.core with
    | some (k, h, _) => ok k h
    | none => true
  if !one c.sk c.src then some c.src
  else if if c.isMc then c.dests.all (fun k => ok k (c.dk = 2 && bit c.dst 22)) else if c.dk = 3 then true else one c.dk c.dst then none
  else some c.dst

/-- The banks of the local sides (R386): the address of the first side with a bank that is not the launch's. -/
def State.copyBank (s : State) (c : CopyCmd) (r : Ring) : Option Nat :=
  let slot := r.slotAddr ((r.cp + r.fill + r.eng) % r.c)
  let sides : List (Bool × Nat × Nat) :=
    [(c.sk = 1 && !(c.isIdx && !c.b 1), c.src, c.srcBytes), (c.dk = 1 && !c.isScat, c.dst, c.delivered),
     (c.isIdx, c.aux0.toNat % 2 ^ 22, 4 * c.len), (c.dk = 3, slot, c.delivered)]
  (sides.find? (fun p => p.1 && !s.banksOk p.2.1 p.2.2)).map (·.2.1)

/-- CPY and CPYX (R321 to R325). -/
def State.copyForm (s : State) (i : Instr) (x : Bool) (cmd : CopyCmd) : Out :=
  let desc := usageTrap 1 cmd.dst
  let h : HReg := Fin.ofNat 16 cmd.dst
  let r := s.rh h
  perform i
    (firstTrap [need (cmd.bitsOk x) desc, need (cmd.sizesOk r) desc, need cmd.formatsOk formatFault,
      need (cmd.time ≤ s.pcyc + 2 ^ 32) desc, (s.copyPlace cmd).map lrtTrap,
      need (cmd.dk != 3 || r.v) ringTrap, (s.copyBank cmd r).map bankTrap])
    ((if cmd.dk = 3 then s.ringWait (r.fill + r.eng < r.c) else .go).and (s.room 1))
    (fun s =>
      let cmd := { cmd with slot := if cmd.dk = 3 then r.slotAddr ((r.cp + r.fill + r.eng) % r.c) else 0,
                            rm := s.rm ((rmOf (cmd.f 24 3)).getD .rne) }
      let id := s.nextId
      let s := s.addEntry .none (.copy cmd)
      if cmd.dk = 3 then
        (s.effect (.ring h 0 0 1)).modCx (fun k => { k with resv := k.resv ++ [(h.val, id, s.iss.serial, false)] })
      else s) s

/-- The command that the operands of CPY or CPYX give (R321). -/
def State.copyCmd (s : State) (d a b c : SReg) (sc : Scope) (eng : Fin 2) (tl : Fin 64) (x : Bool) : CopyCmd :=
  { core := s.iss.core, ctx := s.iss.ctx, launch := s.cx.launch, gin := s.cl.gin, src := (s.rs a).toNat,
    dst := (s.rs b).toNat, len := (s.rs c).toNat, mw := s.rs d, eng := eng.val, tl := tl.val, sc := sc,
    time := if x then (s.rs (d + 1)).toNat else 0, aux0 := if x then s.rs (d + 2) else 0#64,
    aux1 := if x then s.rs (d + 3) else 0#64 }

/-- CPY (R321, R334). -/
def execCpy (d a b c : SReg) (sc : Scope) (eng : Fin 2) (tl : Fin 64) (s : State) : Out :=
  s.copyForm (.cpy d a b c sc eng tl) false (s.copyCmd d a b c sc eng tl false)

/-- CPYX (R321, R334). -/
def execCpyx (d a b c : SReg) (sc : Scope) (eng : Fin 2) (tl : Fin 64) (s : State) : Out :=
  s.copyForm (.cpyx d a b c sc eng tl) true (s.copyCmd d a b c sc eng tl true)

/-- What CPQ reads of an engine of a cluster (R334). -/
def State.engineState (s : State) (k eng sel : Nat) : Nat :=
  let all := s.copies.filter (fun r => r.clus = k && r.cmd.eng = eng && r.phase != .sent)
  let wait := all.filter (fun r => r.phase = .queued)
  match sel with
  | 0 => 64 - all.length
  | 1 => wait.length
  | 2 => all.length - wait.length
  | 3 => (all.filter (fun r => r.phase = .parked)).length
  | _ => wait.foldl (fun m r => min m r.cmd.time) (2 ^ 64 - 1)

/-- CPQ (R334, R453). -/
def execCpq (d : SReg) (eng : Fin 2) (sel : Fin 5) (s : State) : Out :=
  perform (.cpq d eng sel) none .go (fun s =>
    s.varIn 7 (.s d (BitVec.ofNat 64 (s.engineState (clusOf s.iss.core) eng.val sel.val)))) s

/-! ### Timelines (R332 to R334) -/

/-- Timeline n of core c. -/
def State.tl (s : State) (c n : Nat) : Timeline := tget (s.core c).tls n {}
/-- It changed. -/
def State.modTl (s : State) (c n : Nat) (f : Timeline → Timeline) : State :=
  s.modCore c (fun k => { k with tls := tset k.tls n (f (tget k.tls n {})) })

/-- tl.val over consecutive completed numbers (R333). -/
def Timeline.settle : Nat → Timeline → Timeline
  | 0, t => t
  | n + 1, t => match t.done.find? (fun p => p.1 = (t.val.toNat + 1) % 2 ^ 64) with
    | some (k, sig) =>
      Timeline.settle n { t with val := t.val + 1#64, sig := sig, done := t.done.filter (fun p => p.1 != k) }
    | none => t
/-- Number n completes with its fold and the time it carries (R333, R334). -/
def Timeline.complete (t : Timeline) (n : Nat) (sig : Dword) (wts : Nat) : Timeline :=
  let t := { t with done := t.done ++ [(n, sig)], times := if wts = 0 then t.times else t.times ++ [(n, wts)] }
  t.settle t.done.length
/-- The next number of a timeline. -/
def Timeline.number (t : Timeline) : Timeline := { t with rel := t.rel + 1#64 }
/-- A field of a timeline (R334). -/
def Timeline.field (t : Timeline) (sel : Nat) : Dword :=
  match sel with
  | 0 => t.val
  | 1 => t.rel
  | 2 => BitVec.ofNat 64 (min t.oob (2 ^ 32 - 1))
  | 3 => t.sig
  | _ => if t.park = 0 then 0#64 else 1#64

/-- TLRD: the field is read when the result lands (R334, R453). -/
def execTlrd (d : SReg) (tl : Fin 64) (sel : Fin 5) (s : State) : Out :=
  perform (.tlrd d tl sel) none .go (fun s =>
    let id := s.nextId
    let s := s.varIn 3 (.s d 0#64)
    { s with vres := s.vres.map (fun (v : VRes) => if v.id = id then { v with tl := some (tl.val, sel.val) } else v) }) s

/-- TLWAIT: the engine trap on a parked timeline, a wait for the count, an acquire of what the commands wrote (R334). -/
def execTlwait (a : SReg) (sc : Scope) (tl : Fin 64) (s : State) : Out :=
  let t := s.tl s.iss.core tl.val
  let n := s.rs a
  perform (.tlwait a sc tl) (need (t.park = 0) { cls := 1, cause := 0x17 }) (waitFor (!t.val.ult n))
    (fun s => s.raiseLt s.iss.core s.iss.ctx
      ((t.times.filter (fun p => p.1 ≤ n.toNat)).foldl (fun m p => max m p.2) 0)) s

/-- TLADV (R334). -/
def execTladv (a : SReg) (set : Bool) (tl : Fin 64) (s : State) : Out :=
  let t := s.tl s.iss.core tl.val
  perform (.tladv a set tl) none (s.waitDrain.and (waitFor (t.val = t.rel))) (fun s =>
    let v := s.rs a
    s.modTl s.iss.core tl.val (fun t => if set then { t with val := v, rel := v, done := [] }
      else { t with val := t.val + v, rel := t.rel + v, done := [] })) s

/-! ### Fences, sync objects and acknowledgements (R342 to R345, R350, R355, R366 to R374) -/

/-- Every earlier read of the issuing context has delivered its data to its register (R355). In exposed mode a result advances only
with the context's own issue cycles (R139), so a FENCE behind a load in flight waits until something else ends its wait (log 17). -/
def State.readsBack (s : State) : Bool :=
  let (c, x) := (s.iss.core, s.iss.ctx)
  let k := s.cx
  !k.r.flight.any (·.ld)
    && !s.vres.any (fun v => v.core = c && v.ctx = x && v.ld)
    && !s.groups.any (fun g => g.who = .ctx c x)
    && !k.comps.any (fun q => match q with | .atomic _ => true | _ => false)

/-- FENCE (R355, R366). -/
def execFence (sc : Scope) (s : State) : Out :=
  perform (.fence sc) none ((s.waitRelease sc).and (waitFor s.readsBack)) (fun s => s.seesAcks s.iss.core s.iss.ctx sc) s

/-- The checks of R367: the binding, the table, its coherence, the alignment. -/
def State.syncCheck (s : State) (n : BReg) (perm : Lrt → Bool) : Except Trap Lrt :=
  let b := s.cx.r.b[n.val]
  let a := b.sync.toNat
  if !b.v then .error (usageTrap 2 0)
  else match s.cl.lrtFind a 16 perm with
    | .error t => .error t
    | .ok e => if e.coh = 2 then .error (permTrap a e.asid)
        else if a % 16 != 0 then .error { alignTrap a with asid := e.asid } else .ok e

/-- The bound ranges of a sync word in the bindings of a context (R343). -/
def Ctx.ranges (k : Ctx) (va : Nat) : List (Nat × Nat) :=
  (k.r.b.toList.filter (fun b => b.v && b.sync.toNat = va)).map (fun b => (b.base.toNat, b.limit.toNat))

/-- A line lies in one of the ranges; the lines of a range carry the identifier of its entry (R41). -/
def lineIn (rs : List (Nat × Nat × Nat)) (k : CLine) : Bool := rs.any (fun r => r.1 ≤ k.va && k.va < r.2.1 && r.2.2 = k.asid)
/-- Ranges with the identifier of their entry in the table of a launch. -/
def State.bound (s : State) (l : Nat) (rs : List (Nat × Nat)) : List (Nat × Nat × Nat) :=
  rs.filterMap (fun r => match (s.launch l).lrtFind r.1 1 (fun _ => true) with
    | .ok e => some (r.1, r.2, e.asid)
    | .error _ => none)
/-- A line lies in one of the ranges under the table of a launch. -/
def State.inRanges (s : State) (l : Nat) (rs : List (Nat × Nat)) (k : CLine) : Bool := lineIn (s.bound l rs) k

/-- A copy dropped: none of its clean bytes serves any more. What is left of it, if anything: its dirty bytes, which are the
holder's own writes (R344), its pins (R318), or that it is write-pending (R340). -/
def CLine.dropped (k : CLine) : Option CLine :=
  if k.dirty = 0#128 && k.pins = 0 && k.wpend = 0 then none
  else some { k with valid := if k.wpend = 0 then k.dirty else k.valid, lease := 0 }
/-- The copies of a list that meet a condition dropped. -/
def dropWhere (l : List CLine) (p : CLine → Bool) : List CLine := l.filterMap (fun k => if p k then k.dropped else some k)
/-- Copies of lines that meet a condition dropped from the L1 of a core, and at a wide scope from the slice of its cluster; a
fill on its way there is not kept (R319, R344). -/
def State.dropLines (s : State) (c : Nat) (wide : Bool) (p : CLine → Bool) : State :=
  let hits (r : Req) : Bool :=
    (match r.want with | .read _ | .prefetch _ => true | _ => false)
      && (match r.who with | .ctx e _ => if wide then clusOf e = clusOf c else e = c | _ => false)
      && p { asid := r.g.ent.asid, va := r.g.va / 128 * 128, data := 0#1024, valid := 0#128, ent := r.g.ent }
  let s := s.modCore c (fun k => { k with l1 := dropWhere k.l1 p })
  let s := if wide then s.modClu (clusOf c) (fun k => { k with l2 := dropWhere k.l2 p }) else s
  { s with reqs := s.reqs.map (fun r => if hits r then { r with nofill := true } else r) }
/-- Clean copies of ranges dropped at a scope (R344 step 3). -/
def State.dropClean (s : State) (c l : Nat) (rs : List (Nat × Nat)) (sc : Scope) : State :=
  match sc with
  | .core => s
  | .clus => s.dropLines c false (s.inRanges l rs)
  | _ => s.dropLines c true (s.inRanges l rs)

/-- A poll of a sync word is under way: sent when none is (R344). -/
def State.poll (s : State) (va : Nat) (e : Lrt) : State :=
  if s.cx.syncReq.isSome then s
  else
    let id := s.nextId
    let s := s.ask (s.mine { va := va, len := 16, ent := e } .sync)
    s.modCx (fun k => { k with syncReq := some id, sync := none })

/-- The poll of the issuing context ends. -/
def State.endPoll (s : State) : State :=
  let s := match s.cx.syncReq with | some id => s.endReq id | none => s
  s.modCx (fun k => { k with syncReq := none, sync := none })

/-- The answer that satisfies a comparison, if the home has given one. -/
def State.satisfied (s : State) (va : Nat) (b : SReg) (cmp : AcqCmp) : Option SyncAns :=
  match s.cx.sync with
  | some a => if a.va = va && AcqCmp.holds cmp (a.word.setWidth 64) (s.rs b) then some a else none
  | none => none

/-- The shape of ACQ and ACQP: a poll of the word at its home, then the effect on the answer. -/
def State.acquire (s : State) (i : Instr) (n : BReg) (b : SReg) (cmp : AcqCmp) (act : SyncAns → Lrt → State → State) : Out :=
  let va := s.cx.r.b[n.val].sync.toNat
  let chk := s.syncCheck n (·.rd)
  match s.satisfied va b cmp with
  | some a => perform i (trapOf chk) .go (fun s =>
      act a (entOf chk) (s.endPoll.raiseLt s.iss.core s.iss.ctx a.wts)) s
  | none =>
    let s' := if s.stalled i || (trapOf chk).isSome then s else s.poll va (entOf chk)
    perform i (trapOf chk) .hold (fun s => s) s'

/-- ACQ (R344, R369). -/
def execAcq (n : BReg) (b : SReg) (sc : Scope) (cmp : AcqCmp) (s : State) : Out :=
  s.acquire (.acq n b sc cmp) n b cmp (fun a _ s => s.dropClean s.iss.core s.cx.launch (s.cx.ranges a.va) sc)

/-- The release's recorded scope includes a core (R345). -/
def scopeHas (sc : Nat) (src dst : Nat) (srcHalf dstHalf : Bool) : Bool :=
  match sc with
  | 0 => src = dst && srcHalf = dstHalf
  | 1 => clusOf src = clusOf dst
  | 2 => coreDie src = coreDie dst
  | _ => true

/-- ACQP (R350, R371): the status is known at once, or after a promotion that the core of the last releaser serves. -/
def execAcqp (d : SReg) (n : BReg) (b : SReg) (sc : Scope) (cmp : AcqCmp) (s : State) : Out :=
  s.acquire (.acqp d n b sc cmp) n b cmp (fun a e s =>
    let (c, x) := (s.iss.core, s.iss.ctx)
    let w := a.word.toNat
    let from_ := coreNo (fld w 96 3) (fld w 99 4) (fld w 103 2)
    let wsc := fld w 106 3
    let quick : Option Nat :=
      if 2 ≤ wsc || (!bit w 125 && e.home != 4 && scopeHas wsc from_ c (bit w 105) (s.half c x = 1)) || fld w 64 32 = 0 then some 0
      else if bit w 125 || e.home = 3 || e.home = 4 then some 3
      else none
    match quick with
    | some st =>
      let s := s.dropClean c s.cx.launch (s.cx.ranges a.va) sc
      let (t, s) := s.delay
      s.varIn (1 + t) (.s d (BitVec.ofNat 64 st))
    | none =>
      let id := s.nextId
      let p : Promo := { id := id, core := c, ctx := x, task := s.cx.task, sc := sc, va := a.va, asid := e.asid,
                         seq := fld w 64 32, ep := fld w 109 16, target := from_ }
      let s := { s with nextId := s.nextId + 1, promos := s.promos ++ [p] }
      let s := s.varAt none (.s d 0#64)
      (s.modCx (fun k => { k with comps := k.comps ++ [.promo id] })).after (s.meshWait (coreDie from_)) 0 .promotionRequest { id := id }) 

/-- REL: the drain, then steps 2 to 5 as the bundle's completion (R343, R370). -/
def execRel (n : BReg) (b : SReg) (sc : Scope) (s : State) : Out :=
  let va := s.cx.r.b[n.val].sync.toNat
  let chk := s.syncCheck n (·.wr)
  perform (.rel n b sc) (trapOf chk) s.waitDrain (fun s =>
    let rs := s.cx.ranges va
    let sc := if 2 < rs.length && (sc = .core || sc = .clus) then .die else sc
    let id := s.nextId
    let r : RelRun := { id := id, core := s.iss.core, ctx := s.iss.ctx, task := s.cx.task, launch := s.cx.launch,
                        serial := s.iss.serial, pos := s.iss.pos, va := va, ent := entOf chk, val := s.rs b, sc := sc,
                        ranges := rs, sn := s.cx.sendNo }
    State.modCx { s with nextId := id + 1, rels := s.rels ++ [r] } (fun k => { k with comps := k.comps ++ [.rel id] })) s

/-- A binding meets R41. -/
def bindOk (l : Launch) (sync base limit : Nat) : Bool :=
  sync % 16 = 0 && base % 128 = 0 && limit % 128 = 0 && base < limit
    && l.lrt.any (fun e => e.v && e.coh = 1 && e.base ≤ base && limit ≤ e.limit)
    && l.lrt.any (fun e => e.v && e.wr && e.coh != 2 && e.base ≤ sync && sync + 16 ≤ e.limit)

/-- BIND (R372). -/
def execBind (n : BReg) (a b c : SReg) (s : State) : Out :=
  perform (.bind n a b c) (need (bindOk s.cl (s.rs a).toNat (s.rs b).toNat (s.rs c).toNat) (usageTrap 2 (s.rs a).toNat)) .go
    (fun s => s.effect (.bind n { sync := s.rs a, base := s.rs b, limit := s.rs c, v := true })) s

/-- UNBIND (R373). -/
def execUnbind (n : BReg) (s : State) : Out := perform (.unbind n) none .go (fun s => s.effect (.bind n {})) s

/-- WACK (R374). -/
def execWack (s : State) : Out := perform .wack none (s.waitDrain.and (waitFor (s.cx.pbytes = 0))) (fun s => s) s

/-! ### Barriers (R375 to R377) -/

/-- Bit position of field k of the WID (R34). -/
def Launch.widPos (l : Launch) (k : Nat) : Nat := ((List.range (min k l.nf)).map l.w).foldl (· + ·) 0
/-- Size of a level-k group (R35). -/
def Launch.groupSize (l : Launch) (k : Nat) : Nat := ((List.range (min k l.nf)).map (fun j => l.ub j + 1)).foldl (· * ·) 1
/-- Number of the level-k group of a WID (R35). -/
def Launch.groupOf (l : Launch) (k wid : Nat) : Nat := if l.nf ≤ k then 0 else wid / 2 ^ l.widPos k
/-- The scope at which the barrier of level k orders (R375). -/
def Launch.barScope (l : Launch) (k : Nat) : Scope :=
  match l.lb k with
  | 1 => .core
  | 2 => .clus
  | 3 => .die
  | _ => .pkg

/-- The barrier of a context at a level, in a state that holds it. -/
def State.barrier (s : State) (c x k : Nat) : State × Barrier :=
  let t := s.ctx c x
  let l := s.launch t.launch
  let g := l.groupOf k t.wid.toNat
  match s.bars.find? (fun b => b.launch = l.id && b.level = k && b.group = g) with
  | some b => (s, b)
  | none =>
    let b : Barrier := { id := s.nextId, launch := l.id, level := k, group := g, size := l.groupSize k }
    ({ s with nextId := s.nextId + 1, bars := s.bars ++ [b] }, b)
/-- One barrier changed. -/
def State.modBar (s : State) (id : Nat) (f : Barrier → Barrier) : State :=
  { s with bars := s.bars.map (fun b => if b.id = id then f b else b) }
/-- Every task of the group has arrived for the current generation (R376, R377). -/
def Barrier.full (b : Barrier) : Bool := 0 < b.here && b.size ≤ b.here + (b.ended.filter (fun n => n ≤ b.done.toNat)).length
/-- A barrier that is full completes next. -/
def State.checkBar (s : State) (id : Nat) : State :=
  match s.bars.find? (fun b => b.id = id) with
  | some b => if b.full then s.now_ .barrierComplete { id := id } else s
  | none => s

/-- Arrivals of the issuing context at level k. -/
def Ctx.arrOf (t : Ctx) (k : Fin 7) : Word32 := t.arr[k.val]

/-- The arrival of the issuing context (R376). -/
def State.arrive (s : State) (k : Fin 7) : State :=
  let (c, x) := (s.iss.core, s.iss.ctx)
  let (s, b) := (s.seesAcks c x (s.cl.barScope k.val)).barrier c x k.val
  let s := s.modCx (fun t => { t with arr := t.arr.set k.val (t.arr[k.val] + 1#32) })
  (s.modBar b.id (fun b => { b with here := b.here + 1, lt := max b.lt (s.lt c x) })).checkBar b.id

/-- The level is one that the launch's barriers name (R376). -/
def State.barCheck (s : State) (k : Fin 7) : Option Trap := need (bit s.cl.barlv k.val) (usageTrap 3 k.val)
/-- The waits of BARA. -/
def State.baraWait (s : State) (k : Fin 7) : Wait :=
  let b := (s.barrier s.iss.core s.iss.ctx k.val).2
  s.waitDrain.and ((waitFor (b.done = s.cx.arrOf k)).and (s.waitRelease (s.cl.barScope k.val)))
/-- The wait of BARW. -/
def State.barwWait (s : State) (k : Fin 7) : Wait :=
  let b := (s.barrier s.iss.core s.iss.ctx k.val).2
  waitFor (!b.done.ult (s.cx.arrOf k))
/-- The acquire of BARW. -/
def State.barAcquire (s : State) (k : Fin 7) : State :=
  let b := (s.barrier s.iss.core s.iss.ctx k.val).2
  (s.raiseLt s.iss.core s.iss.ctx b.ltDone).modCx (fun t => { t with barOn := false })

/-- BARA (R376). -/
def execBara (k : Fin 7) (s : State) : Out :=
  perform (.bara k) (s.barCheck k) (s.baraWait k) (fun s => s.arrive k) s

/-- BARW (R376). -/
def execBarw (k : Fin 7) (s : State) : Out :=
  perform (.barw k) (s.barCheck k) (s.barwWait k) (fun s => s.barAcquire k) s

/-- BAR: its arrival is signalled while it waits, once nothing else holds its bundle (R136, R376, R377). -/
def execBar (k : Fin 7) (s : State) : Out :=
  let now := !s.iss.go && !s.cx.barOn && s.iss.stop = none && (s.barCheck k).isNone && s.baraWait k = .go
  let s := if now then (s.arrive k).modCx (fun t => { t with barOn := true }) else s
  perform (.bar k) (s.barCheck k) (if s.cx.barOn then (if now then .hold else s.barwWait k) else s.baraWait k)
    (fun s => s.barAcquire k) s

/-! ### Engine registers (R218, R219, R378, R379) -/

/-- An engine register as MREGR reads it: its reserved bits read 0 (R9, R218, R232). -/
def MxSet.read (m : MxSet) (reg : Nat) : Dword :=
  let low (x : Dword) (n : Nat) : Dword := x &&& BitVec.ofNat 64 (2 ^ n - 1)
  match reg with
  | 0 => low m.ctl 16
  | 1 => low m.tile 32
  | 2 => m.tbase
  | 3 => low m.tstr 48
  | 4 => low m.zmap 22
  | 5 => m.siga
  | 6 => m.sigs
  | _ => 0#64
/-- A set after MREGW (R218). -/
def MxSet.write (m : MxSet) (reg : Nat) (v : Dword) : MxSet :=
  match reg with
  | 0 => { m with ctl := v }
  | 1 => { m with tile := v, siga := BitVec.allOnes 64, sigs := BitVec.allOnes 64 }
  | 2 => { m with tbase := v }
  | 3 => { m with tstr := v &&& ~~~(BitVec.ofNat 64 ((2 ^ 27 - 1) * 2 ^ 21)) }
  | 4 => { m with zmap := v }
  | _ => m

/-- MREGW (R219, R378). -/
def execMregw (shadow : Bool) (reg : Fin 16) (a : SReg) (s : State) : Out :=
  perform (.mregw shadow reg a) s.mxUse (s.beatWait.and (orTrap (shadow || s.tile.isNone) (s.mxTrap 0x0D)))
    (fun s => s.effect (.mreg (s.half s.iss.core s.iss.ctx = 1) shadow reg.val (s.rs a))) s

/-- MREGR (R219, R232, R379). -/
def execMregr (d : SReg) (shadow : Bool) (reg : Fin 16) (s : State) : Out :=
  perform (.mregr d shadow reg) s.mxUse .go (fun s =>
    let m := if shadow then s.eng.shadow else s.eng.active
    let h := s.half s.iss.core s.iss.ctx
    let ones := s.cc.split && ((reg.val = 5 && h = 1) || (reg.val = 6 && h = 0))
    s.varIn 3 (.s d (if ones then BitVec.allOnes 64 else m.read reg.val))) s

/-! ### Messages, collectives, launches and cancels (R380 to R385) -/

/-- SEND (R380). -/
def execSend (a b c : SReg) (sc : Scope) (tl : Fin 64) (s : State) : Out :=
  let (addr, dest, len) := ((s.rs a).toNat, (s.rs b).toNat, (s.rs c).toNat)
  perform (.send a b c sc tl)
    (firstTrap [s.spCheck addr len 64,
      need (dest < 2 ^ 24 && len % 64 = 0 && 64 ≤ len && len ≤ 4096) (usageTrap 1 dest)]) (s.room 1)
    (fun s => s.addEntry .none (.send addr len (dest % 2 ^ 18) (dest / 2 ^ 18) tl.val sc)) s

/-- A link receive queue. -/
def State.lrq (s : State) (q : Nat) : LRQ := tget s.fab.lrqs q {}
/-- It changed. -/
def State.modLrq (s : State) (q : Nat) (f : LRQ → LRQ) : State :=
  { s with fab := { s.fab with lrqs := tset s.fab.lrqs q (f (s.lrq q)) } }
/-- Units of 64 B of a message (R398). -/
def units (n : Nat) : Nat := (n + 63) / 64
/-- Messages of cancelled graphs at the head of a queue are dropped, and their room freed (R78, R381). -/
def State.dropCancelled (s : State) (q : Nat) : State :=
  s.modLrq q (fun u =>
    let gone := u.msgs.takeWhile (fun m => s.dist.cancel.contains m.gin)
    { u with msgs := u.msgs.drop gone.length, drop := min (u.drop + gone.length) (2 ^ 32 - 1),
             used := u.used - (gone.map (fun m => units m.bytes.length)).foldl (· + ·) 0 })

/-- RECV: the pop acquires what the sender released with its message, whose time it takes over (R338, R381). -/
def execRecv (d a c : SReg) (sc : Scope) (q : Fin 64) (s : State) : Out :=
  let (addr, n) := ((s.rs a).toNat, (s.rs c).toNat)
  let s := if s.iss.go || s.drained then s.dropCancelled q.val else s
  let s := if (s.lrq q.val).room.isEmpty then s else s.now_ .lrqRoomGrant { n := q.val }
  let head := (s.lrq q.val).msgs.head?
  let len := match head with | some m => m.bytes.length | none => 0
  perform (.recv d a c sc q) none
    (s.waitDrain.and <| (passes (s.spCheck addr n 64)).and <| (waitFor head.isSome).and <|
      orTrap (len ≤ n) (usageTrap 6 addr)) (fun s =>
    match head with
    | none => s
    | some m =>
      let id := s.nextId
      let s := s.modLrq q.val (fun u => { u with msgs := u.msgs.drop 1, used := u.used - units len })
      let s := s.varAt none (.s d (BitVec.ofNat 64 len))
      let ch := (List.range (units len)).map (fun i =>
        ({ id := 0, clk := 0, addr := addr + 64 * i, data := BitVec.ofNat 512 (ofBytes ((m.bytes.drop (64 * i)).take 64)),
           be := BitVec.ofNat 64 (2 ^ min 64 (len - 64 * i) - 1), chg := some (s.iss.core, s.iss.ctx), src := .recv id,
           order := 1 + 2 * id } : PWrite))
      let s := { s with vres := s.vres.map (fun (v : VRes) => if v.id = id then { v with left := ch.length } else v) }
      let s := s.raiseLt s.iss.core s.iss.ctx m.lt
      (s.modCc (fun k => { k with sp := { k.sp with claims := k.sp.claims ++ ch } })).now_ .lrqRoomGrant { n := q.val }) s

/-- COLL (R383). -/
def execColl (a : SReg) (sc : Scope) (tab : Fin 16) (tl : Fin 64) (s : State) : Out :=
  perform (.coll a sc tab tl) none (s.room 1)
    (fun s => s.addEntry .none (.coll tab.val (s.rs a).toNat tl.val sc)) s

/-- CSTAB (R382). -/
def execCstab (a c : SReg) (tab : Fin 16) (s : State) : Out :=
  perform (.cstab a c tab) none (s.room 1)
    (fun s => s.addEntry .none (.cstab tab.val (s.rs a).toNat (s.rs c).toNat)) s

/-- A launch queue. -/
def State.lqueue (s : State) (q : Nat) : LQueue := tget s.dist.queues q {}
/-- It changed. -/
def State.modLq (s : State) (q : Nat) (f : LQueue → LQueue) : State :=
  { s with dist := { s.dist with queues := tset s.dist.queues q (f (s.lqueue q)) } }
/-- Entries a queue holds (R66). -/
def LQueue.held (u : LQueue) : Nat := (u.tail - u.head).toNat
/-- A free entry that is not reserved (R73). -/
def LQueue.free (u : LQueue) : Bool := u.held + u.reserved < 2 ^ u.lg

/-- LAUNCH: four entries and a reservation (R73, R384). -/
def execLaunch (a : SReg) (q : Fin 32) (s : State) : Out :=
  let addr := (s.rs a).toNat
  let u := s.lqueue q.val
  perform (.launch a q) (firstTrap [s.spCheck addr 256 64, need (u.en && u.dev) (usageTrap 5 q.val)])
    ((waitFor u.free).and (s.room 4)) (fun s =>
      let v := s.spRead addr 256
      let s := s.readsRow addr 256
      let s := (List.range 4).foldl (fun s i => s.addEntry .none (.launch q.val i (BitVec.ofNat 512 (v / 2 ^ (512 * i))))) s
      s.modLq q.val (fun u => { u with reserved := u.reserved + 1 })) s

/-- CANCEL: a token for the task's own GIN is at its core at once, and it traps at its next boundary point (R78, R385). -/
def execCancel (a : SReg) (s : State) : Out :=
  perform (.cancel a) none s.waitDrain (fun s =>
    let gin := (s.rs a).toNat % 2 ^ 32
    let s := if gin = (s.launch s.cx.launch).gin then s.modCx (fun k => { k with cancel := true }) else s
    s.cancelGin (coreDie s.iss.core) gin) s

/-! ### Banks and power (R386 to R390) -/

/-- BOWN (R387). -/
def execBown (a : SReg) (s : State) : Out :=
  let m := (s.rs a).toNat % 2 ^ 32
  let own (b : Nat) : Bool := tget s.cc.sp.owner b 0 = s.cx.launch
  perform (.bown a) (need ((List.range 32).all (fun b => !bit m b || bit s.cl.bank b)) (bankTrap m))
    (waitFor ((List.range 32).all (fun b => !bit m b || own b))) (fun s => s) s

/-- Launches with a task placed on a core; a task saved from it counts (R388, R420). -/
def State.residents (s : State) (c : Nat) : List Nat :=
  (((s.core c).ctxs.filter (fun p => p.2.status != .free)).map (·.2.launch) ++ (s.core c).starts.map (·.2.1)
    ++ (s.saves.filter (fun v => v.core = c)).map (·.launch)).eraseDups

/-- The launch that bank b of core c passes to from launch l: the resident follower popped first; 0 where it becomes free
(R388). Launches are numbered in the order they were popped, from 1. -/
def State.heir (s : State) (c l b : Nat) : Nat :=
  let me := s.launch l
  let cand := (s.residents c).filter (fun n =>
    let f := s.launch n
    n != l && f.fv && f.gin = me.gin && f.followTag = me.ltag && bit f.bank b)
  (cand.foldl (fun (m : Option Nat) n => match m with | some k => some (min k n) | none => some n) none).getD 0
/-- Bank b of core c passes from a launch (R388). -/
def State.passBank (s : State) (c l b : Nat) : State :=
  let next := s.heir c l b
  s.modCore c (fun k => { k with sp := { k.sp with owner := if next = 0 then tdel k.sp.owner b else tset k.sp.owner b next } })

/-- An entry of core c writes one of its banks of a mask (R388): a store to the core that came by the mesh among them. -/
def EntryKind.writesBank (k : EntryKind) (c m : Nat) : Bool :=
  match k with
  | .spad a _ _ _ => bit m (bankOf a)
  | .drain a _ _ _ _ _ => bit m (bankOf a)
  | .remote cores a _ _ => cores.contains c && bit m (bankOf a)
  | _ => false

/-- BREL (R388). -/
def execBrel (a : SReg) (s : State) : Out :=
  let m := (s.rs a).toNat % 2 ^ 32
  let c := s.iss.core
  let l := s.cx.launch
  let own := (List.range 32).filter (fun b => bit m b && tget s.cc.sp.owner b 0 = l)
  let ownMask := (own.map (2 ^ ·)).foldl (· + ·) 0
  let busy := s.cc.cb.any (fun e => e.kind.writesBank c ownMask && (s.ctx c e.ctx).launch = l && (s.ctx c e.ctx).status != .free)
  perform (.brel a) none (s.waitDrain.and (waitFor (!busy)))
    (fun s => s.modCc (fun k => { k with passes := k.passes ++ own.map (fun b => (b, s.heir c l b)) })) s

/-- A core that placement may name. -/
def State.coreOn (s : State) (c : Nat) : Bool :=
  c < 384 && !(s.die (coreDie c)).dfail && (s.die (coreDie c)).clen.getLsbD (coreClus c) && (s.die (coreDie c)).cen.getLsbD (c % 48)

/-- The core and half that PWRQ names; none where no enabled core is named (R390). -/
def State.powerPlace (s : State) (a : Nat) : Option (Nat × Nat) :=
  if a % 2 ^ 22 != 0 then none
  else match spadPlace a 2 0 with
    | some (c, h, _) => if s.coreOn c && (!h || (s.core c).split) then some (c, Bool.code h) else none
    | none => none

/-- What PWRQ reads of a die (R390), its budget as the governor uses it (R433). -/
def State.diePower (s : State) (d : Nat) : Nat :=
  let sum (f : Nat → Nat → Nat) : Nat := ((List.range 48).map (fun k =>
    let c := d * 48 + k
    f c 0 + if (s.core c).split then f c 1 else 0)).foldl (· + ·) 0
  (s.die d).bud / 2 ^ (s.die d).thr % 2 ^ 16 + min (sum s.request) 65535 * 2 ^ 16 + sum (fun c h => ((s.core c).pow h).grant) % 2 ^ 16 * 2 ^ 32

/-- PWRQ (R390, R453). -/
def execPwrq (d a : SReg) (other sel : Bool) (s : State) : Out :=
  perform (.pwrq d a other sel) none .go (fun s =>
    let me := (s.iss.core, s.half s.iss.core s.iss.ctx)
    let at_ := if other then s.powerPlace (s.rs a).toNat else some me
    let v := match at_ with
      | none => 0#64
      | some (c, h) => if sel then BitVec.ofNat 64 (s.diePower (coreDie c)) else s.pwrgnt c h
    if !sel && at_ = some me then s.varIn 3 (.s d v) else s.varRange 7 1024 (.s d v)) s

/-! ### Header flags (R106, R137, R253, R413, R426) -/

/-- A quench point covers its context's entries up to its own bundle's (R253). -/
def State.quenchHere (s : State) : State :=
  s.modCx (fun k => { k with quench := some (max s.iss.serial (k.quench.getD 0)) })

/-- hdr.qp (R253). -/
def execQuenchPoint (s : State) : Out := perform .quenchPoint none .go State.quenchHere s

/-- hdr.mk: a mark waits for the one before it to be established, is not allowed in an open tile, and is a quench point
whose shadow is taken at the end of the clock (R413). -/
def execRestartMark (s : State) : Out :=
  perform .restartMark (need s.tile.isNone (s.mxTrap 0x0D)) (waitFor (s.cx.mark2.isNone && s.cx.markAt.isNone))
    (fun s => s.quenchHere.modCx (fun k => { k with markAt := some s.iss.serial })) s

/-- hdr.yd: a boundary point, at which the primary changes if it was this context as the issue opportunity began (R134, R137). -/
def execYield (s : State) : Out :=
  perform .yield none .go (fun s =>
    let t := s.modCx (fun k => { k with boundary := true })
    if s.cc.lead (s.half s.iss.core s.iss.ctx) = s.iss.ctx then t.yieldPrimary s.iss.core s.iss.ctx else t) s

/-- hdr.nd: the task's last bundle, a quench point; the context stays halted until its entries are released (R426). -/
def execEndOfTask (s : State) : Out :=
  perform .endOfTask (need s.tile.isNone (s.mxTrap 0x0D)) .go (fun s =>
    (s.quenchHere.modCx (fun k => { k with status := .halted, why := .ended, r := { k.r with ls := [] } })).yieldPrimary
      s.iss.core s.iss.ctx) s

end Machine
end Sys2Proof
end

