-- ==== Sys2Proof/Machine/Copies.lean ====
section
/-! DEFINITION. The copy engines: acceptance, start, pieces, stages, verification and completion (R325 to R333). -/

namespace Sys2Proof.Machine

/-! ### Geometry of a command (R326, R327, R330) -/

/-- Clocks from one cluster to another (R327). -/
def routeClocks (k j : Nat) : Nat :=
  let (d, e) := (k / 12, j / 12)
  if k = j then 0 else if d = e then 16 else if (d + 1) % 8 = e || (e + 1) % 8 = d then 40 else 64
/-- Base and stage clocks (R327). -/
def CopyCmd.stages (c : CopyCmd) : Nat :=
  let f (b : Bool) (n : Nat) : Nat := if b then n else 0
  40 + f c.isIdx 64 + f c.isCvt 24 + f c.isXps 48 + f c.isSig 16 + f c.isRed 32 + f c.isMc 8
/-- Clocks the command holds the transfer path (R326). -/
def CopyCmd.pathClocks (c : CopyCmd) : Nat := (c.delivered + Config.pathBytes - 1) / Config.pathBytes
/-- The core a scratchpad source lies on. -/
def CopyCmd.srcCore (c : CopyCmd) : Nat := match spadPlace c.src c.sk c.core with | some (k, _, _) => k | none => c.core
/-- The route of a command: between its two sides, a global side standing at the engine (R327). -/
def CopyRun.route (r : CopyRun) : Nat :=
  let src := if r.cmd.sk = 0 then r.clus else clusOf r.cmd.srcCore
  (r.cmd.dests.map (fun k => routeClocks src (clusOf k))).foldl max 0
/-- Source and destination bytes of a unit: an element of the IDX or XPS stage, or one conversion. -/
def CopyCmd.srcUnit (c : CopyCmd) : Nat := c.elemBytes
/-- Delivered bytes of a unit. -/
def CopyCmd.dstUnit (c : CopyCmd) : Nat := c.conv c.srcUnit
/-- Units of the command. -/
def CopyCmd.count (c : CopyCmd) : Nat := if c.isIdx then c.len else c.len / c.srcUnit
/-- First source byte. -/
def CopyCmd.srcBase (c : CopyCmd) : Nat := if c.sk = 0 then c.src else c.src % 2 ^ 22
/-- First destination byte. -/
def CopyCmd.dstBase (c : CopyCmd) : Nat := match c.dk with | 0 => c.dst | 3 => c.slot | _ => c.dst % 2 ^ 22
/-- Index k of the list (R328). -/
def CopyRun.index (r : CopyRun) (k : Nat) : Nat := r.idx.getD k 0
/-- Source address of unit k (R328). -/
def CopyRun.srcAt (r : CopyRun) (k : Nat) : Nat :=
  r.cmd.srcBase + (if r.cmd.isIdx && !r.cmd.isScat then r.index k else k) * r.cmd.srcUnit
/-- Destination address of unit k (R328). -/
def CopyRun.dstAt (r : CopyRun) (k : Nat) : Nat :=
  let (rows, cols) := (fld r.cmd.aux0.toNat 0 16, fld r.cmd.aux0.toNat 16 16)
  r.cmd.dstBase + (if r.cmd.isScat then r.index k else if r.cmd.isXps then k % cols * rows + k / cols else k) * r.cmd.dstUnit
/-- The index of unit k lies outside the table (R328). -/
def CopyRun.oobAt (r : CopyRun) (k : Nat) : Bool := r.cmd.isIdx && fld r.cmd.aux0.toNat 22 32 ≤ r.index k

/-- The first page or entry boundary above an address (R330). -/
def nextCut (bounds : List Nat) (a : Nat) : Nat :=
  (bounds.filter (a < ·)).foldl min ((a / 4096 + 1) * 4096)
/-- Units of u bytes from address a on that a piece takes, at most n: one alone where a boundary falls inside it (R330). -/
def unitsTo (bounds : List Nat) (a u n : Nat) : Nat :=
  let b := nextCut bounds a
  if a + u * n ≤ b then n else max 1 ((b - a) / u)
/-- Bounds of the valid entries of a launch's table. -/
def Launch.bounds (l : Launch) : List Nat := (l.lrt.filter (·.v)).flatMap (fun e => [e.base, e.limit])

/-- Units of the piece that begins at unit k (R330). -/
def CopyRun.pieceAt (r : CopyRun) (bounds : List Nat) (k : Nat) : Nat :=
  let c := r.cmd
  let n := c.count - k
  if c.isIdx then 1
  else
    let src := if c.sk = 0 then unitsTo bounds (r.srcAt k) c.srcUnit n else n
    if c.dk != 0 then src
    else if !c.isXps then min src (unitsTo bounds (r.dstAt k) c.dstUnit n)
    else
      let whole (j : Nat) : Bool := r.dstAt j + c.dstUnit ≤ nextCut bounds (r.dstAt j)
      let same (j : Nat) : Bool := whole j && nextCut bounds (r.dstAt j) = nextCut bounds (r.dstAt k)
      if whole k then min src (1 + ((List.range (n - 1)).takeWhile (fun i => same (k + 1 + i))).length) else 1

/-- The pieces from unit k on. -/
def CopyRun.cutPieces (r : CopyRun) (bounds : List Nat) : Nat → Nat → List (Nat × Nat)
  | 0, _ => []
  | fuel + 1, k =>
    if r.cmd.count ≤ k then []
    else (k, r.pieceAt bounds k) :: r.cutPieces bounds fuel (k + r.pieceAt bounds k)

/-! ### Stages on bytes (R328) -/

/-- One conversion of the CVT stage (R55, R64, R65, R328). -/
def CopyCmd.convUnit (c : CopyCmd) (x : Nat) : Nat :=
  let (sf, df) := (c.f 14 5, c.f 19 5)
  match tyOf sf, tyOf df with
  | some st, some dt => reconvert st dt c.rm (c.b 27) false x
  | some st, none => quantise (df - 16) st c.rm (c.b 27) ((List.range 128).map (fun e => value st (elem st.width x e)))
  | none, some dt => pack dt.width (fun e => finish dt c.rm (c.b 27) false (blkElem (sf - 16) x e)) 128 0
  | none, none => x
/-- Bytes after the CVT stage. -/
def CopyCmd.convBytes (c : CopyCmd) (l : List Byte) : List Byte :=
  let u := c.unit.getD (1, 1)
  if c.isCvt then (List.range (l.length / u.1)).flatMap (fun i => bytesOf (c.convUnit (ofBytes ((l.drop (i * u.1)).take u.1))) u.2)
  else l
/-- Every Billet source record has blk.zero = 0 (R328). -/
def CopyCmd.recordsOk (c : CopyCmd) (l : List Byte) : Bool :=
  let u := (c.unit.getD (1, 1)).1
  !(c.isCvt && isBillet (c.f 14 5)) ||
    (List.range (l.length / u)).all (fun i => blkZeroOk (ofBytes ((l.drop (i * u)).take u)))
/-- The fold of the SIG stage over what was delivered (R328); all ones without the stage (R332). -/
def CopyRun.fold (r : CopyRun) : Dword :=
  if r.cmd.isSig then
    let l := if r.cmd.isScat then r.segs else sortBy (fun a b => a.1 ≤ b.1) r.segs
    BitVec.ofNat 64 (l.foldl (fun s p => crc64 s p.2) (2 ^ 64 - 1))
  else BitVec.allOnes 64
/-- What RED does to an element (R328). -/
def CopyCmd.redOp (c : CopyCmd) : Option AmoOp × Ty :=
  (match c.f 28 4 with
    | 1 => some .add | 2 => some .and | 3 => some .or | 4 => some .xor | 5 => some .min | 6 => some .max
    | 7 => some .minu | 8 => some .maxu | _ => none,
   (tyOf (c.f 19 5)).getD .f32)


namespace State

/-! ### Runs -/

/-- A command that has left its core. -/
def copy? (s : State) (id : Nat) : Option CopyRun := s.copies.find? (fun r => r.id = id)
/-- One command changed. -/
def modCopy (s : State) (id : Nat) (f : CopyRun → CopyRun) : State :=
  { s with copies := s.copies.map (fun r => if r.id = id then f r else r) }

/-- The command's number completes on the issuing timeline, and the command is done with (R331, R333). -/
def endCopy (s : State) (r : CopyRun) (sig : Dword) (wts : Nat) : State :=
  let s := s.modTl r.cmd.core r.cmd.tl (fun t => t.complete r.num sig wts)
  let s := s.modLaunch r.cmd.launch (fun l => { l with cmds := l.cmds - 1 })
  { s with copies := s.copies.filter (fun q => q.id != r.id) }

/-- The record of a command: engine, number, piece and cause (R331, R412). -/
def copyRecord (s : State) (r : CopyRun) (cls cause sub addr asid : Nat) : State :=
  let q : Rec :=
    { cls := cls, cause := cause, sub := sub, slot := 6, eng := true, asid := asid, pos := r.pos, info := r.num % 2 ^ 32,
      addr := addr, d0 := r.piece, d1 := r.cmd.eng }
  let q := s.recOf r.cmd.core r.cmd.ctx q
  s.post { q with gin := r.cmd.gin }

/-- An engine fault that cannot be resumed: the command stops (R331). -/
def copyFault (s : State) (r : CopyRun) (sub addr asid : Nat) : State :=
  ((s.copyRecord r 2 0x14 sub addr asid).cancelGin (coreDie r.cmd.core) r.cmd.gin).endCopy r (BitVec.allOnes 64) 0

/-- A chunk access claimed for an agent from clock `from_` on. -/
def claim (s : State) (core : Nat) (l : List PWrite) : State :=
  s.modCore core (fun k => { k with sp := { k.sp with claims := k.sp.claims ++ l } })

/-- The reads of n scratchpad bytes for a command, 256 B per clock (R326). -/
def copySpRead (s : State) (r : CopyRun) (core a n : Nat) : State :=
  let l := (List.range ((a + n + 63) / 64 - a / 64)).map (fun i =>
    let c := (a / 64 + i) * 64
    let (lo, hi) := (max a c, min (a + n) (c + 64))
    ({ id := 0, clk := s.pcyc + i / 4, addr := c, be := BitVec.ofNat 64 ((2 ^ (hi - lo) - 1) * 2 ^ (lo - c)), read := true,
       chg := some (r.cmd.core, r.cmd.ctx), src := .copyRead r.id } : PWrite))
  (s.claim core l).modCopy r.id (fun r => { r with wait := l.length, got := [], code := 0, codeAt := 0 })

/-- A request of a command. -/
def copyAsk (s : State) (r : CopyRun) (g : GAddr) (w : Want) (p : Option Nat) : State :=
  s.ask { id := 0, who := .copy r.id, serial := r.serial, pos := r.pos, launch := r.cmd.launch, task := r.task, g := g, want := w,
          p := p }

/-! ### One piece (R330, R331) -/

/-- n bytes of the fill pattern (R328). R323 gives its place in auxiliary word 1 without SIGV alone: with cw.sigv = 1, where the word
is the signature, the model fills with the same bits [31:0] (DESIGN CHOICE, log 108). -/
def fillBytes (c : CopyCmd) (n : Nat) : List Byte :=
  (((List.range (n / 4 + 1)).map (fun _ => bytesOf (fld c.aux1.toNat 0 32) 4)).flatten).take n
/-- The bytes of the piece as the stages before CVT leave them: fill or source bytes, by unit. -/
def pieceBytes (r : CopyRun) (k n : Nat) : List Byte :=
  let u := r.cmd.srcUnit
  if r.oobAt k then fillBytes r.cmd u else (List.range (n * u)).map (fun i => mget r.got (r.srcAt k + i))

/-- The delivered bytes of a piece: destination address and bytes. The scatter form comes after CVT, so that its fill pattern is
delivered as it stands (R328). A whole transpose lies in one run of addresses. -/
def pieceSegs (r : CopyRun) (k n : Nat) : List (Nat × List Byte) :=
  if r.cmd.isScat && r.oobAt k then [(r.dstAt k, fillBytes r.cmd r.cmd.dstUnit)]
  else
    let l := r.cmd.convBytes (pieceBytes r k n)
    let u := r.cmd.dstUnit
    if !r.cmd.isXps then [(r.dstAt k, l)]
    else if n = r.cmd.count then
      let (rows, cols) := (fld r.cmd.aux0.toNat 0 16, fld r.cmd.aux0.toNat 16 16)
      [(r.cmd.dstBase, (List.range n).flatMap (fun j => (l.drop ((j % rows * cols + j / rows) * u)).take u))]
    else (List.range n).map (fun i => (r.dstAt (k + i), (l.drop (i * u)).take u))

/-- A segment delivered to scratchpads: chunk writes, or elements combined with RED, at a first clock each (R257, R327, R328). -/
def spadWrites (r : CopyRun) (now sent : Nat) (seg : Nat × List Byte) : List PWrite :=
  let c := r.cmd
  let (a, l) := seg
  let n := l.length
  -- a byte arrives with its part of the path's P clocks, in the order in which bytes are sent, and a chunk's part with its last byte
  let first (b : Nat) : Nat := max now (r.writeAt + (sent + (b - a)) / Config.pathBytes)
  let mk (lo hi ch : Nat) : PWrite :=
    { id := 0, clk := first (hi - 1), addr := ch, be := BitVec.ofNat 64 ((2 ^ (hi - lo) - 1) * 2 ^ (lo - ch)),
      data := BitVec.ofNat 512 (ofBytes ((l.drop (lo - a)).take (hi - lo)) * 2 ^ (8 * (lo - ch))),
      chg := some (c.core, c.ctx), src := .copy r.id, order := 2 * r.id + 2 }
  if c.isRed then
    let w := (tyOf (c.f 19 5)).elim 1 (fun t => t.width / 8)
    let starts := (List.range (n / w)).map (fun i => a + i * w)
    ((starts.map (· / 64)).eraseDups).map (fun ch =>
      let here := starts.filter (fun x => x / 64 = ch)
      let lo := here.headD a
      { mk lo (lo + here.length * w) lo with red := some c.redOp })
  else (List.range ((a + n + 63) / 64 - a / 64)).map (fun i =>
    let ch := (a / 64 + i) * 64
    mk (max a ch) (min (a + n) (ch + 64)) ch)

/-- Two writes of a command to one chunk as one access, the second after the first; elements combined twice stay apart (R244, R328). -/
def joinWrites (v w : PWrite) : Option PWrite :=
  match v.red, w.red with
  | none, none => some { v with clk := max v.clk w.clk, be := v.be ||| w.be,
                                data := BitVec.ofNat 512 (mergeBe v.data.toNat w.data.toNat w.be.toNat) }
  | some (_, ty), some _ =>
    let lo := min v.addr w.addr
    let (i, j) := (v.addr - lo, w.addr - lo)
    let (bv, bw) := (v.be.toNat * 2 ^ i, w.be.toNat * 2 ^ j)
    if (i + j) % (ty.width / 8) = 0 && bv &&& bw = 0 && bv < 2 ^ 64 && bw < 2 ^ 64 then
      some { v with clk := max v.clk w.clk, addr := lo, be := BitVec.ofNat 64 (bv + bw),
                    data := BitVec.ofNat 512 (v.data.toNat * 2 ^ (8 * i) ||| w.data.toNat * 2 ^ (8 * j)) }
    else none
  | _, _ => none
/-- A write joined, where it can be, to the last claim of the same command for its chunk; newest claim first. In a scatter only the
elements that arrive together are joined. -/
def joinClaim (together : Bool) (w : PWrite) : List PWrite → Option (List PWrite)
  | [] => none
  | v :: l =>
    if v.src = w.src && v.addr / 64 = w.addr / 64 then
      if together && v.clk != w.clk then none else (joinWrites v w).map (· :: l)
    else (joinClaim together w l).map (v :: ·)

/-- Segments delivered to the scratchpads of every destination, in order: the command waits for their writes. A chunk that successive
parts fill is written in one access (R327). -/
def spadPut (s : State) (r : CopyRun) (segs : List (Nat × List Byte)) : State × CopyRun :=
  let (ws, n) := segs.foldl (fun (a : List PWrite × Nat) g => (a.1 ++ spadWrites r s.pcyc a.2 g, a.2 + g.2.length)) ([], r.sent)
  let (s, new) := r.cmd.dests.foldl (fun (p : State × Nat) c => ws.foldl (fun (p : State × Nat) w =>
    match joinClaim r.cmd.isScat w (p.1.core c).sp.claims.reverse with
    | some l => (p.1.modCore c (fun k => { k with sp := { k.sp with claims := l.reverse } }), p.2)
    | none => (p.1.claim c [w], p.2 + 1)) p) (s, 0)
  (s, { r with out := r.out + new, sent := n, segs := r.segs ++ segs })
/-- An index outside the table counts once for the command (R328). -/
def countOob (s : State) (r : CopyRun) (k : Nat) : State :=
  if r.tries = 0 && r.oobAt k then s.modTl r.cmd.core r.cmd.tl (fun t => { t with oob := t.oob + 1 }) else s

/-- A delivered segment leaves for a global destination, whose pages are granted (R328, R330). -/
def globalWrites (s : State) (r : CopyRun) (e : Lrt) (seg : Nat × List Byte) : State × Nat :=
  let (a, l) := seg
  let place (b : Nat) : Option Nat := (r.grants.find? (fun g => g.1 = b / 4096)).bind (fun g => g.2.map (· + b % 4096))
  if r.cmd.isRed then
    let w := (tyOf (r.cmd.f 19 5)).elim 1 (fun t => t.width / 8)
    ((List.range (l.length / w)).foldl (fun s i =>
      let v := ofBytes ((l.drop (i * w)).take w)
      s.copyAsk r { va := a + i * w, len := w, ent := e }
        (match r.cmd.redOp with | (some op, _) => .red op v | (none, ty) => .fred ty v) (place (a + i * w))) s, l.length / w)
  else
    let ls := lineSegs a l.length
    (ls.foldl (fun s p => s.copyAsk r { va := p.1, len := p.2, ent := e }
      (.write (ofBytes ((l.drop (p.1 - a)).take p.2)) (2 ^ p.2 - 1)) (place p.1)) s, ls.length)

/-- The entry of the destination of a piece. -/
def copyDstEntry (s : State) (r : CopyRun) (k n : Nat) : Except Trap Lrt :=
  (s.launchOn r.cmd.core r.cmd.launch).lrtFind (r.dstAt k) (if r.cmd.isXps then r.cmd.dstUnit else n * r.cmd.dstUnit)
    (fun e => e.wr && (!r.cmd.isRed || e.at_))

/-- All bytes have been written at every destination: verification, or completion, at the clock of R327 at the earliest. -/
def copyArrived (s : State) (r : CopyRun) : State :=
  let ev : Instr := if r.cmd.isSigv then .copyVerify else .copyComplete
  if r.due ≤ s.pcyc then s.now_ ev { id := r.id } else s.sched_ r.due 0 ev { id := r.id }

/-- A stream has delivered its last unit. -/
def streamDone (r : CopyRun) : Bool := r.phase = .stream && r.plan.isEmpty && r.lists = 0 && r.fail.isNone

/-- One write of a command has been made or acknowledged. -/
def copyLanded (s : State) (id : Nat) : State :=
  match s.copy? id with
  | none => s
  | some r =>
    let r := { r with out := r.out - 1 }
    let s := s.modCopy id (fun _ => r)
    if ((r.phase = .write && r.pieces.length ≤ r.piece) || streamDone r) && r.out = 0 then s.copyArrived r else s

/-- A piece that has passed its checks is delivered, and the next is taken up (R330). -/
def copyPut (s : State) (r : CopyRun) (k n : Nat) : State :=
  let segs := pieceSegs r k n
  let (s, r) :=
    if r.cmd.dk = 0 then
      let e := entOf (s.copyDstEntry r k n)
      let (s, m) := segs.foldl (fun (a : State × Nat) g => let (s, m) := globalWrites a.1 r e g; (s, a.2 + m)) (s, 0)
      (s, { r with out := r.out + m, segs := r.segs ++ segs })
    else s.spadPut r segs
  let r := { r with phase := .write, piece := r.piece + 1, got := [], grants := [] }
  let s := (s.modCopy r.id (fun _ => r)).countOob r k
  if r.piece < r.pieces.length then s.now_ .copyPieceRetry { id := r.id }
  else if r.out = 0 then s.copyArrived r else s

/-- A home refused or failed an access of the piece (R331, R411). -/
def copyRefused (s : State) (r : CopyRun) (asid : Nat) : State :=
  match r.code with
  | 1 => (s.modCopy r.id (fun r => { r with phase := .retry })).sched_ (s.pcyc + Config.migrationClocks) 0 .copyPieceRetry
      { id := r.id }
  | 2 =>
    let seq := s.fq.seq.toNat
    let s := s.copyRecord r 1 0x16 0 r.codeAt asid
    let s := { s with fq := { s.fq with waits := s.fq.waits ++ [(seq, r.cmd.core, r.cmd.ctx, some r.id)] } }
    (s.modCopy r.id (fun r => { r with phase := .parked, parked := some seq })).modTl r.cmd.core r.cmd.tl
      (fun t => { t with park := t.park + 1 })
  | 5 => ((s.copyRecord r 3 0x1E 0 r.codeAt asid).cancelGin (coreDie r.cmd.core) r.cmd.gin).endCopy r (BitVec.allOnes 64) 0
  | 6 => ((s.copyRecord r 3 0x1E 2 r.codeAt asid).cancelGin (coreDie r.cmd.core) r.cmd.gin).endCopy r (BitVec.allOnes 64) 0
  | _ => s.copyFault r 0x12 r.codeAt asid

/-- The source bytes of the piece are at hand: check 4, or delivery (R330). -/
def copyGot (s : State) (r : CopyRun) : State :=
  match r.pieces[r.piece]? with
  | none => s
  | some (k, n) =>
    if !r.cmd.recordsOk (pieceBytes r k n) then s.copyFault r 0x0A (r.srcAt k) 0
    else if r.cmd.dk != 0 then s.copyPut r k n
    else
      let e := entOf (s.copyDstEntry r k n)
      let a := r.dstAt k
      let b := a + (if r.cmd.isXps then r.cmd.dstUnit else n * r.cmd.dstUnit)
      let pages := (List.range ((b + 4095) / 4096 - a / 4096)).map (fun i => max a ((a / 4096 + i) * 4096))
      let s := s.modCopy r.id (fun r => { r with phase := .grant, wait := pages.length, code := 0 })
      pages.foldl (fun s p => s.copyAsk r { va := p, len := 1, ent := e } (.grant r.id) none) s

/-- One access that a command waits for has been answered. -/
def copyAnswer (s : State) (id : Nat) (f : CopyRun → CopyRun) (code at_ asid : Nat) : State :=
  match s.copy? id with
  | none => s
  | some r =>
    let r := { f r with wait := r.wait - 1, code := if r.code = 0 then code else r.code,
                        codeAt := if r.code = 0 && code != 0 then at_ else r.codeAt }
    let s := s.modCopy id (fun _ => r)
    if r.wait != 0 then s
    else if r.code != 0 then s.copyRefused r asid
    else match r.phase with
      | .index =>
        let l := (List.range r.cmd.len).map (fun i => mread r.got (fld r.cmd.aux0.toNat 0 22 + 4 * i) 4)
        (s.modCopy id (fun r => { r with idx := l, pieces := (List.range r.cmd.len).map (fun k => (k, 1)), phase := .retry })).now_
          .copyPieceRetry { id := id }
      | .read => s.copyGot r
      | .grant => match r.pieces[r.piece]? with
        | some (k, n) => s.copyPut r k n
        | none => s
      | _ => s

/-- What checks 1 and 2 find of a piece, or an index that is a fault: sub code, address, identifier (R328, R330). -/
def pieceFault (s : State) (r : CopyRun) (k n : Nat) : Option (Nat × Nat × Nat) :=
  let c := r.cmd
  let srcN := n * c.srcUnit
  let fill := r.oobAt k
  let src : Option Trap :=
    if fill && !c.isScat then none
    else if c.sk = 0 then trapOf ((s.launchOn c.core c.launch).lrtFind (r.srcAt k) srcN (·.rd))
    else need (r.srcAt k + srcN ≤ Config.spadBytes) (spadTrap (r.srcAt k))
  let dst : Option Trap :=
    if c.dk = 0 then trapOf (s.copyDstEntry r k n)
    else need ((if c.isXps then c.dstBase + c.delivered else r.dstAt k + n * c.dstUnit) ≤ Config.spadBytes) (spadTrap (r.dstAt k))
  if fill && c.b 9 then some (0, r.srcAt k, 0) else (thenCheck src dst).map (fun t => (t.cause, t.addr, t.asid))

/-- The piece the command is at is taken up: checks 1 and 2, then its source is read (R330). -/
def copyTake (s : State) (r : CopyRun) : State :=
  match r.pieces[r.piece]? with
  | none => s
  | some (k, n) =>
    let c := r.cmd
    let srcN := n * c.srcUnit
    match s.pieceFault r k n with
    | some (sub, a, asid) => s.copyFault r sub a asid
    | none =>
      let r := { r with phase := .read, code := 0, codeAt := 0, got := [], grants := [] }
      let s := s.modCopy r.id (fun _ => r)
      if r.oobAt k then s.copyGot r
      else if c.sk != 0 then s.copySpRead r c.srcCore (r.srcAt k) srcN
      else
        let e := entOf ((s.launchOn c.core c.launch).lrtFind (r.srcAt k) srcN (·.rd))
        let l := lineSegs (r.srcAt k) srcN
        l.foldl (fun s p => s.copyAsk r { va := p.1, len := p.2, ent := e } (.read r.id) none)
          (s.modCopy r.id (fun r => { r with wait := l.length }))

/-! ### Streams between two scratchpads (R326, R327, R328) -/

/-- Reads of the chunks that hold n bytes at a, the i-th of them in clock i / 4 at the earliest, granted in turn (R326). -/
def chunkReads (s : State) (r : CopyRun) (a n i : Nat) (src : WSrc) (order : Nat) : List PWrite :=
  (List.range ((a + n + 63) / 64 - a / 64)).map (fun j =>
    let c := (a / 64 + j) * 64
    let (lo, hi) := (max a c, min (a + n) (c + 64))
    { id := 0, clk := s.pcyc + (i + j) / 4, addr := c, be := BitVec.ofNat 64 ((2 ^ (hi - lo) - 1) * 2 ^ (lo - c)), read := true,
      chg := some (r.cmd.core, r.cmd.ctx), src := src, order := order })

/-- The units of a command without an index list: their reads, and the units that each returned read completes. A transpose, and
a decoding whose records are checked first (R328, R330), deliver once all is read. -/
def planWhole (s : State) (r : CopyRun) : State × CopyRun :=
  let c := r.cmd
  match s.pieceFault r 0 c.count with
  | some f => (s, { r with fail := some f })
  | none =>
    let (a, n, u) := (c.srcBase, c.srcBytes, c.srcUnit)
    let rs := s.chunkReads r a n 0 (.copyRead r.id) (2 * r.id + 1)
    let done (i : Nat) : Nat := (min (a + n) ((a / 64 + i + 1) * 64) - a) / u
    let plan := if c.isXps || (c.isCvt && isBillet (c.f 14 5)) then [(rs.length, 0, c.count)]
      else ((List.range rs.length).map (fun i => (i + 1, if i = 0 then 0 else done (i - 1), done i))).filterMap (fun p =>
        if p.2.1 < p.2.2 then some (p.1, p.2.1, p.2.2 - p.2.1) else none)
    (s.claim c.srcCore rs, { r with asked := rs.length, plan := plan })

/-- The next units of a command with an index list, n of them from unit k on, whose indices are known: each is a piece of its
own (R330). A scatter reads each chunk of its source once. The second number is how many reads this clock has asked for. -/
def planIndexed (s : State) (r : CopyRun) (k : Nat) : Nat → Nat → State × CopyRun
  | 0, _ => (s, r)
  | n + 1, i =>
    if r.fail.isSome then (s, r)
    else match s.pieceFault r k 1 with
    | some f => (s, { r with fail := some f })
    | none =>
      let (a, u) := (r.srcAt k, r.cmd.srcUnit)
      let lo := if r.cmd.isScat then max a r.upTo else a
      let rs := if r.oobAt k || a + u ≤ lo then [] else s.chunkReads r lo (a + u - lo) i (.copyRead r.id) (2 * r.id + 1)
      -- a scatter asks for the rest of the last chunk too
      let fullRs := if r.cmd.isScat then rs.map (fun w => { w with be := BitVec.allOnes 64 }) else rs
      let r := { r with asked := r.asked + rs.length, upTo := if r.cmd.isScat && !rs.isEmpty then (a + u + 63) / 64 * 64 else r.upTo,
                        plan := r.plan ++ [(r.asked + rs.length, k, 1)] }
      (s.claim r.cmd.srcCore fullRs).planIndexed r (k + 1) n (i + rs.length)

/-- What the returned reads let a stream deliver is delivered, in order; after its last unit the command has arrived, or meets
the failure of its next piece (R330, R331). -/
def streamGo : Nat → State → CopyRun → State
  | 0, s, r => s.modCopy r.id (fun _ => r)
  | fuel + 1, s, r =>
    match r.plan with
    | (need, k, n) :: rest =>
      if r.home < need then s.modCopy r.id (fun _ => r)
      else if !r.cmd.recordsOk (pieceBytes r k n) then s.copyFault r 0x0A (r.srcAt k) 0
      else
        let (s, r) := s.spadPut r (pieceSegs r k n)
        streamGo fuel (s.countOob r k) { r with plan := rest, piece := if r.cmd.isIdx then k + 1 else r.piece }
    | [] => match r.fail with
      | some (sub, a, asid) => s.copyFault r sub a asid
      | none =>
        let s := s.modCopy r.id (fun _ => r)
        if r.lists = 0 && r.out = 0 then s.copyArrived r else s
/-- A stream goes on. -/
def streamOn (s : State) (r : CopyRun) : State := streamGo (r.plan.length + 1) s r

/-- A read of a command has returned its bytes. -/
def copyRead (s : State) (id : Nat) (f : Memory → Memory) : State :=
  match s.copy? id with
  | none => s
  | some r =>
    if r.phase = .stream then s.streamOn { r with got := f r.got, home := r.home + 1 }
    else s.copyAnswer id (fun r => { r with got := f r.got }) 0 0 0

/-- A chunk of the index list of a stream has been read: its indices, in list order, and the reads they name (R328). -/
def copyIndex (s : State) (id ch v : Nat) : State :=
  match s.copy? id with
  | none => s
  | some r =>
    let (lo, hi) := (fld r.cmd.aux0.toNat 0 22, fld r.cmd.aux0.toNat 0 22 + 4 * r.cmd.len)
    let new := ((List.range 16).filter (fun i => lo ≤ ch + 4 * i && ch + 4 * i < hi)).map (fun i => v / 2 ^ (32 * i) % 2 ^ 32)
    let k := r.idx.length
    let (s, r) := s.planIndexed { r with idx := r.idx ++ new, lists := r.lists - 1 } k new.length 0
    s.streamOn r

/-- The command runs from its first byte: the index list, which is read once, or the first piece (R328, R329). -/
def copyRun (s : State) (r : CopyRun) : State :=
  let c := r.cmd
  let s := s.seesAcks c.core c.ctx c.sc
  let t := s.pcyc + c.stages + r.route
  let again : Bool := r.tries != 0
  let r := { r with startAt := s.pcyc, writeAt := t + 1 - 15, due := t + c.pathClocks, relLt := if again then r.relLt else s.lt c.core c.ctx, pieces := [], piece := 0, segs := [], sent := 0, out := 0, grants := [],
                    got := [], plan := [], asked := 0, home := 0, upTo := 0, fail := none, lists := 0 }
  let list := fld c.aux0.toNat 0 22
  if c.sk != 0 && c.dk != 0 then
    let r := { r with phase := .stream }
    if !c.isIdx then let (s, r) := s.planWhole r; s.streamOn r
    else if again then let (s, r) := s.planIndexed r 0 r.idx.length 0; s.streamOn r
    else
      let rs := s.chunkReads r list (4 * c.len) 0 (.copyIndex r.id) (2 * (2 ^ 66 + r.id))
      (s.claim c.core rs).modCopy r.id (fun _ => { r with lists := rs.length })
  else if c.isIdx && !again then
    let r := { r with phase := .index }
    (s.modCopy r.id (fun _ => r)).copySpRead r c.core list (4 * c.len)
  else
    let r := { r with phase := .retry, pieces := if c.isIdx then (List.range c.len).map (fun k => (k, 1))
                                                 else r.cutPieces (s.launchOn c.core c.launch).bounds c.count 0 }
    (s.modCopy r.id (fun _ => r)).now_ .copyPieceRetry { id := r.id }

/-- The release of the command is performed (R325). -/
def copyReleased (s : State) (r : CopyRun) : Bool := s.performedOf r.cmd.core r.cmd.ctx r.task r.sn r.cmd.sc

/-- First clock in which a path of an engine is free. -/
def pathFree (s : State) (clus eng : Nat) : Nat := if eng = 1 then (s.clu clus).path1 else (s.clu clus).path0

/-- The command of an engine that starts next: the earliest issue time, ties by acceptance (R326). -/
def copyHead (s : State) (clus eng : Nat) : Option CopyRun :=
  (s.copies.filter (fun r => r.clus = clus && r.cmd.eng = eng && r.phase = .queued)).foldl (fun (m : Option CopyRun) r =>
    match m with
    | none => some r
    | some q => if r.cmd.time < q.cmd.time || (r.cmd.time = q.cmd.time && r.accSeq < q.accSeq) then some r else some q) none

end State

/-! ### The steps -/

/-- COPY_ACCEPT: id, the command (R325). The command takes its number, and may start in this clock (R326). -/
def execCopyAccept (s : State) : Out :=
  match s.copy? s.arg.id with
  | none => .next s
  | some r =>
    let s := s.modTl r.cmd.core r.cmd.tl Timeline.number
    let n := (s.tl r.cmd.core r.cmd.tl).rel.toNat
    let s := s.modLaunch r.cmd.launch (fun l => { l with cmds := l.cmds + 1 })
    let s := State.modCopy { s with nextId := s.nextId + 1 } r.id (fun r => { r with num := n, accSeq := s.nextId, phase := .queued })
    .next (s.now_ .copyStart { n := r.clus, m := r.cmd.eng })

/-- COPY_START: n, the cluster; m, the engine (R78, R326). -/
def execCopyStart (s : State) : Out :=
  let (k, e) := (s.arg.n, s.arg.m)
  match s.copyHead k e with
  | none => .next s
  | some r =>
    if s.pcyc < r.cmd.time || s.pcyc < s.pathFree k e then .next s
    else if s.dist.cancel.contains r.cmd.gin then
      .next ((s.endCopy r (BitVec.allOnes 64) 0).now_ .copyStart { n := k, m := e })
    else
      let free := s.pcyc + r.cmd.pathClocks
      let s := s.modClu k (fun u => if e = 1 then { u with path1 := free } else { u with path0 := free })
      let r := { r with phase := .rel, startAt := s.pcyc }
      let s := s.modCopy r.id (fun _ => r)
      .next (if s.copyReleased r then s.copyRun r else s)

/-- COPY_PIECE_RETRY: id. The engine takes up the piece the command is at: the first or next one, one refused for a migration,
one whose record was resolved; or finds the command's release performed (R325, R330, R331). -/
def execCopyPieceRetry (s : State) : Out :=
  match s.copy? s.arg.id with
  | none => .next s
  | some r => match r.phase with
    | .rel => .next (if s.copyReleased r then s.copyRun r else s)
    | .retry | .write => .next (s.copyTake r)
    | _ => .next s

/-- COPY_VERIFY: id. The fold against auxiliary word 1 under SIGV, up to three resends; then, from the clock after the match, which flag
marks, the claims of the tag writes; and the clock after the last of them (R329). -/
def execCopyVerify (s : State) : Out :=
  match s.copy? s.arg.id with
  | none => .next s
  | some r =>
    if r.phase = .tags then
      .next (if s.arg.flag then r.cmd.dests.foldl (fun s c => s.claim c (s.tagWrites r)) s
        else s.sched_ (s.pcyc + 1) 0 .copyComplete { id := r.id })
    else if r.cmd.isSigv && r.fold != r.cmd.aux1 then
      if r.tries < 3 then .next ((s.modCopy r.id (fun r => { r with tries := r.tries + 1 })).copyRun { r with tries := r.tries + 1 })
      else .next (s.copyFault r 0 r.cmd.dst 0)
    else
      let n := if r.cmd.isTagf then (s.tagWrites r).length * r.cmd.dests.length else 0
      if n = 0 then .next (s.now_ .copyComplete { id := r.id })
      else .next ((s.modCopy r.id (fun r => { r with phase := .tags, out := n })).sched_ (s.pcyc + 1) 0 .copyVerify { id := r.id, flag := true })

/-- One chunk's tags have been written; after the last, the timelines advance in the next clock (R329). -/
def State.copyTagged (s : State) (id : Nat) : State :=
  match s.copy? id with
  | none => s
  | some r =>
    let s := s.modCopy id (fun r => { r with out := r.out - 1 })
    if r.out ≤ 1 then s.now_ .copyVerify { id := id } else s

end Sys2Proof.Machine
end

