-- ==== Sys2Proof/Machine/Banks.lean ====
section
/-! DEFINITION. The scratchpad's banks: cells of the reservation table, claims of agents, writes and their parity, errors and
repair, sleep and wake (R147, R242 to R263). -/

namespace Sys2Proof.Machine

/-! ### Cells (R246, R260) -/

/-- Members of a group but one, retired ones left out. -/
def Spad.members (sp : Spad) (g but : Nat) : List Nat :=
  ((List.range 4).map (fun m => g + 8 * m)).filter (fun b => b != but && !sp.ret.getLsbD b)

/-- Cells of a read, or of a partial write, of data bank b at clock x (R245, R260). -/
def Spad.cellsOf (sp : Spad) (b x : Nat) (read : Bool) : List (Nat × Nat) :=
  let g := groupOf b
  if !sp.degraded g then [(b, x)]
  else
    let banks := if sp.ret.getLsbD b then sp.members g b ++ [32 + g] else if read then [b] else [b, 32 + g]
    banks.flatMap (fun k => [(k, x), (k, x + 1)])

/-- Power state of a bank. -/
def Spad.powerOf (sp : Spad) (b : Nat) : BankSt := tget sp.power b .on
/-- A data bank serves accesses at clock x (R263). -/
def Spad.awake (sp : Spad) (b x : Nat) : Bool :=
  match sp.powerOf b with
  | .on => true
  | .waking t _ => t ≤ x
  | _ => false
/-- The rebuild of a group holds the cell (R263). -/
def Spad.rebuildHolds (sp : Spad) (b x : Nat) : Bool :=
  let g := if b < 32 then groupOf b else b - 32
  let begins := (sp.reb.filter (fun p => p.1 = g)).map (·.2)
    ++ (List.range 4).filterMap (fun m => match sp.powerOf (g + 8 * m) with | .waking t true => some t | _ => none)
  -- the last that has begun at x counts: a further bank that wakes begins the group's rebuild anew
  match (begins.filter (· ≤ x)).foldl (fun (m : Option Nat) w => some (max w (m.getD 0))) none with
  | some w => x < w + 4096 && ((x - w) % 2 = 0) == (b < 32)
  | none => false
/-- The parity bank of a group serves accesses at clock x: it is gated while all four members are, and wakes with the first of
them (R263). -/
def Spad.parAwake (sp : Spad) (g x : Nat) : Bool :=
  (List.range 4).any (fun m => match sp.powerOf (g + 8 * m) with | .gated => false | .waking t true => t ≤ x | _ => true)
/-- A cell is free (R246). -/
def Spad.freeCell (sp : Spad) (p : Nat × Nat) : Bool :=
  !sp.cells.any (fun c => c.bank = p.1 && c.clk = p.2) && !sp.rebuildHolds p.1 p.2
    && (if p.1 < 32 then sp.awake p.1 p.2 else sp.parAwake (p.1 - 32) p.2)

/-- Row n of group g is stale at clock y (R247). -/
def Spad.stale (sp : Spad) (g row y : Nat) : Bool :=
  sp.rebuilding g y
    || sp.deltas.any (fun d => d.g = g && d.row = row && d.post ≤ y && (match d.apply with | some a => y ≤ a | none => true))
    || sp.stripes.any (fun t => t.row = row && t.first ≤ y && (match t.parity with | some p => y ≤ p | none => true))

/-- A reconstruction may be offered, counting cells taken so far (R246). -/
def Spad.offer (sp : Spad) (b row x : Nat) (taken : List (Nat × Nat)) : Bool :=
  let g := groupOf b
  !sp.degraded g && !sp.unp.getLsbD g && !sp.rebuilding g x && !sp.stale g row x && sp.outstanding g x < 8
    && (sp.members g b ++ [32 + g]).all (fun k => sp.freeCell (k, x) && !taken.contains (k, x))

/-- What a bundle's declared uses take: cells with their rows, or nothing when one cannot be granted (R246). posts: group, row and
clock of the deltas that its earlier uses post. -/
def Spad.grantUses (sp : Spad) : List Use → List (Nat × Nat × Nat) → List (Nat × Nat × Nat) → Option (List (Nat × Nat × Nat))
  | [], _, acc => some acc
  | u :: rest, posts, acc =>
    let taken := acc.map (fun c => (c.1, c.2.1))
    let g := groupOf u.bank
    let need := sp.cellsOf u.bank u.clk u.read
    let posting := !u.read && !sp.degraded g && !sp.unp.getLsbD g
    let deltas := sp.outstanding g u.clk + (posts.filter (fun p => p.1 = g && p.2.2 ≤ u.clk)).length
    if need.all (fun c => sp.freeCell c && !taken.contains c) && (!posting || deltas < 8) then
      sp.grantUses rest (if posting then posts ++ [(g, u.row, u.clk)] else posts) (acc ++ need.map (fun c => (c.1, c.2, u.row)))
    else if u.read && sp.offer u.bank u.row u.clk taken && deltas < 8 && !posts.any (fun p => p.1 = g && p.2.1 = u.row && p.2.2 ≤ u.clk) then
      sp.grantUses rest posts (acc ++ (sp.members g u.bank ++ [32 + g]).map (fun k => (k, u.clk, u.row)))
    else none

/-- A use declared or claimed on a sleeping bank: it begins to wake; its cells are free 8 clocks later (R263). -/
def Spad.rouse (sp : Spad) (now b : Nat) : Spad :=
  match sp.powerOf b with
  | .sleep => { sp with power := tset sp.power b (.waking (now + 8) false) }
  | _ => sp
/-- A bank is accessed at clock x (R263). -/
def Spad.touch (sp : Spad) (x b : Nat) : Spad := if 32 ≤ b then sp else { sp with last := tset sp.last b (max (tget sp.last b 0) x) }
/-- Every bank that the uses of a bundle take cells of, the survivors of a degraded group among them, is roused (R260, R263). -/
def Spad.rouseUses (sp : Spad) (now : Nat) (us : List Use) : Spad :=
  us.foldl (fun sp u => (sp.cellsOf u.bank u.clk u.read).foldl (fun sp p => sp.rouse now p.1) sp) sp
/-- A gated bank begins to wake (R263). -/
def Spad.wakeGated (sp : Spad) (now b : Nat) : Spad :=
  match sp.powerOf b with
  | .gated => { sp with power := tset sp.power b (.waking (now + 32) true), last := tset sp.last b now }
  | _ => sp

/-- A bundle has been held by the table for 16 consecutive clocks: agents claim no cell of the next column (R147). -/
def Spad.starved (sp : Spad) (now : Nat) : Bool := sp.heldBy.any (fun p => 16 ≤ p.2.1 && p.2.2 = now)

namespace State

/-- The scratchpad of a core changed. -/
def modSp (s : State) (c : Nat) (f : Spad → Spad) : State := s.modCore c (fun k => { k with sp := f k.sp })

/-- Cells of column t + 15 claimed by an agent, if every one is free, with the context charged; sleeping and gated banks begin to
wake (R147, R261, R263). -/
def claimCells (s : State) (c : Nat) (need : List (Nat × Nat)) (row : Nat) (chg : Option (Nat × Nat)) : Option State × State :=
  let now := s.now c
  let s := s.modSp c (fun sp => need.foldl (fun sp p => ((sp.wakeGated now p.1).rouse now p.1)) sp)
  let sp := (s.core c).sp
  if need.all sp.freeCell then
    (some (s.modSp c (fun sp =>
      let sp := { sp with cells := sp.cells ++ need.map (fun p => { bank := p.1, clk := p.2, row := row, ctx := 8, chg := chg }) }
      need.foldl (fun sp p => sp.touch p.2 p.1) sp)), s)
  else (none, s)

/-- A claim granted: the access is made at clock t + 15. -/
def claimAccess (s : State) (c : Nat) (w : PWrite) : Option State × State :=
  let x := s.now c + 15
  let b := bankOf w.addr
  let g := groupOf b
  let sp := (s.core c).sp
  let posts := !w.read && !sp.degraded g && !sp.unp.getLsbD g
  if sp.starved (s.now c) || (posts && 8 ≤ sp.outstanding g x) then (none, s)
  else match s.claimCells c (sp.cellsOf b x w.read) (rowOf w.addr) w.chg with
    | (some s, _) =>
      if w.read then
        (some (State.modSp { s with nextId := s.nextId + 1 } c (fun sp => sp.addWr { w with id := s.nextId, clk := x })), s)
      else (some (s.grantWrite c { w with clk := x }), s)
    | (none, s) => (none, s)

/-- The claims of the core's agents in this clock: those whose turn has come, in order (R147). -/
def claimAgents (s : State) (c : Nat) : State :=
  let go := fun (acc : State × List PWrite × List Nat) (w : PWrite) =>
    let (s, left, held) := acc
    if s.pcyc < w.clk || held.contains w.order then
      (s, left ++ [w], if w.order = 0 then held else w.order :: held)
    else match s.claimAccess c w with
      -- a command's tag writes claim one column each (R329)
      | (some s, _) => (s, left, match w.src with | .copyTag _ => w.order :: held | _ => held)
      | (none, s) => (s, left ++ [w], if w.order = 0 then held else w.order :: held)
  let (s, left, _) := (s.core c).sp.claims.foldl go (s, [], [])
  s.modSp c (fun sp => { sp with claims := left })

/-- The delta of a group posted first among those without an apply clock. -/
def oldestDelta (l : List Delta) (g : Nat) : Option Delta :=
  (l.filter (fun d => d.g = g && d.apply.isNone)).foldl (fun (b : Option Delta) d => match b with
    | some e => if d.post < e.post then some d else b
    | none => some d) none
/-- The oldest delta of each group without an apply clock claims its parity bank in column t + 15, from the clock after its
posting clock was fixed (R250). An apply clock once claimed is kept, so that a direct write's delta that is granted later and posts
earlier applies after it (DESIGN CHOICE, log 94). -/
def claimApplies (s : State) (c : Nat) : State :=
  if (s.core c).sp.starved (s.now c) then s
  else (List.range 8).foldl (fun (s : State) g =>
    let sp := (s.core c).sp
    let x := s.now c + 15
    match oldestDelta sp.deltas g with
    | some d =>
      if d.fixed < s.now c && d.post + 4 ≤ x && sp.freeCell (32 + g, x) then
        s.modSp c (fun sp => { sp with cells := sp.cells ++ [{ bank := 32 + g, clk := x, row := d.row, ctx := 8 }],
                                       deltas := sp.deltas.map (fun e => if e.wid = d.wid then { e with apply := some x } else e) })
      else s
    | none => s) s

/-! ### Parity (R243, R249, R250) -/

/-- A parity row as a chunk. -/
def parRow (s : State) (c g row : Nat) : Nat := mread (s.core c).sp.par (g * 131072 + row * 64) 64
/-- Tags of a chunk, bit i for word i. -/
def chunkTags (l : List Nat) (a : Nat) : Nat := ((List.range 8).map (fun i => if l.contains (a + 8 * i) then 2 ^ i else 0)).foldl (· + ·) 0
/-- A list of full words with those of a chunk replaced. -/
def putTags (l : List Nat) (a tags : Nat) : List Nat :=
  l.filter (fun w => w / 64 != a / 64) ++ ((List.range 8).filter (fun i => bit tags i)).map (fun i => a / 64 * 64 + 8 * i)
/-- Address of the chunk of a member of a group in a row. -/
def memberAddr (b row : Nat) : Nat := row * 2048 + b * 64
/-- Parity of a row of a group written. -/
def setPar (s : State) (c g row : Nat) (data tags : Nat) : State :=
  let a := g * 131072 + row * 64
  s.modSp c (fun sp => { sp with par := mwrite sp.par a 64 data, ptags := putTags sp.ptags a tags })
/-- XOR of the four members of a row: data and tags. -/
def memberXor (s : State) (c g row : Nat) : Nat × Nat :=
  let sp := (s.core c).sp
  (List.range 4).foldl (fun (p : Nat × Nat) m =>
    let a := memberAddr (g + 8 * m) row
    (p.1 ^^^ mread sp.data a 64, p.2 ^^^ chunkTags sp.full a)) (0, 0)
/-- Data and tags combined into parity. -/
def xorPar (s : State) (c g row data tags : Nat) : State :=
  s.setPar c g row (s.parRow c g row ^^^ data) (chunkTags (s.core c).sp.ptags (g * 131072 + row * 64) ^^^ tags)

/-- Data and tags that a member of a full-stripe write under way in a row brings to its parity. -/
def stripeXor (s : State) (c g row d t : Nat) (of_ : Stripe → Bool) (f : Stripe → Stripe) : State :=
  s.modSp c (fun sp => { sp with stripes := sp.stripes.map (fun u =>
    if u.row = row && of_ u then
      let p := tget u.acc g (0, 0)
      f { u with acc := tset u.acc g (p.1 ^^^ d, p.2 ^^^ t) }
    else u) })
/-- A delta applied (R250). The parity that a full-stripe write of the row has still to write takes it too, if the member it changed has
been written: what is posted beside a full-stripe write is neither lost nor brought twice (DEDUCED from R258, log 106). -/
def applyDelta (s : State) (c : Nat) (d : Delta) : State :=
  let s := s.xorPar c d.g d.row d.data.toNat d.tags.toNat
  let s := s.stripeXor c d.g d.row d.data.toNat d.tags.toNat (fun u => u.done.contains d.bank) id
  s.modSp c (fun sp => { sp with deltas := sp.deltas.filter (fun e => e.wid != d.wid) })
/-- A member of a full-stripe write has been written: its new data and tags go into the parity, and a delta of the words it replaced is
empty from now on (R249; log 106). -/
def memberWritten (s : State) (c : Nat) (w : PWrite) : State :=
  let a := w.addr / 64 * 64
  let (b, row) := (bankOf a, rowOf a)
  let sp := (s.core c).sp
  let s := s.stripeXor c (groupOf b) row (mread sp.data a 64) (chunkTags sp.full a) (fun u => !u.done.contains b)
    (fun u => { u with done := u.done ++ [b] })
  s.modSp c (fun sp => { sp with deltas := sp.deltas.map (fun d =>
    if d.bank = b && d.row = row && d.post < s.now c then { d with data := 0#512, tags := 0#8 } else d) })

/-! ### Errors, repair, retirement (R258 to R262) -/

/-- A correction freeze from this clock's error on (R150). -/
def freezeCore (s : State) (c : Nat) : State := s.modCore c (fun k => { k with freeze := s.pcyc + 1 + Config.freezeClocks })

/-- rec.info of a bank and row (R412). -/
def bankInfo (bank row : Nat) : Nat := row + bank * 2 ^ 16
/-- A class 3 record of a core that charges no context. -/
def coreRecord (s : State) (c cause sub info d0 : Nat) : State :=
  s.post { cls := 3, cause := cause, sub := sub, die := coreDie c, clus := coreClus c, core := coreK c, info := info, d0 := d0 }

/-- The group of a bank; bank 32 + g is the parity of group g. -/
def groupOfBank (b : Nat) : Nat := if b < 32 then groupOf b else b - 32

/-- A reconstruction fault (R261): unread chunks become zero with empty tags, parity is recomputed, the charged context's
GIN is cancelled and the context halts. The recomputed parity holds what the row's posted deltas would bring. Where the error is met
by a parity apply, a rebuild or a freeze's own reads, the spec names no context: none is charged (log 107). -/
def reconFault (s : State) (c bank row : Nat) (chg : Option (Nat × Nat)) : State :=
  let g := groupOfBank bank
  let sp := (s.core c).sp
  let now := s.now c
  let unread (b : Nat) : Bool := sp.errs.any (fun e => e.bank = b && e.row = row && e.unc)
  let members := (List.range 4).map (fun m => g + 8 * m)
  -- a chunk with a corrected error is read; a retired member's is not, where a word that it is made from is not
  let lost := members.filter (fun b => unread b || (sp.ret.getLsbD b && (members ++ [32 + g]).any unread))
  let gone := lost.flatMap (fun b => sp.full.filter (fun w => w / 64 = memberAddr b row / 64))
  let s := s.modSp c (fun sp => lost.foldl (fun sp b =>
    { sp with data := mwrite sp.data (memberAddr b row) 64 0, full := putTags sp.full (memberAddr b row) 0,
              errs := sp.errs.filter (fun e => !(e.bank = b && e.row = row)) })
    { sp with emptied := sp.emptied ++ gone, deltas := sp.deltas.filter (fun d => !(d.g = g && d.row = row && d.post < now)) })
  let (d, t) := s.memberXor c g row
  let s := s.setPar c g row d t
  let s := s.modSp c (fun sp => { sp with errs := sp.errs.filter (fun e => !(e.bank = 32 + g && e.row = row)) })
  let names := (lost ++ [bank]).eraseDups
  let d0 := if names.length ≤ 1 then 0 else (names.map (2 ^ ·)).foldl (· + ·) 0
  let r : Rec := { cls := 3, cause := 0x1D, die := coreDie c, clus := coreClus c, core := coreK c, info := bankInfo bank row, d0 := d0 }
  match chg with
  | none => s.post r
  | some (k, x) =>
    let q := s.recOf k x r
    let s := s.post { q with die := coreDie c, clus := coreClus c, core := coreK c }
    let s := if (s.ctx k x).status = .free then s else s.haltTrapped k x
    s.cancelGin (coreDie c) q.gin

/-- A delta applied inside a freeze. Its parity row is checked: in a repair any error there is one found while the repair is in
progress; else a corrected word is written back, and an uncorrectable one is recomputed from the members (R258). -/
def flushDelta (s : State) (c : Nat) (d : Delta) : State :=
  let here (e : EccErr) : Bool := e.bank = 32 + d.g && e.row = d.row
  let sp := (s.core c).sp
  if !sp.errs.any here then s.applyDelta c d
  else if sp.repAt.any (fun p => p.2 = s.pcyc && groupOfBank p.1 = d.g) then
    (s.reconFault c (32 + d.g) d.row none).modSp c (fun sp => { sp with deltas := sp.deltas.filter (fun e => e.wid != d.wid) })
  else
    let unc := sp.errs.any (fun e => here e && e.unc)
    let s := s.modSp c (fun sp => { sp with errs := sp.errs.filter (fun e => !here e) })
    let s := s.coreRecord c 0x1A (if unc then 1 else 0) (bankInfo (32 + d.g) d.row) 0
    if unc then
      let (x, t) := s.memberXor c d.g d.row
      (s.setPar c d.g d.row x t).modSp c (fun sp => { sp with deltas := sp.deltas.filter (fun e => e.wid != d.wid) })
    else s.applyDelta c d
/-- Outstanding deltas of a group applied inside a freeze that begins after this clock: those posted before now, and, once this
clock's accesses are made, those of this clock (R258, R259). -/
def flushDeltas (s : State) (c g : Nat) : State :=
  let now := s.now c
  (((s.core c).sp.deltas.filter (fun d => d.g = g && d.post < now)).foldl (fun s d => s.flushDelta c d) s).modSp c
    (fun sp => { sp with flush := sp.flush ++ [g] })
/-- The deltas posted in this clock by groups whose deltas are being applied. -/
def flushPosted (s : State) (c : Nat) : State :=
  let sp := (s.core c).sp
  let now := s.now c
  ((sp.deltas.filter (fun d => sp.flush.contains d.g && d.post ≤ now)).foldl (fun s d => s.flushDelta c d) s).modSp c
    (fun sp => { sp with flush := [] })

/-- A data bank is retired, unless its group already holds a retired one (R259). -/
def retireBank (s : State) (c b : Nat) : State :=
  let g := groupOf b
  let sp := (s.core c).sp
  if sp.degraded g || sp.retNext.any (fun x => x < 32 && groupOf x = g) then s
  else
    let s := (s.freezeCore c).flushDeltas c g
    (s.modSp c (fun sp => { sp with retNext := sp.retNext ++ [b] })).coreRecord c 0x1A 2 (bankInfo b 0 + 2 ^ 31) 0
/-- A freeze is over: the retirements made in it take effect. Writes granted earlier and not made yet post no delta then, and update
parity as those of a degraded group do (R259, R260, R262). -/
def settleRetired (s : State) (c : Nat) : State :=
  let now := s.now c
  let s := (s.core c).sp.retNext.foldl (fun (s : State) b =>
    let g := groupOfBank b
    let s := ((s.core c).sp.deltas.filter (fun d => d.g = g && d.post < now)).foldl (fun s d => s.applyDelta c d) s
    s.modSp c (fun sp =>
      let sp := { sp with deltas := sp.deltas.filter (fun d => d.g != g) }
      if b < 32 then { sp with ret := sp.ret ||| BitVec.ofNat 32 (2 ^ b) } else { sp with unp := sp.unp ||| BitVec.ofNat 8 (2 ^ g) })) s
  s.modSp c (fun sp => { sp with retNext := [] })

/-- A repair inside a freeze; the second within 2^30 clocks retires the bank (R258, R259, R262). Bank 32 + g is parity. -/
def repair (s : State) (c bank row : Nat) : State :=
  let g := groupOfBank bank
  let before := (s.core c).sp.repAt.find? (fun p => p.1 = bank)
  let s := s.modSp c (fun sp => { sp with rep := min (sp.rep + 1) 255, repAt := tset sp.repAt bank s.pcyc })
  let s := (s.freezeCore c).flushDeltas c g
  let s := if bank < 32 then s else let (d, t) := s.memberXor c g row; s.setPar c g row d t
  let s := s.coreRecord c 0x1A 1 (bankInfo bank row) 0
  match before with
  | some (_, t) =>
    if s.pcyc ≤ t + 2 ^ 30 then
      if bank < 32 then s.retireBank c bank
      else (s.modSp c (fun sp => { sp with retNext := sp.retNext ++ [bank] })).coreRecord c 0x1A 3 (bankInfo bank 0 + 2 ^ 31) 0
    else s
  | none => s

/-- What ECC finds in a word of a bank that is read (R258). A repair reads the rest of the row, and an error there is one found while
the repair is in progress. -/
def eccError (s : State) (c : Nat) (e : EccErr) (chg : Option (Nat × Nat)) : State :=
  let g := groupOfBank e.bank
  let sp := (s.core c).sp
  let repairing := sp.repAt.any (fun p => p.2 = s.pcyc && groupOfBank p.1 = g)
  let other := sp.errs.any (fun f => f.row = e.row && f.bank != e.bank && groupOfBank f.bank = g)
  if repairing || (e.unc && (other || sp.degraded g || sp.rebuilding g (s.now c) || (e.bank < 32 && sp.unp.getLsbD g))) then
    (s.reconFault c e.bank e.row chg).modSp c (fun sp => { sp with errs := sp.errs.filter (· != e) })
  else
    let s := s.modSp c (fun sp => { sp with errs := sp.errs.filter (· != e) })
    if e.unc then s.repair c e.bank e.row else (s.freezeCore c).coreRecord c 0x1A 0 (bankInfo e.bank e.row) 0

/-- The errors that the accesses of this clock meet (R258). A full-stripe write reads nothing (R249). -/
def eccScan (s : State) (c : Nat) : State :=
  let sp := (s.core c).sp
  let now := s.now c
  (sp.cells.filter (fun k => k.clk = now)).foldl (fun s k =>
    let chg := if k.ctx < 8 then some (c, k.ctx) else k.chg
    let fresh := k.ctx = 8 && (sp.wr.any (fun w => w.clk = now && bankOf w.addr = k.bank && w.stripe)
      || (32 ≤ k.bank && sp.stripes.any (fun t => t.row = k.row && t.parity = some now)))
    if fresh then s.modSp c (fun sp => { sp with errs := sp.errs.filter (fun e => !(e.bank = k.bank && e.row = k.row)) })
    else (sp.errs.filter (fun e => e.bank = k.bank && e.row = k.row)).foldl (fun s e =>
      if (s.core c).sp.errs.contains e then s.eccError c e chg else s) s) s

/-! ### What a write carries out (R303, R304) -/

/-- A message by its number. -/
def msg? (s : State) (id : Nat) : Option Msg := s.msgs.find? (fun m => m.id = id)
/-- One message changed. -/
def modMsg (s : State) (id : Nat) (f : Msg → Msg) : State :=
  { s with msgs := s.msgs.map (fun m => if m.id = id then f m else m) }

/-- The acknowledgement of a remote chunk or an RSTE leaves for its context's core (R303, R304). -/
def ackMsg (s : State) (m : Msg) : State := s.after 0 0 .ackArrival { id := m.id, flag := true }

/-- A chunk of a preload has been written (R131). -/
def preloadWritten (s : State) (c l : Nat) : State :=
  if (s.core c).sp.claims.any (fun w => w.src = .preload l) || (s.core c).sp.wr.any (fun w => w.src = .preload l) then s
  else s.modCore c (fun k => { k with preDone := if k.preDone.contains l then k.preDone else k.preDone ++ [l] })

/-- Bytes that a read of an agent found. -/
def chunkBytes (v : Nat) (w : PWrite) (m : Memory) : Memory :=
  (List.range 64).foldl (fun m i => if w.be.getLsbD i then Machine.mset m (w.addr + i) (BitVec.ofNat 8 (v / 2 ^ (8 * i))) else m) m

/-- One granted access made at its clock: bytes, tags, the delta or the parity of a degraded group (R249, R250, R256, R260). -/
def bankAccess (s : State) (c : Nat) (w : PWrite) : State :=
  let sp := (s.core c).sp
  let a := w.addr / 64 * 64
  let b := bankOf w.addr
  let g := groupOf b
  let old := mread sp.data a 64
  let oldTags := chunkTags sp.full a
  let data := w.apply sp.data
  let full := (tagWords w).foldl (fun l t => if w.tval then (if l.contains t then l else l ++ [t]) else l.filter (· != t)) sp.full
  let dd := old ^^^ mread data a 64
  let dt := oldTags ^^^ chunkTags full a
  let now := s.now c
  let fill (e : Delta) : Delta :=
    if e.wid = w.id then { e with data := BitVec.ofNat 512 dd, tags := BitVec.ofNat 8 dt } else e
  let times := match w.rel with | some t => w.relWords.foldl (fun l a => tset l a t) sp.tagLt | none => sp.tagLt
  let s := s.modSp c (fun sp => { sp with data := data, full := full, tagLt := times, last := tset sp.last b now,
                                          wr := sp.wr.filter (fun v => v.id != w.id), deltas := sp.deltas.map fill })
  if w.stripe then s.memberWritten c w
  else if !sp.degraded g || sp.unp.getLsbD g then s
  else if sp.ret.getLsbD b then let (d, t) := s.memberXor c g (rowOf a); s.setPar c g (rowOf a) d t
  else s.xorPar c g (rowOf a) dd dt

/-- An access made at once, without a cell of its own: its bytes, tags and parity. It reads the old words, which ECC checks (R258). -/
def directAccess (s : State) (c : Nat) (w : PWrite) : State :=
  let a := w.addr / 64 * 64
  let g := groupOf (bankOf a)
  let s := ((s.core c).sp.errs.filter (fun e => e.bank = bankOf a && e.row = rowOf a)).foldl (fun (s : State) e =>
    if (s.core c).sp.errs.contains e then s.eccError c e w.chg else s) s
  let (old, tags) := (mread (s.core c).sp.data a 64, chunkTags (s.core c).sp.full a)
  let s := s.bankAccess c { w with id := s.nextId }
  let sp := (s.core c).sp
  if sp.degraded g || sp.unp.getLsbD g then s
  else s.xorPar c g (rowOf a) (old ^^^ mread sp.data a 64) (tags ^^^ chunkTags sp.full a)
/-- An RSTE has acted: it leaves the remote tag queue, and is acknowledged (R304). -/
def rsteActed (s : State) (c : Nat) (m : Msg) : State :=
  (s.modCore c (fun k => { k with rtq := k.rtq.filter (· != m.id) })).ackMsg m
/-- The tag of a word of core c has changed: where it is empty, the oldest RSTE queued for the word acts at once (R304, R320). -/
def tagChanged (s : State) (c a : Nat) : State :=
  if (s.core c).sp.full.contains a then s
  else match (s.core c).rtq.findSome? (fun id => (s.msg? id).filter (fun m => m.word = a)) with
    | none => s
    | some m => (s.directAccess c m.access).rsteActed c m
/-- Words that a reconstruction fault has emptied: what was queued for them is tested (R261, R304). -/
def emptiedDue (s : State) (c : Nat) : State :=
  let l := (s.core c).sp.emptied
  l.foldl (fun s a => s.tagChanged c a) (s.modSp c (fun sp => { sp with emptied := [] }))
/-- Words of a command turn full as it completes: their tags, and the parity of the tags (R256, R333). -/
def setTags (s : State) (c : Nat) (w : PWrite) : State := (tagWords w).foldl (fun s a => s.tagChanged c a) (s.directAccess c w)

end State

/-! ### The steps -/

/-- SCRATCHPAD_DRAIN_WRITE: core; id, the access granted for this clock; or flag and n, the row whose full-stripe parity is
written (R249). -/
def execScratchpadDrainWrite (s : State) : Out :=
  let c := s.arg.core
  if s.arg.flag then
    let row := s.arg.n
    let acc := (((s.core c).sp.stripes.find? (fun t => t.row = row && t.parity = some (s.now c))).map (·.acc)).getD []
    .next ((List.range 8).foldl (fun (s : State) g =>
      if (s.core c).sp.unp.getLsbD g then s else let (d, t) := tget acc g (0, 0); s.setPar c g row d t)
      (s.modSp c (fun sp => { sp with stripes := sp.stripes.filter (fun t => t.row != row || t.parity != some (s.now c)) })))
  else match (s.core c).sp.wr.find? (fun w => w.id = s.arg.id) with
    | none => .next s
    | some w =>
      if w.read then
        let v := mread (s.core c).sp.data w.addr 64
        let s := s.modSp c (fun sp => { sp with wr := sp.wr.filter (fun x => x.id != w.id), last := tset sp.last (bankOf w.addr) (s.now c) })
        match w.src with
        | .copyRead id => .next (s.copyRead id (State.chunkBytes v w))
        | .copyIndex id => .next (s.copyIndex id w.addr v)
        | .sendRead id =>
          let read (r : SendRun) : SendRun :=
            if r.id = id then { r with left := r.left - 1, got := State.chunkBytes v w r.got } else r
          let s := { s with fab := { s.fab with sends := s.fab.sends.map read } }
          -- the bytes cross to the optical port die, in a time not promised (R452)
          .next (s.after 0 0 .sendDrain { id := id })
        | _ => .next s
      else match w.src with
        | .msg id => match s.msg? id with
          | none => .next (s.bankAccess c w)
          | some m =>
            let k := s.core c
            if m.rste.isSome && (k.sp.full.contains m.word || (s.queued c).any (fun v => State.tagWords v = [m.word])) then
              -- the word is full, or waited for, at its claimed clock: the RSTE waits in the remote tag queue, its delta empty (R304)
              let s := s.modSp c (fun sp => { sp with wr := sp.wr.filter (fun x => x.id != w.id) })
              .next (s.modCore c (fun k => { k with rtq := k.rtq ++ [id] }))
            else
              let s := s.bankAccess c w
              .next (if m.rste.isSome then s.rsteActed c m else s.ackMsg m)
        | src =>
          let s := s.bankAccess c w
          let s := (State.tagWords w).foldl (fun s a => s.tagChanged c a) s
          match src with
          | .entry id => .next (s.modCore c (fun k => { k with cb := k.cb.filter (fun e => e.id != id) }))
          | .copy id => .next (s.copyLanded id)
          | .copyTag id => .next (s.copyTagged id)
          | .recv id =>
            let one (v : VRes) : VRes :=
              if v.id = id then { v with left := v.left - 1, clk := if v.left ≤ 1 then some (s.now c) else v.clk } else v
            .next { s with vres := s.vres.map one }
          | .preload l => .next (s.preloadWritten c l)
          | _ => .next s

/-- COPY_COMPLETE: id; flag: the issuing timeline learns of it, one route after the destinations (R327, R333). -/
def execCopyComplete (s : State) : Out :=
  match s.copy? s.arg.id with
  | none => .next s
  | some r =>
    if s.arg.flag then .next (s.endCopy r r.fold r.wts)
    else
      -- without SIGV the words turn full as the command completes at its destinations (R328, R333)
      let s := if r.cmd.isTagf && !r.cmd.isSigv then
          r.cmd.dests.foldl (fun s c => (s.tagWrites r).foldl (fun s w => s.setTags c w) s) s else s
      let s := if r.cmd.b 42 then r.cmd.dests.foldl (fun s c => s.modTl c (r.cmd.f 36 6) (fun t =>
        let t := t.number
        t.complete t.rel.toNat r.fold 0)) s else s
      let s := s.modCopy r.id (fun r => { r with phase := .back })
      let s := if r.cmd.dk = 3 then
          (s.arrived r.cmd.core r.cmd.ctx r.entry).now_ .engineProducerPublish { core := r.cmd.core, ctx := r.cmd.ctx, n := r.cmd.dst }
        else s
      .next (if r.route = 0 then s.now_ .copyComplete { id := r.id, flag := true }
        else s.sched_ (s.pcyc + r.route) 0 .copyComplete { id := r.id, flag := true })

/-- PARITY_DELTA_APPLY: core, id (R250). -/
def execParityDeltaApply (s : State) : Out :=
  match (s.core s.arg.core).sp.deltas.find? (fun d => d.wid = s.arg.id) with
  | some d => .next (s.applyDelta s.arg.core d)
  | none => .next s

/-- BANK_SLEEP: core; n, the bank, untouched for 4,096 clocks (R263). -/
def execBankSleep (s : State) : Out :=
  .next (s.modSp s.arg.core (fun sp => match sp.powerOf s.arg.n with
    | .on => { sp with power := tset sp.power s.arg.n .sleep }
    | _ => sp))

/-- BANK_WAKE: core; n, the bank. A bank that was gated holds zeros and empty tags, and its group rebuilds parity (R263). -/
def execBankWake (s : State) : Out :=
  let b := s.arg.n
  let gone := match (s.core s.arg.core).sp.powerOf b with
    | .waking _ true => (s.core s.arg.core).sp.full.filter (fun a => bankOf a = b)
    | _ => []
  -- an RSTE queued for a word that is empty now is tested (R257, R304)
  .next (gone.foldl (fun s a => s.tagChanged s.arg.core a) (s.modSp s.arg.core (fun sp => match sp.powerOf b with
    | .waking w gated =>
      let sp := { sp with power := tset sp.power b .on, last := tset sp.last b w }
      if gated then { sp with data := sp.data.filter (fun c => bankOf c.1 != b), full := sp.full.filter (fun a => bankOf a != b),
                              errs := sp.errs.filter (fun e => e.bank != b), reb := tset sp.reb (groupOf b) w }
      else sp
    | _ => sp)))

/-- PARITY_REBUILD_ROW: core; n, the group; m, the row. With flag, its read: the four members, checked by ECC. Without, its write: the
parity row gets what was read, and deltas posted before the read and not applied are dropped (R258, R263). -/
def execParityRebuildRow (s : State) : Out :=
  let (c, g, row) := (s.arg.core, s.arg.n, s.arg.m)
  if s.arg.flag then
    let s := ((s.core c).sp.errs.filter (fun e => e.bank < 32 && groupOf e.bank = g && e.row = row)).foldl (fun (s : State) e =>
      if (s.core c).sp.errs.contains e then s.eccError c e none else s) s
    let (d, t) := s.memberXor c g row
    let s := s.modSp c (fun sp => (List.range 4).foldl (fun sp m => sp.touch (s.now c) (g + 8 * m)) sp)
    .next (s.modSp c (fun sp => { sp with rebRow := tset sp.rebRow g (BitVec.ofNat 512 d, BitVec.ofNat 8 t) }))
  else
    let (d, t) := tget (s.core c).sp.rebRow g (0#512, 0#8)
    let s := s.setPar c g row d.toNat t.toNat
    let w := tget (s.core c).sp.reb g 0
    .next (s.modSp c (fun sp =>
      { sp with deltas := sp.deltas.filter (fun e => !(e.g = g && e.row = row && e.post < w + 2 * row)),
                errs := sp.errs.filter (fun e => !(e.bank = 32 + g && e.row = row)),
                reb := if row = 2047 then tdel sp.reb g else sp.reb }))

end Sys2Proof.Machine
end

