-- ==== Sys2Proof/Machine/Drain.lean ====
section
/-! DEFINITION. Release and draining of the commit buffer, and arrivals at a scratchpad (R253, R303 to R305, R310, R318, R319,
R325, R340). -/

namespace Sys2Proof.Machine

/-- The lines of [va, va + n) under an identifier. -/
def CLine.within (l : CLine) (asid va n : Nat) : Bool := l.asid = asid && va ≤ l.va && l.va < va + n
/-- A list of copies in which a line is clean from now on. -/
def cleanIn (ls : List CLine) (l : CLine) : List CLine :=
  ls.map (fun m => if m.asid = l.asid && m.va = l.va then { m with dirty := 0#128 } else m)

namespace State

/-! ### Release (R253, R280) -/

/-- A DRAIN entry whose tile has not been compared clean. In split mode nothing is compared, and no tile holds an entry
(R232). -/
def tileHolds (s : State) (c : Nat) (e : Entry) : Bool :=
  match e.kind with
  | .drain _ _ _ _ t _ =>
    let k := s.core c
    !k.split && [k.eng0, k.eng1].any (fun g => (match g.tile with | some u => u.id = t | none => false) || g.closed.any (fun u => u.id = t))
  | _ => false
/-- The write grant an entry needs has returned. -/
def Entry.granted (e : Entry) : Bool := match e.grant with | .asked => false | _ => true
/-- A comparison of the context is due (R228). -/
def comparing (s : State) (c x : Nat) : Bool := (s.core c).eng0.closed.any (fun t => t.ctx = x && (t.due.isSome || t.failed))

/-- The covered entries of a context that may be released join those released before, in order (R253). -/
def releaseCtx (s : State) (c x : Nat) : State :=
  match (s.ctx c x).quench with
  | none => s
  | some q =>
    if s.comparing c x then s
    else
      let cb := (s.core c).cb
      let held := cb.filter (fun e => e.ctx = x && e.st = .held && e.serial ≤ q)
      let ok := held.takeWhile (fun e => Entry.granted e && !s.tileHolds c e)
      let ids := ok.map (·.id)
      let cb' := cb.filter (fun e => e.st != .held) ++ ok.map (fun e => { e with st := .released })
        ++ cb.filter (fun e => e.st = .held && !ids.contains e.id)
      let s := if ok.isEmpty then s else s.modCore c (fun k => { k with cb := cb' })
      if ok.length = held.length then s.modCtx c x (fun k => { k with quench := none }) else s
/-- Release for every context of a core, at the start of a clock. -/
def releaseCore (s : State) (c : Nat) : State := (List.range 8).foldl (fun s x => s.releaseCtx c x) s

/-! ### Scratchpad entries (R249, R253) -/

/-- A scratchpad entry: address, data, enables, full-stripe member. -/
def EntryKind.spad? : EntryKind → Option (Nat × Chunk × BitVec 64 × Bool)
  | .spad a d be st => some (a, d, be, st)
  | .drain a d be _ _ _ => some (a, d, be, false)
  | _ => none

/-- The write of an entry. -/
def entryWrite (c : Nat) (e : Entry) (a : Nat) (d : Chunk) (be : BitVec 64) (st : Bool) : PWrite :=
  { id := 0, clk := 0, addr := a, data := d, be := be, src := .entry e.id, chg := some (c, e.ctx), stripe := st }

/-- Entries marked as claimed for a clock. -/
def markClaimed (s : State) (c : Nat) (ids : List Nat) (x : Nat) : State :=
  s.modCore c (fun k => { k with cb := k.cb.map (fun e => if ids.contains e.id then { e with st := .claimed x } else e) })

/-- Cells of a member's eight banks, or of the eight parity banks, at clock x (R249, R260, R262). -/
def stripeCells (sp : Spad) (m x : Nat) : List (Nat × Nat) :=
  (List.range 8).flatMap (fun g =>
    let b := if m < 4 then 8 * m + g else 32 + g
    if (m < 4 && sp.ret.getLsbD b) || (m = 4 && sp.unp.getLsbD g) then []
    else if sp.degraded g then [(b, x), (b, x + 1)] else [(b, x)])

/-- The next column of a full-stripe write is claimed, if it is free (R249, R253). -/
def claimStripe (s : State) (c : Nat) (t : Stripe) (m : Nat) : State :=
  let x := s.now c + 15
  match s.claimCells c (stripeCells (s.core c).sp m x) t.row (some (c, t.ctx)) with
  | (none, s) => s
  | (some s, _) =>
    if m = 4 then s.modSp c (fun sp => { sp with stripes := sp.stripes.map (fun u =>
      if u.entry = t.entry then { u with parity := some x, next := 5 } else u) })
    else
      let ids := (List.range 8).map (fun i => t.entry + 8 * m + i)
      let es := (s.core c).cb.filter (fun e => ids.contains e.id)
      let s := es.foldl (fun s e => match EntryKind.spad? e.kind with
        | some (a, d, be, st) => s.grantWrite c { entryWrite c e a d be st with clk := x }
        | none => s) s
      let s := s.markClaimed c ids x
      s.modSp c (fun sp => { sp with stripes :=
        (sp.stripes.filter (fun u => u.entry != t.entry)) ++ [{ t with next := m + 1, first := if m = 0 then x else t.first }] })

/-- An earlier entry of the same context keeps an entry back: one that has not left and, for a scratchpad entry, is not a
scratchpad entry that has claimed its column (R253). -/
def keptBack (cb : List Entry) (e : Entry) : Bool :=
  (cb.takeWhile (fun f => f.id != e.id)).any (fun f => f.ctx = e.ctx &&
    !((EntryKind.spad? e.kind).isSome && (EntryKind.spad? f.kind).isSome && (match f.st with | .claimed _ => true | _ => false)))

/-- The scratchpad entry that claims in this clock (R253). -/
def drainSpad (s : State) (c : Nat) : State :=
  let sp := (s.core c).sp
  if sp.starved (s.now c) then s
  else match sp.stripes.find? (fun t => t.parity.isNone) with
    | some t => s.claimStripe c t t.next
    | none =>
      let cb := (s.core c).cb
      match cb.find? (fun e => e.st = .released && (EntryKind.spad? e.kind).isSome && !keptBack cb e) with
      | none => s
      | some e => match EntryKind.spad? e.kind with
        | none => s
        | some (a, d, be, st) =>
          if st then s.claimStripe c { row := rowOf a, first := 0, ctx := e.ctx, entry := e.id } 0
          else match s.claimAccess c (entryWrite c e a d be false) with
            | (some s, _) => s.markClaimed c [e.id] (s.now c + 15)
            | (none, s) => s

/-! ### Entries that leave to a network (R253, R310) -/

/-- Number of bytes enabled. -/
def beCount (be n : Nat) : Nat := ((List.range n).filter (fun i => be / 2 ^ i % 2 = 1)).length
/-- A context's pending bytes and its send number rise as an entry leaves (R310, R348). -/
def owe (s : State) (c x n : Nat) : State := s.modCtx c x (fun k => { k with pbytes := (k.pbytes + n) % 2 ^ 48 })
/-- The entry has left. -/
def dropEntry (s : State) (c : Nat) (e : Entry) : State :=
  s.modCore c (fun k => { k with cb := k.cb.filter (fun f => f.id != e.id) })
/-- The entry has left and took a send number. -/
def sent (s : State) (c : Nat) (e : Entry) : State :=
  (s.dropEntry c e).modCtx c e.ctx (fun k => { k with sendNo := k.sendNo + 1 })

/-- The request of an entry. -/
def entryReq (s : State) (c : Nat) (e : Entry) (g : GAddr) (w : Want) : Req :=
  let k := s.ctx c e.ctx
  { id := 0, who := .ctx c e.ctx, serial := e.serial, launch := k.launch, task := k.task, sendNo := k.sendNo, g := g, want := w,
    p := if g.ent.home = 4 then none else match e.grant with | .granted p => some p | _ => none }

/-- Dirty L1 lines that meet a condition written to the slice; they stay in the L1, clean (R319, R343). -/
def l1ToSlice (s : State) (c : Nat) (p : CLine → Bool) : State :=
  ((s.core c).l1.filter (fun l => p l && l.dirty != 0#128)).foldl (fun s l =>
    (s.modCore c (fun k => { k with l1 := cleanIn k.l1 l })).toSlice c l) s
/-- A dirty L1 line that meets a condition may not change its slice copy yet (R284). -/
def backWaits (s : State) (c : Nat) (p : CLine → Bool) : Bool := (s.core c).l1.any (fun l => p l && s.l1Stays c l)
/-- Dirty lines of the slice that meet a condition leave for their homes, each with its valid bytes (R273): what else is done
for a line comes first. -/
def sliceToHome (s : State) (c : Nat) (p : CLine → Bool) (send : State → CLine → State) : State :=
  ((s.clu (clusOf c)).l2.filter (fun l => p l && l.dirty != 0#128)).foldl (fun s l =>
    send (s.modClu (clusOf c) (fun u => { u with l2 := cleanIn u.l2 l })) l) s

/-- Dirty lines of a range go to the slice, or on to their homes (R319). -/
def writeRange (s : State) (c : Nat) (e : Entry) (g : GAddr) (toHome : Bool) : State :=
  let k := s.ctx c e.ctx
  let here (l : CLine) : Bool := l.within g.ent.asid g.va g.len
  let s := s.l1ToSlice c here
  if !toHome then s
  else s.sliceToHome c here (fun s l =>
    (s.owe c e.ctx (beCount l.valid.toNat 128)).writeBack (.ctx c e.ctx) k.launch k.task k.sendNo l.ent l.va l.data.toNat
      l.valid.toNat)

/-- A store to a line that is not hardware-coherent stays in the cache it writes (R273). -/
def cacheStore (s : State) (c : Nat) (e : Entry) (g : GAddr) (data be : Nat) : State :=
  let k := s.ctx c e.ctx
  let s := s.noFill (clusOf c) g.ent.asid g.va
  let new : CLine := { asid := g.ent.asid, va := g.va / 128 * 128, data := 0#1024, valid := 0#128, ent := g.ent }
  let put (o : Option CLine) : CLine := { (o.getD new).patch g.va data be true with launch := k.launch }
  if g.ent.cache = 1 then s.fillL1 c (put (findLine (s.core c).l1 g.ent.asid g.va))
  else s.fillL2 c (put (findLine (s.clu (clusOf c)).l2 g.ent.asid g.va))

/-- A hardware-coherent cached store: the copies of its cluster as it drains (R273, R340). -/
def throughStore (s : State) (c launch : Nat) (g : GAddr) (data be : Nat) : State :=
  let k := clusOf c
  let s := s.noFill k g.ent.asid g.va
  let new : CLine := { asid := g.ent.asid, va := g.va / 128 * 128, data := 0#1024, valid := 0#128, ent := g.ent }
  let l := (findLine (s.clu k).l2 g.ent.asid g.va).getD new
  -- the pinned copy of a line that a tile not yet compared names changes when the home applies the write (R284)
  let s := s.fillL2 c
    { (if s.pinWaits k g.ent.asid g.va then l else l.patch g.va data be false) with wpend := l.wpend + 1, launch := launch }
  let s := s.modCore c (fun q => { q with l1 := q.l1.map (fun m => if m.asid = g.ent.asid && m.va = g.va / 128 * 128 then
    m.patch g.va data be false else m) })
  (List.range 4).foldl (fun s i => if 4 * k + i = c then s
    else s.modCore (4 * k + i) (fun q => { q with l1 := dropLine q.l1 g.ent.asid g.va })) s

/-- A contribution leaves: no copy of the cluster serves the element any more, but a pinned one, which changes with its home's
(R284, R314, R316). Dirty bytes of a line that hardware does not keep coherent go home before it (R354; log 15). -/
def dropCopies (s : State) (c : Nat) (g : GAddr) : State :=
  if g.ent.coh != 0 then s.lendLine c g.ent g.va
  else
    let k := clusOf c
    let s := s.noFill k g.ent.asid g.va
    let here (l : CLine) : Bool := l.asid = g.ent.asid && l.va = g.va / 128 * 128
    let el : BitVec 128 := BitVec.ofNat 128 ((2 ^ g.len - 1) * 2 ^ (g.va % 128))
    let left (l : CLine) : Option CLine :=
      if !here l || l.pins != 0 then some l else if l.wpend = 0 then none else some { l with valid := l.valid &&& ~~~el }
    let s := s.modClu k (fun u => { u with l2 := u.l2.filterMap left })
    (List.range 4).foldl (fun s i => s.modCore (4 * k + i) (fun q => { q with l1 := q.l1.filter (fun l => !here l) })) s

/-- A line of a range that a promotion of the core is finishing (R351). -/
def promoting (s : State) (c : Nat) (g : GAddr) : Bool :=
  (s.core c).plog.any (fun p => p.st = 1
    && lineIn p.lines { asid := g.ent.asid, va := g.va / 128 * 128, data := 0#1024, valid := 0#128, ent := g.ent })
/-- A write to a line may not leave the core yet: a promotion is finishing its range (R351), or an atomic of the cluster on a
cached line is out (R354). -/
def lineBusy (s : State) (c : Nat) (g : GAddr) : Bool :=
  s.promoting c g || ((g.ent.cache = 1 || g.ent.cache = 2) && s.atomicOut (clusOf c) g.ent.asid g.va)

/-- Commands an engine holds or that are on their way to it (R325). -/
def engineLoad (s : State) (k eng : Nat) : Nat := (s.copies.filter (fun r => r.clus = k && r.cmd.eng = eng)).length

/-- The lines of an entry of PIN or UNPIN. -/
def pinLines (g : GAddr) : List Nat := (List.range (g.len / 128)).map (fun i => g.va + 128 * i)

/-- PIN as its entry drains (R318). -/
def pinEntry (s : State) (c : Nat) (e : Entry) (g : GAddr) : State :=
  let k := clusOf c
  let ls := pinLines g
  let l2 := (s.clu k).l2
  let pinned (va : Nat) : Nat := match findLine l2 g.ent.asid va with | some l => l.pins | none => 0
  let total := (l2.filter (fun l => l.pins != 0)).length + (ls.filter (fun va => pinned va = 0)).length
  if ls.any (fun va => 255 ≤ pinned va) || 32768 < total then
    (s.dropEntry c e).programError c e.ctx { cause := 0x11, sub := 7, slot := 2, addr := g.va, asid := g.ent.asid } e.pos
  else
    let launch := (s.ctx c e.ctx).launch
    let s := ls.foldl (fun s va =>
      let new : CLine := { asid := g.ent.asid, va := va, data := 0#1024, valid := 0#128, ent := g.ent }
      let l := (findLine (s.clu k).l2 g.ent.asid va).getD new
      let s := s.fillL2 c { l with pins := l.pins + 1, pinBy := l.pinBy ++ [launch] }
      (s.owe c e.ctx 128).ask (s.entryReq c e { g with va := va, len := 128 } .pin)) s
    s.sent c e

/-- One pin of a line of a cluster removed (R284, R318). -/
def unpinLine (s : State) (k asid va launch : Nat) : State :=
  match findLine (s.clu k).l2 asid va with
  | none => s
  | some l =>
    let m := { l with pins := l.pins - 1, pinBy := l.pinBy.erase launch }
    let s := s.modClu k (fun u => { u with l2 := u.l2.map (fun n => if n.asid = asid && n.va = l.va then m else n) })
    if m.pins != 0 then s
    else
      let s := match l.home with
        | some p => s.modLine p (fun i => { i with pins := i.pins.filter (· != k) })
        | none => s
      s.releasePinned k

/-- A message of the context has not been sent: later SEND, COLL and CSTAB entries wait behind it (R380). -/
def sendWaits (s : State) (c x task : Nat) : Bool :=
  s.fab.sends.any (fun r => r.core = c && r.ctx = x && r.task = task && r.phase < 3)

/-- One entry leaves to its network; none where it cannot leave yet (R253, R325, R351). -/
def leave (s : State) (c : Nat) (e : Entry) : Option State :=
  let k := s.ctx c e.ctx
  match e.kind with
  | .remote cores a d be =>
    let m : Msg := { id := 0, core := c, ctx := e.ctx, task := 0, launch := 0, dest := 0, addr := a, data := d, be := be }
    some ((cores.foldl (fun s q => s.sendRemote c e.ctx k.launch k.task { m with dest := q } (beCount be.toNat 64)) s).sent c e)
  | .global g d be =>
    if s.lineBusy c g || (g.ent.coh != 0 && g.ent.cache = 2 && s.pinWaits (clusOf c) g.ent.asid g.va)
        || (g.ent.coh != 0 && g.ent.cache = 1 && !s.l1Room c g.ent.asid g.va) then none
    else if g.ent.coh != 0 && (g.ent.cache = 1 || g.ent.cache = 2) then
      some ((s.cacheStore c e g d.toNat be.toNat).sent c e)
    else
      let s := if g.ent.cache = 1 || g.ent.cache = 2 then s.throughStore c k.launch g d.toNat be.toNat else s
      some (((s.owe c e.ctx (beCount be.toNat 64)).ask (s.entryReq c e g (.write d.toNat be.toNat))).sent c e)
  | .red g _ _ | .fred g _ _ =>
    if s.lineBusy c g || (g.ent.coh != 0 && !s.lendOk c g.ent g.va) then none else
    let w : Want := match e.kind with
      | .red _ op v => .red op v
      | .fred _ ty v => .fred ty v
      | _ => .sync
    let s := (s.dropCopies c g).owe c e.ctx g.len
    let r := s.entryReq c e g w
    if g.ent.home = 4 then some ((s.ask r).sent c e)
    else
      let r := { r with id := s.nextId, lt := s.agentLt r.who }
      let s := { s with nextId := s.nextId + 1, reqs := s.reqs ++ [r] }
      some ((s.after (s.meshWait (coreDie c)) (lineRoute r.who g.va 0) .reductionApply { id := r.id }).sent c e)
  | .copy cmd =>
    if 64 ≤ s.engineLoad (clusOf c) cmd.eng then none
    else
      let r : CopyRun := { id := s.nextId, cmd := cmd, entry := e.id, task := k.task, serial := e.serial, pos := e.pos, clus := clusOf c,
                           sn := k.sendNo }
      let s := { s with nextId := s.nextId + 1, copies := s.copies ++ [r] }
      some ((s.sched_ (s.pcyc + 4) 0 .copyAccept { id := r.id }).dropEntry c e)
  | .send a len chip q tl sc =>
    if s.sendWaits c e.ctx k.task then none else
    let r : SendRun := { id := s.nextId, core := c, ctx := e.ctx, task := k.task, launch := k.launch, serial := e.serial, sn := k.sendNo,
                         tl := tl, sc := sc, chip := chip, queue := q, addr := a, len := len }
    let s := { s with nextId := s.nextId + 1, fab := { s.fab with sends := s.fab.sends ++ [r] } }
    some ((s.dropEntry c e).now_ .sendDrain { id := r.id })
  | .coll tab arg tl sc =>
    if s.sendWaits c e.ctx k.task then none else
    let w : CWait := { id := s.nextId, core := c, ctx := e.ctx, task := k.task, launch := k.launch, serial := e.serial, sn := k.sendNo,
                       tab := tab, va := arg, coll := true, steps := 0, tl := tl, sc := sc }
    let s := { s with nextId := s.nextId + 1, coll := { s.coll with waits := s.coll.waits ++ [w] } }
    some ((s.dropEntry c e).after 0 0 .collAccept { id := w.id })
  | .cstab tab va steps =>
    if s.sendWaits c e.ctx k.task then none else
    let w : CWait := { id := s.nextId, core := c, ctx := e.ctx, task := k.task, launch := k.launch, serial := e.serial, sn := k.sendNo,
                       tab := tab, va := va, coll := false, steps := steps, tl := 0, sc := .pkg }
    let s := { s with nextId := s.nextId + 1, coll := { s.coll with waits := s.coll.waits ++ [w] } }
    some ((s.dropEntry c e).after 0 0 .cstabLoad { id := w.id })
  | .launch q part d =>
    let s := s.dropEntry c e
    if part = 0 then
      let l : LEntry := { id := s.nextId, q := q, parts := [d], core := c, ctx := e.ctx, task := k.task, launch := k.launch, sn := k.sendNo }
      some { s with nextId := s.nextId + 1, dist := { s.dist with lentries := s.dist.lentries ++ [l] } }
    else
      let mine := fun (l : LEntry) => l.core = c && l.ctx = e.ctx && l.task = k.task && l.parts.length = part
      match s.dist.lentries.find? mine with
      | none => some s
      | some l =>
        let s := { s with dist := { s.dist with lentries := s.dist.lentries.map (fun m =>
          if m.id = l.id then { m with parts := m.parts ++ [d] } else m) } }
        some (if part = 3 then s.now_ .deviceLaunchWrite { id := l.id } else s)
  | .notice code pos =>
    some ((s.post (s.recOf c e.ctx { cls := 5, cause := 0, sub := 6, slot := 0, pos := pos, info := code })).dropEntry c e)
  | .pin g => some (s.pinEntry c e g)
  | .unpin g =>
    some (((pinLines g).foldl (fun s va => s.unpinLine (clusOf c) g.ent.asid va k.launch) s).dropEntry c e)
  | .gwb g sc =>
    if g.ent.cache = 0 || g.ent.coh = 0 || sc = .core then some (s.dropEntry c e)
    else if s.backWaits c (fun l => l.within g.ent.asid g.va g.len) then none
    else some ((s.writeRange c e g (sc != .clus)).sent c e)
  | .ginv g sc =>
    if g.ent.cache = 0 || sc = .core then some (s.dropEntry c e)
    else
      let here (l : CLine) : Bool := l.within g.ent.asid g.va g.len
      if s.backWaits c here then none
      else some (((s.writeRange c e g (sc != .clus)).dropLines c (sc != .clus) here).sent c e)
  | _ => some (s.dropEntry c e)

/-- One entry that is no scratchpad entry leaves (R253). -/
def drainOther (s : State) (c : Nat) : State :=
  let cb := (s.core c).cb
  let cand := cb.filter (fun e => e.st = .released && (EntryKind.spad? e.kind).isNone && !keptBack cb e)
  (cand.findSome? (fun e => s.leave c e)).getD s

end State

/-! ### The steps -/

/-- The core's clock is one of a correction freeze: the 24 after the clock in which the error was found (R150). -/
def State.stoodStill (s : State) (c : Nat) : Bool := s.pcyc < (s.core c).freeze && (s.core c).freeze ≤ s.pcyc + Config.freezeClocks

/-- COMMIT_DRAIN: core (R253). A freeze and a tile that disagrees stop it (R150, R229). -/
def execCommitDrain (s : State) : Out :=
  let c := s.arg.core
  if s.pcyc < (s.core c).stopDrain || s.stoodStill c then .next s
  else .next ((s.drainSpad c).drainOther c)

/-- REMOTE_STORE_ARRIVAL: id, the chunk (R303). -/
def execRemoteStoreArrival (s : State) : Out :=
  match s.msg? s.arg.id with
  | none => .next s
  | some m => .next ((s.modMsg m.id (fun m => { m with here := true })).claim m.dest [m.access])

/-- RSTE_ARRIVAL: id. While the remote tag queue is full the RSTE waits outside; RSTEs that have arrived and not acted take its
places (R304). -/
def execRsteArrival (s : State) : Out :=
  match s.msg? s.arg.id with
  | none => .next s
  | some m =>
    let busy := (s.msgs.filter (fun n => n.dest = m.dest && n.rste.isSome && n.here)).length
    if 32 ≤ busy then .next (s.sched_ (s.pcyc + 1) (remoteRoute m.core m.ctx m.dest) .rsteArrival s.arg)
    else
      .next ((s.modMsg m.id (fun m => { m with here := true })).claim m.dest [m.access])

end Sys2Proof.Machine
end

