-- ==== Sys2Proof/Machine/Fabric.lean ====
section
/-! DEFINITION. The fabric: the port and its routes, links and wavelengths, messages and link receive queues (R380, R381, R392
to R398). -/

namespace Sys2Proof.Machine

/-! ### Links (R394, R395) -/

/-- Both directions have an active wavelength (R395). -/
def Link.up (l : Link) : Bool := !l.down && l.tx != 0#8 && l.rx != 0#8

/-- Bytes that a packet carries. -/
def pktBytes : Packet → Nat
  | .msg _ _ _ _ _ _ b | .peerRep _ _ _ _ _ b | .coll _ _ _ _ _ b => b.length
  | _ => 0
/-- Flits of a packet: its bytes, 16 to a flit, and one that holds its CRC. The part's packet format is not given; the count
only places a change of the active set (PRESUMED). -/
def pktFlits (p : Packet) : Nat := (pktBytes p + 15) / 16 + 1
/-- Class of a packet (R396). -/
def pktClass : Packet → Nat
  | .msg _ _ _ _ _ _ _ => 0
  | .peerReq _ _ _ _ _ _ _ => 1
  | .peerRep _ _ _ _ _ _ => 2
  | .coll _ _ _ _ _ _ => 3
  | _ => 4

/-- A flit whose number is a multiple of 8 is among those from a to b − 1. -/
def striping (a b : Nat) : Bool := (a + 7) / 8 * 8 < b
/-- An agreed transmit set applies with a flit from a to b − 1, or at once on a link that carries no flit (R395). -/
def Link.settleTx (l : Link) (a b : Nat) : Link :=
  match l.txNew with
  | some x => if striping a b || !l.up then { l with tx := x, txNew := none } else l
  | none => l
/-- The same of the receive direction. -/
def Link.settleRx (l : Link) (a b : Nat) : Link :=
  match l.rxNew with
  | some x => if striping a b || !l.up then { l with rx := x, rxNew := none } else l
  | none => l
/-- A packet's flits leave. -/
def Link.emit (l : Link) (p : Packet) : Link :=
  { l.settleTx l.flits (l.flits + pktFlits p) with flits := l.flits + pktFlits p }
/-- A packet's flits come in. -/
def Link.take (l : Link) (p : Packet) : Link :=
  { l.settleRx l.rflits (l.rflits + pktFlits p) with rflits := l.rflits + pktFlits p }
/-- Both ends agree on a change of the active set of one direction, rx the receive direction: it changes the set last agreed
on (R395). -/
def Link.agree (l : Link) (rx : Bool) (f : BitVec 8 → BitVec 8) : Link :=
  if rx then { l with rxNew := some (f (l.rxNew.getD l.rx)) } else { l with txNew := some (f (l.txNew.getD l.tx)) }

namespace State

/-- The fabric changed. -/
def modFab (s : State) (f : Fabric → Fabric) : State := { s with fab := f s.fab }
/-- A link. -/
def link (s : State) (n : Nat) : Link := tget s.fab.links n {}
/-- One link changed. -/
def modLink (s : State) (n : Nat) (f : Link → Link) : State :=
  s.modFab (fun b => { b with links := tset b.links n (f (tget b.links n {})) })

/-- A link whose active sets have changed goes down, at once for the packets behind, or returns (R395). -/
def linkEdge (s : State) (n : Nat) : State :=
  let l := s.link n
  if !l.down && (l.tx = 0#8 || l.rx = 0#8) then (s.modLink n (fun l => { l with down := true })).now_ .linkDown { n := n }
  else if l.down && l.tx != 0#8 && l.rx != 0#8 then s.now_ .linkReturn { n := n }
  else s

/-- Both ends agree on a change of one direction's active set of a link. -/
def agree (s : State) (n : Nat) (rx : Bool) (f : BitVec 8 → BitVec 8) : State :=
  (s.modLink n (fun l => ((l.agree rx f).settleTx l.flits l.flits).settleRx l.rflits l.rflits)).linkEdge n

/-- A packet's flits go out on a link, unless the change they meet leaves the link down. -/
def emit (s : State) (n : Nat) (p : Packet) : State :=
  let s := s.modLink n (fun l => l.emit p)
  if (s.link n).up then s.modFab (fun b => { b with out := b.out ++ [(n, p)] }) else s

/-- A packet sent on a link; it stays in the replay buffer until the far end acknowledges it (R394). -/
def sendOn (s : State) (n : Nat) (p : Packet) : State :=
  ((s.modLink n (fun l => { l with replay := l.replay ++ [p] })).emit n p).linkEdge n

/-- What the replay buffer of a link holds goes out again, in order, ahead of any later packet (R394, R395). -/
def resend (s : State) (n : Nat) : State :=
  let ps := (s.link n).replay
  (ps.foldl (fun s p => s.emit n p) (s.modLink n (fun l => { l with rpl := min (l.rpl + ps.length) (2 ^ 31 - 1) }))).linkEdge n

/-! ### The port (R393) -/

/-- Entry of a chip in the route table. -/
def route (s : State) (chip : Nat) : Nat := (tget s.fab.route chip 0#32).toNat
/-- A chip that the table calls reachable. -/
def reachable (s : State) (chip : Nat) : Bool := bit (s.route chip) 0
/-- The link that traffic for a chip uses now. -/
def linkFor (s : State) (chip : Nat) : Option Nat :=
  let e := s.route chip
  if !bit e 0 then none
  else if (s.link (fld e 1 6)).up then some (fld e 1 6)
  else if bit e 7 && (s.link (fld e 8 6)).up then some (fld e 8 6)
  else none

/-- Packets for a chip in the replay buffers of links that are down go over another link first (R395). -/
def moveReplay (s : State) (chip n : Nat) : State :=
  (s.fab.links.filter (fun l => l.1 != n && l.2.down)).foldl (fun s l =>
    let ps := l.2.replay.filter (fun p => pktChip p = chip)
    let s := s.modLink l.1 (fun k => { k with replay := k.replay.filter (fun p => pktChip p != chip),
                                              rpl := min (k.rpl + ps.length) (2 ^ 31 - 1) })
    ps.foldl (fun s p => s.sendOn n p) s) s

/-- The port sends what it can, in order; traffic for this chip itself comes back without leaving the package (R393). -/
def servePort (s : State) : State :=
  let s := s.fab.port.foldl (fun (s : State) p =>
    let chip := pktChip p
    if chip = s.mg.chip.toNat && s.reachable chip then
      s.after 0 (4 * (1 + pktClass p)) .packetReceive { n := 48, pkt := some p, flag := true }
    else match s.linkFor chip with
      | some n => (s.moveReplay chip n).sendOn n p
      | none => s.modFab (fun b => { b with held := b.held ++ [p] })) (s.modFab (fun b => { b with port := [] , held := [] }))
      |>.modFab (fun b => { b with port := b.held, held := s.fab.held })
  -- an entry that was written takes effect once nothing for its chip waits
  (s.fab.routeNew.filter (fun e => !s.fab.port.any (fun p => pktChip p = e.1))).foldl
    (fun s e => s.now_ .routeEntryEffect { n := e.1 }) s

/-! ### Peer requests (R285) -/

/-- The table entry under which this chip serves a request from another: the home is the die, or the host port, whose tables
hold the address (DEDUCED). -/
def peerEntry (s : State) (asid va : Nat) : Lrt :=
  let holds (d : Nat) : Bool := match s.walk d asid va with | .fail 2 => false | _ => true
  match (List.range 9).find? holds with
  | some 8 => { v := true, home := 3, asid := asid, coh := 1 }
  | some d => { v := true, home := 0, hdie := d, asid := asid }
  | none => { v := true, home := 0, hdie := 0, asid := asid }

/-- What a peer's request wants of a home, and its bytes. -/
def peerWant : PeerOp → Want × Nat
  | .read n => (.read 0, n)
  | .grant => (.grant 0, 1)
  | .write n d be => (.write d be, n)
  | .red op w v => (.red op v, w)
  | .fred ty v => (.fred ty v, fredBytes ty)
  | .amo op w v => (.amo 0 0 op v (if w = 8 then .d else .w), w)
  | .cas w e v => (.cas 0 0 e v (if w = 8 then .d else .w), w)
  | .sync => (.sync, 16)
  | .rel v hi => (.rel v hi none, 16)

/-- The request uses a write grant that its chip was given: it writes one chunk, element or word (R280). -/
def usesGrant : PeerOp → Bool
  | .write n _ _ => n != 128
  | .red _ _ _ | .fred _ _ | .rel _ _ => true
  | _ => false
/-- A request of another chip on its way to its home here, over a bridge of the hearth die. A granted write carries the place of its
grant, as one of this chip does: it is never refused (R280, R285). -/
def peerAsk (s : State) (src id va asid lt : Nat) (op : PeerOp) : State :=
  let (w, n) := peerWant op
  let mine := if usesGrant op then s.fab.granted.find? (fun g => g.1 = src && g.2.1 = asid && g.2.2.1 = va) else none
  let s := match mine with
    | some g => s.modFab (fun b => { b with granted := b.granted.erase g })
    | none => s
  let r : Req := { id := s.nextId, who := .peer src id, g := { va := va, len := n, ent := s.peerEntry asid va }, want := w, lt := lt,
                   p := mine.map (fun g => g.2.2.2) }
  let s := { s with nextId := s.nextId + 1, reqs := s.reqs ++ [r] }
  s.after (s.meshWait (s.reqHome r)) (lineRoute r.who va 0) .homeRequest { id := r.id }

/-- The answer of another chip's home (R285). -/
def peerAnswer (s : State) (id code wts : Nat) (tag : Option Nat) (bytes : List Byte) : State :=
  match s.req? id with
  | none => s
  | some r =>
    let v := ofBytes bytes
    let off := if bytes.length = 128 then 0 else r.g.va % 128
    let line := v * 2 ^ (8 * off)
    let isRead := match r.want with | .read _ | .prefetch _ | .pin => true | _ => false
    let ops := match r.who with | .ctx c x => s.ownOps c x r.serial r.g.ent.asid r.g.va | _ => []
    let r := { r with code := code, tag := tag.map (BitVec.ofNat 32), wts := wts, served := true, data := if isRead then line else v,
                      own := ownOver ops (patchLine line r.held (s.stillHeld r)), nofill := r.nofill || bytes.length != 128 }
    (s.modReq id (fun _ => r)).after (s.meshWait (s.agentDie r.who)) (lineRoute r.who r.g.va 1) r.answerEv
      { id := id, v := r.data, n := wts }

/-! ### Messages (R380, R381, R398) -/

/-- A message under way. -/
def send? (s : State) (id : Nat) : Option SendRun := s.fab.sends.find? (fun r => r.id = id)
/-- It changed. -/
def modSend (s : State) (id : Nat) (f : SendRun → SendRun) : State :=
  s.modFab (fun b => { b with sends := b.sends.map (fun r => if r.id = id then f r else r) })
/-- Its number completes, and it is done with. -/
def endSend (s : State) (r : SendRun) : State :=
  let s := s.modTl r.core r.tl (fun t => t.complete r.num (BitVec.allOnes 64) 0)
  let s := s.modLaunch r.launch (fun l => { l with cmds := l.cmds - 1 })
  s.modFab (fun b => { b with sends := b.sends.filter (fun q => q.id != r.id) })
/-- No route, or a queue that is not open: an engine fault that cannot be resumed (R331, R380). -/
def sendFault (s : State) (r : SendRun) : State :=
  let gin := (s.launch r.launch).gin
  let q : Rec := { cls := 2, cause := 0x14, slot := 6, eng := true, info := r.num % 2 ^ 32, addr := r.chip + r.queue * 2 ^ 18 }
  (((s.post { s.recOf r.core r.ctx q with gin := gin }).cancelGin (coreDie r.core) gin).endSend r)

/-- A message's release is performed (R380 step 1). -/
def sendReleased (s : State) (r : SendRun) : Bool := s.performedOf r.core r.ctx r.task r.sn r.sc

/-- Step 2 and 3 of R380: the number, and the reads of the bytes from the next clock on. -/
def sendStart (s : State) (r : SendRun) : State :=
  let s := (s.seesAcks r.core r.ctx r.sc).modTl r.core r.tl Timeline.number
  let s := s.modLaunch r.launch (fun l => { l with cmds := l.cmds + 1 })
  let n := r.len / 64
  let s := s.modSend r.id (fun q => { q with num := (s.tl r.core r.tl).rel.toNat, phase := 1, left := n })
  s.claim r.core ((List.range n).map (fun i =>
    ({ id := 0, clk := s.pcyc, addr := r.addr + 64 * i, be := BitVec.allOnes 64, read := true, chg := some (r.core, r.ctx),
       src := .sendRead r.id } : PWrite)))

/-- Units of 64 B that a queue can still promise (R397). -/
def LRQ.free (q : LRQ) : Nat := 256 - q.used

end State

/-! ### The steps -/

/-- SEND_DRAIN: id, the message. It goes on by where it stands: release, reads, room; with flag an answer about room, flag2
whether it was given; with n = 1 the destination has accepted it (R380, R398). -/
def execSendDrain (s : State) : Out :=
  match s.send? s.arg.id with
  | none => .next s
  | some r =>
    if s.arg.n = 1 then .next (if r.phase = 3 then s.endSend r else s)
    else if s.arg.flag then
      if r.phase != 2 && r.phase != 3 then .next s
      else if !s.arg.flag2 then .next (s.sendFault r)
      else
        let bytes := (List.range r.len).map (fun i => mget r.got (r.addr + i))
        .next ((s.modSend r.id (fun q => { q with phase := 3 })).toPort
          (.msg s.mg.chip.toNat r.chip r.id r.queue (s.launch r.launch).gin (s.lt r.core r.ctx) bytes))
    else match r.phase with
      | 0 => .next (if s.sendReleased r then s.sendStart r else s)
      | 1 =>
        if r.left != 0 then .next s
        else if !s.reachable r.chip then .next (s.sendFault r)
        else .next ((s.modSend r.id (fun q => { q with phase := 2 })).toPort
          (.room s.mg.chip.toNat r.chip r.id false r.queue (units r.len)))
      | _ => .next s

/-- LRQ_ROOM_GRANT: n, the queue. Room is granted in the order requests arrived (R398). -/
def execLrqRoomGrant (s : State) : Out :=
  let n := s.arg.n
  let q := s.lrq n
  match q.room with
  | [] => .next s
  | (chip, id, u) :: rest =>
    if u ≤ State.LRQ.free q then
      let s := s.modLrq n (fun q => { q with used := q.used + u, room := rest })
      let s := s.toPort (.roomRep chip id true)
      .next (if rest.isEmpty then s else s.now_ .lrqRoomGrant { n := n })
    else .next s

/-- MESSAGE_ACCEPT: n, the queue; pkt, the message, held whole from now on (R380, R398). -/
def execMessageAccept (s : State) : Out :=
  match s.arg.pkt with
  | some (.msg src _ id _ gin lt bytes) =>
    if (s.lrq s.arg.n).en then
      let s := s.modLrq s.arg.n (fun q => { q with msgs := q.msgs ++ [{ src := src, gin := gin, lt := lt, bytes := bytes }] })
      .next (s.toPort (.accepted src id))
    else
      let s := s.modLrq s.arg.n (fun q => { q with used := q.used - units bytes.length })
      .next (s.toPort (.roomRep src id false))
  | _ => .next s

/-- PACKET_RECEIVE: n, the link (48: this chip's own port); pkt; flag, its CRC holds. A packet that fails is dropped here, and the
far end sends it again, ahead of every later one; flag2: one of ours failed there, so the replay buffer goes out again in
order. Without a packet, the far end acknowledges the oldest one sent (R393 to R396). -/
def execPacketReceive (s : State) : Out :=
  let n := s.arg.n
  let s := match s.arg.pkt with
    | some p => if n < 48 then (s.modLink n (fun l => l.take p)).linkEdge n else s
    | none => s
  if !s.arg.flag then .next (if s.arg.flag2 then s.resend n else s)
  else match s.arg.pkt with
    | none => .next (s.modLink n (fun l => { l with replay := l.replay.drop 1 }))
    | some p =>
      if pktChip p != s.mg.chip.toNat then .next (s.toPort p)
      else match p with
        | .msg _ _ _ q _ _ _ => .next (s.now_ .messageAccept { n := q, pkt := some p })
        | .peerReq src _ id va asid lt op => .next (s.peerAsk src id va asid lt op)
        | .peerRep _ id code wts tag bytes => .next (s.peerAnswer id code wts tag bytes)
        | .coll src _ id tag gin bytes =>
          .next (s.now_ .collMessageArrival { n := src, m := tag, id := gin, v := id, bytes := bytes })
        | .cancel _ gin => .next (s.now_ .cancelTokenArrival { n := gin })
        | .room src _ id true _ len =>
          let room := s.coll.room ++ [(src, id, len)]
          .next { s with coll := { s.coll with room := room } }
        | .room src _ id false q u =>
          if (s.lrq q).en then
            .next ((s.modLrq q (fun k => { k with room := k.room ++ [(src, id, u)] })).now_ .lrqRoomGrant { n := q })
          else .next (s.toPort (.roomRep src id false))
        | .roomRep _ id ok =>
          .next (if (s.send? id).isSome then s.after 0 0 .sendDrain { id := id, flag := true, flag2 := ok }
            else s.now_ .collStepStart { id := id, flag := true, flag2 := ok })
        | .accepted _ id =>
          .next (if (s.send? id).isSome then s.after 0 0 .sendDrain { id := id, n := 1 }
            else s.now_ .collStepStart { id := id, flag := true, n := 1 })

/-- Bit of a wavelength in an active set. -/
def lane (m : Nat) : BitVec 8 := BitVec.ofNat 8 (2 ^ m)
/-- Bit of a wavelength among those that retrain. -/
def retrBit (m : Nat) (rx : Bool) : BitVec 16 := BitVec.ofNat 16 (2 ^ (if rx then m + 8 else m))

/-- WAVELENGTH_RETRAIN: n, the link; m, the wavelength, active; flag, on the receive side. It is out of the active set for 49,152
clocks; a free choice decides whether it returns (R395). -/
def execWavelengthRetrain (s : State) : Out :=
  let (n, m, rx) := (s.arg.n, s.arg.m, s.arg.flag)
  let l := s.link n
  if (if rx then l.rxNew.getD l.rx else l.txNew.getD l.tx) &&& lane m = 0#8 then .next s
  else
    let s := (s.modLink n (fun l => { l with retr := l.retr ||| retrBit m rx })).agree n rx (· &&& ~~~lane m)
    let (k, s) := s.choose 2
    .next (s.sched_ (s.pcyc + 49152) 0 .wavelengthRetrainEnd { n := n, m := m, flag := rx, flag2 := k = 1 })

/-- WAVELENGTH_RETRAIN_END: as above; flag2: it returns to active, else it is parked (R395). -/
def execWavelengthRetrainEnd (s : State) : Out :=
  let (n, m, rx) := (s.arg.n, s.arg.m, s.arg.flag)
  if (s.link n).retr &&& retrBit m rx = 0#16 then .next s
  else
    let s := s.modLink n (fun l => { l with retr := l.retr &&& ~~~retrBit m rx })
    .next (if s.arg.flag2 then s.agree n rx (· ||| lane m) else s)

/-- WAVELENGTH_PARK: as above; flag2: the management core parks the wavelength, and what it retrained for is past; else it takes
a parked one up again, and one that retrains is not parked (R395). -/
def execWavelengthPark (s : State) : Out :=
  let (n, m, rx) := (s.arg.n, s.arg.m, s.arg.flag)
  if s.arg.flag2 then
    let old (e : Sched) : Bool := e.ev = .wavelengthRetrainEnd && e.arg.n = n && e.arg.m = m && e.arg.flag = rx
    let s : State := { s with sched := s.sched.filter (fun e => !old e) }
    .next ((s.modLink n (fun l => { l with retr := l.retr &&& ~~~retrBit m rx })).agree n rx (· &&& ~~~lane m))
  else if (s.link n).retr &&& retrBit m rx = 0#16 then .next (s.agree n rx (· ||| lane m))
  else .next s

/-- LINK_DOWN: n, the link: some direction has no active wavelength (R395). -/
def execLinkDown (s : State) : Out := .next (s.modLink s.arg.n (fun l => { l with down := l.down || l.tx = 0#8 || l.rx = 0#8 }))

/-- LINK_RETURN: n, the link. Its unacknowledged packets are sent again in order (R395). -/
def execLinkReturn (s : State) : Out := .next ((s.modLink s.arg.n (fun l => { l with down := false })).resend s.arg.n)

/-- ROUTE_TABLE_WRITE: n, the chip; v, the entry. Reserved bits read 0; packets for the chip that come later wait until it
takes effect (R393). -/
def execRouteTableWrite (s : State) : Out :=
  if 262144 ≤ s.arg.n then .next s
  else .next (s.modFab (fun b => { b with routeNew := tset b.routeNew s.arg.n (BitVec.ofNat 32 (s.arg.v % 2 ^ 14)) }))

/-- ROUTE_ENTRY_EFFECT: n, the chip (R393). -/
def execRouteEntryEffect (s : State) : Out :=
  match s.fab.routeNew.find? (fun e => e.1 = s.arg.n) with
  | none => .next s
  | some (n, e) =>
    .next (s.modFab (fun b => { b with route := tset b.route n e, routeNew := tdel b.routeNew n,
                                       port := b.port ++ b.held.filter (fun p => pktChip p = n),
                                       held := b.held.filter (fun p => pktChip p != n) }))

end Sys2Proof.Machine
end

