-- ==== Sys2Proof/Machine/Collect.lean ====
section
/-! DEFINITION. The collective engine: step tables, instances, steps, inbox and accumulators (R382, R383, R399 to R404). -/

namespace Sys2Proof.Machine

/-- A step of a table image (R400). -/
def parseStep (e : Nat) : CStep :=
  { op := fld e 0 4, fmt := fld e 4 5, dep := fld e 16 8, tag := fld e 24 8, peer := fld e 32 18, src := fld e 64 64,
    dst := fld e 128 64, len := fld e 192 32, lq := fld e 256 5, lv := bit e 261, lh := fld e 320 64 }

/-- Element format of a step (R400). -/
def CStep.ty (c : CStep) : Ty := (tyOf c.fmt).getD .f64
/-- Elements of a step. -/
def CStep.count (c : CStep) : Nat := c.len * 8 / c.ty.width

/-- Entry i of an image passes the checks of R400. The bounds of cs.len hold for every step but a NOP (DESIGN CHOICE, log 41:
the list of rejections does not name them). -/
def stepOk (e i : Nat) : Bool :=
  let c := parseStep e
  let acc : Bool := c.op = 3 || c.op = 4
  c.op ≤ 4 && (if acc then c.fmt ≤ 3 else c.fmt = 0)
    && fld e 9 7 = 0 && fld e 50 14 = 0 && fld e 224 32 = 0 && fld e 262 58 = 0 && fld e 384 128 = 0
    && (c.dep = 0xFF || c.dep < i)
    && (c.op = 0 || (c.len % 64 = 0 && 0 < c.len && c.len ≤ 1048576))
    && (!acc || (if c.op = 3 then c.dst else c.src) + c.count ≤ 32768)

/-- An element added to an accumulator (R402). -/
def Acc.take (a : Acc) (t : Ty) (x : Nat) : Acc :=
  if t = .f64 then
    { a with f64 := some (match a.f64 with
      | none => x
      | some y => finish .f64 .rne false false (sumOf [value .f64 y, value .f64 x] .rne)) }
  else a.addF (value t x)
/-- What FIN writes of an accumulator: a NaN as the canonical one (R47, R402). -/
def Acc.final (a : Acc) (t : Ty) : Nat := if t = .f64 then (a.f64.map (fun x => encodeF .f64 (value .f64 x))).getD 0 else a.read t

namespace State

/-- The collective engine changed. -/
def modColl (s : State) (f : Coll → Coll) : State := { s with coll := f s.coll }
/-- A step under way. -/
def run? (s : State) (id : Nat) : Option CRun := s.coll.runs.find? (fun r => r.id = id)
/-- It changed. -/
def modRun (s : State) (id : Nat) (f : CRun → CRun) : State :=
  s.modColl (fun c => { c with runs := c.runs.map (fun r => if r.id = id then f r else r) })
/-- An instance. -/
def inst? (s : State) (id : Nat) : Option CInst := s.coll.insts.find? (fun i => i.id = id)
/-- An entry that waits at the engine. -/
def wait? (s : State) (id : Nat) : Option CWait := s.coll.waits.find? (fun w => w.id = id)
/-- It changed. -/
def modWait (s : State) (id : Nat) (f : CWait → CWait) : State :=
  s.modColl (fun c => { c with waits := c.waits.map (fun w => if w.id = id then f w else w) })
/-- It is done with. -/
def endWait (s : State) (id : Nat) : State := s.modColl (fun c => { c with waits := c.waits.filter (fun w => w.id != id) })
/-- The first entry of its context that waits: entries of one context are taken in order. -/
def waitFirst (s : State) (w : CWait) : Bool :=
  match s.coll.waits.find? (fun v => v.core = w.core && v.ctx = w.ctx && v.task = w.task) with
  | some v => v.id = w.id
  | none => false
/-- Steps of an instance. -/
def stepsOf (s : State) (i : CInst) : List CStep := ((s.coll.tabs.find? (fun t => t.1 = i.tab)).map (·.2.2)).getD []

/-- Answers still due to an agent of the engine are dropped. -/
def deafen (s : State) (id : Nat) : State :=
  { s with reqs := s.reqs.map (fun r => if r.who = .coll id then { r with dead := true } else r) }

/-- The number of a COLL has completed: its core's timeline learns of it across a bridge of the hearth die, in a time not promised
(R383, R452). -/
def collDone (s : State) (core ctx tl num launch : Nat) : State :=
  s.after 0 0 .collStepComplete { core := core, ctx := ctx, flag := true, n := tl, m := num, id := launch }
/-- It has learnt of it. -/
def collLearnt (s : State) (core tl num launch : Nat) : State :=
  let s := s.modTl core tl (fun t => t.complete num (BitVec.allOnes 64) 0)
  s.modLaunch launch (fun l => { l with cmds := l.cmds - 1 })

/-- Step n of an instance is complete, or dropped; with the last of its steps the instance ends and its number completes (R399,
R404). -/
def stepGone (s : State) (i : CInst) (n : Nat) : State :=
  let i := { i with started := if i.started.contains n then i.started else i.started ++ [n], done := i.done ++ [n] }
  let s := (s.coll.runs.filter (fun r => r.inst = i.id && r.step = n)).foldl (fun s r => s.deafen r.id) s
  let s := s.modColl (fun c => { c with insts := c.insts.map (fun j => if j.id = i.id then i else j),
                                        runs := c.runs.filter (fun r => !(r.inst = i.id && r.step = n)) })
  if (s.stepsOf i).length ≤ i.done.length then
    (s.modColl (fun c => { c with insts := c.insts.filter (fun j => j.id != i.id) })).collDone i.core i.ctx i.tl i.num i.launch
  else s

/-- A record of the engine, charged to the context whose command it is. -/
def collRecord (s : State) (core ctx gin : Nat) (r : Rec) : State :=
  let q := s.recOf core ctx { r with slot := 6, eng := true }
  s.post { q with gin := gin }

/-- A fault of step n that cannot be resumed: the step stops, no further one of its instance starts, and steps under way run out
(R331, R401, R404). -/
def stepFault (s : State) (i : CInst) (n : Nat) (cls cause sub addr asid : Nat) : State :=
  let s := s.collRecord i.core i.ctx i.gin { cls := cls, cause := cause, sub := sub, addr := addr, asid := asid, info := i.num % 2 ^ 32 }
  (s.cancelGin 8 i.gin).stepGone { i with dead := true } n
/-- A fault of a CSTAB or COLL entry (R382, R383). A COLL that has been numbered completes. -/
def waitFault (s : State) (w : CWait) (cls cause sub addr asid : Nat) : State :=
  let gin := (s.launch w.launch).gin
  let s := s.collRecord w.core w.ctx gin { cls := cls, cause := cause, sub := sub, addr := addr, asid := asid, info := w.num % 2 ^ 32 }
  let s := ((s.deafen w.id).cancelGin 8 gin).endWait w.id
  if w.coll && w.num != 0 then s.collDone w.core w.ctx w.tl w.num w.launch else s

/-- A request of the engine. -/
def collAsk (s : State) (id launch task : Nat) (g : GAddr) (w : Want) (p : Option Nat) : State :=
  s.ask { id := 0, who := .coll id, launch := launch, task := task, g := g, want := w, p := p }
/-- The reads of n bytes at a, by line. -/
def collReads (s : State) (id launch task a n : Nat) (e : Lrt) : State × Nat :=
  let l := lineSegs a n
  (l.foldl (fun s p => s.collAsk id launch task { va := p.1, len := p.2, ent := e } (.read id) none) s, l.length)

/-- One access of the engine was refused or failed: the access is made again 2,048 clocks later, waits for the host, or ends
the step, as for a piece of a copy (R331, R401). -/
def collRefused (s : State) (id code at_ asid : Nat) : State :=
  let s := s.deafen id
  let back (p : CPhase) : CPhase := match p with
    | .reading => .read
    | .grants => .ask
    | .header => .head
    | p => p
  let redo (s : State) : State :=
    (s.modRun id (fun r => { r with phase := back r.phase, left := 0, got := [], grants := [] })).modWait id
      (fun w => { w with busy := false, left := 0, got := [] })
  let place : Option (Nat × Nat × Nat) := match s.run? id, s.wait? id with
    | some r, _ => (s.inst? r.inst).map (fun i => (i.core, i.ctx, i.gin))
    | none, some w => some (w.core, w.ctx, (s.launch w.launch).gin)
    | none, none => none
  let ev : Instr := if (s.run? id).isSome then .collStepStart else .cstabLoad
  match place with
  | none => s
  | some (core, ctx, gin) =>
    match code with
    | 1 => (redo s).sched_ (s.pcyc + Config.migrationClocks) 0 ev { id := id, flag := true }
    | 2 =>
      let seq := s.fq.seq.toNat
      let s := (redo s).collRecord core ctx gin { cls := 1, cause := 0x16, addr := at_, asid := asid }
      { s with fq := { s.fq with waits := s.fq.waits ++ [(seq, core, ctx, some id)] } }
    | _ =>
      let (cls, cause, sub) : Nat × Nat × Nat := if code = 5 then (3, 0x1E, 0) else if code = 6 then (3, 0x1E, 2) else (2, 0x14, 0x12)
      match s.run? id, s.wait? id with
      | some r, _ => match s.inst? r.inst with
        | some i => s.stepFault i r.step cls cause sub at_ asid
        | none => s
      | none, some w => s.waitFault w cls cause sub at_ asid
      | none, none => s

/-- One access of the engine is answered: bytes it read, or a page it may write. -/
def collAnswer (s : State) (id : Nat) (f : Memory → Memory) (grant : Option (Nat × Option Nat)) (code at_ asid : Nat) : State :=
  if code != 0 then s.collRefused id code at_ asid
  else
    let s := s.modRun id (fun r => { r with left := r.left - 1, got := f r.got, grants := r.grants ++ grant.toList })
    let s := s.modWait id (fun w => { w with left := w.left - 1, got := f w.got })
    if (s.run? id).isSome then s.now_ .collStepStart { id := id, flag := true }
    else if (s.wait? id).isSome then s.now_ .cstabLoad { id := id }
    else s

/-! ### Steps (R399 to R402) -/

/-- The inbox message a step takes. -/
def messageFor (s : State) (i : CInst) (c : CStep) : Option (List Byte) :=
  (s.coll.inbox.find? (fun m => m.1 = c.peer && m.2.1 = c.tag && m.2.2.1 = i.gin)).map (·.2.2.2)
/-- The first such message leaves the inbox. -/
def takeMessage (s : State) (i : CInst) (c : CStep) : State :=
  let mine (m : Nat × Nat × Nat × List Byte) : Bool := m.1 = c.peer && m.2.1 = c.tag && m.2.2.1 = i.gin
  match s.coll.inbox.find? mine with
  | some m => s.modColl (fun k => { k with inbox := k.inbox.erase m, used := k.used - m.2.2.2.length })
  | none => s

/-- A step takes an inbox message. -/
def fromInbox (s : State) (c : CStep) : Bool := c.op = 2 || (c.op = 3 && c.peer != s.mg.chip.toNat)

/-- Step n of an instance is ready (R399, R402). In a cancelled graph, or after a fault, it would start once its dependency is past, and
is dropped then: for a message that will not come it does not wait (R404, log 41). -/
def stepReady (s : State) (i : CInst) (n : Nat) : Bool :=
  let steps := s.stepsOf i
  match steps[n]? with
  | none => false
  | some c =>
    !i.started.contains n && (c.dep = 0xFF || i.done.contains c.dep) && (i.dead || s.dist.cancel.contains i.gin || (
      s.coll.runs.length < 8
      && (!s.fromInbox c || (s.messageFor i c).isSome)
      && (c.op != 3 || c.fmt != 0 || (List.range steps.length).all (fun m => match steps[m]? with
          | some d => !(d.op = 3 && d.peer < c.peer && d.dst < c.dst + c.count && c.dst < d.dst + d.count) || i.done.contains m
          | none => true))))
/-- The step that starts next. -/
def nextStep (s : State) : Option (Nat × Nat) :=
  s.coll.insts.findSome? (fun i =>
    ((List.range (s.stepsOf i).length).find? (fun n => s.stepReady i n)).map (fun n => (i.id, n)))

/-- Bytes added to the accumulators of a step (R401, R402). -/
def accumulate (s : State) (c : CStep) (bytes : List Byte) : State :=
  let v := ofBytes bytes
  s.modColl (fun k => { k with accs := (List.range c.count).foldl (fun t j =>
    tset t (c.dst + j) ((tget t (c.dst + j) {}).take c.ty (elem c.ty.width v j))) k.accs })
/-- What FIN writes; its accumulators are empty again (R401). -/
def finish_ (s : State) (c : CStep) : List Byte × State :=
  let v := pack c.ty.width (fun j => (tget s.coll.accs (c.src + j) {}).final c.ty) c.count 0
  (bytesOf v c.len, s.modColl (fun k => { k with accs := k.accs.filter (fun a => a.1 < c.src || c.src + c.count ≤ a.1) }))

/-- The entry under which a step reads or writes n bytes at a (R401). -/
def stepEntry (s : State) (i : CInst) (a n : Nat) (perm : Lrt → Bool) : Except Trap Lrt := (s.launchOn i.core i.launch).lrtFind a n perm

/-- Bytes of an element of a step, which a piece holds whole (R330). -/
def elemOf (c : CStep) : Nat := if c.op = 3 || c.op = 4 then c.ty.width / 8 else 1
/-- The piece of n bytes from a that a step has come to, in whole elements of w bytes: where a 4 KiB page ends, a piece ends, and so
it does where an entry ends; an element on both sides of that end is a piece of its own (R38, R330). -/
def stepPiece (r : CRun) (a n w : Nat) : Nat × Nat :=
  let p := (a + r.pos) % 2 ^ 64
  let k := min (4096 - p % 4096) (n - r.pos) / w
  (p, if k = 0 then w else k * w)
/-- The step's next piece is read (R401). -/
def readPiece (s : State) (i : CInst) (r : CRun) (a n w : Nat) (p : CPhase) : State :=
  let (at_, k) := stepPiece r a n w
  match s.stepEntry i at_ k (·.rd) with
  | .error t => s.stepFault i r.step 2 0x14 t.cause t.addr t.asid
  | .ok e =>
    let (s, m) := s.collReads r.id i.launch i.task at_ k e
    s.modRun r.id (fun r => { r with phase := p, left := m, got := [] })
/-- A piece that was read joins the step's bytes; the next is read, or what follows the last is done. -/
def gotPiece (s : State) (r : CRun) (a n w : Nat) (again : CPhase) (last : State → List Byte → State) : State :=
  let (at_, k) := stepPiece r a n w
  let bytes := r.bytes ++ (List.range k).map (fun j => mget r.got (at_ + j))
  if r.pos + k < n then
    (s.modRun r.id (fun r => { r with phase := again, pos := r.pos + k, bytes := bytes })).now_ .collStepStart { id := r.id, flag := true }
  else last s bytes

/-- A step under way goes on, piece by piece (R330, R401). -/
def goOn (s : State) (i : CInst) (c : CStep) (r : CRun) : State :=
  let srcA := (i.arg + c.src) % 2 ^ 64
  let dstA := (i.arg + c.dst) % 2 ^ 64
  let hdA := (i.arg + c.lh) % 2 ^ 64
  let w := elemOf c
  match r.phase with
  | .read => s.readPiece i r srcA c.len w .reading
  | .reading =>
    if r.left != 0 then s
    else s.gotPiece r srcA c.len w .read (fun s bytes =>
      if c.op = 1 then
        (s.modRun r.id (fun r => { r with phase := .room, bytes := bytes })).toPort
          (.room s.mg.chip.toNat c.peer r.id true 0 c.len)
      else ((s.accumulate c bytes).modRun r.id (fun r => { r with phase := .done })).now_ .collStepComplete { id := r.id })
  | .ask =>
    let (p, n) := stepPiece r dstA c.len w
    match s.stepEntry i p n (·.wr) with
    | .error t => s.stepFault i r.step 2 0x14 t.cause t.addr t.asid
    | .ok e =>
      let pages := (List.range ((p + n + 4095) / 4096 - p / 4096)).map (fun j => max p ((p / 4096 + j) * 4096))
      pages.foldl (fun s q => s.collAsk r.id i.launch i.task { va := q, len := 1, ent := e } (.grant r.id) none)
        (s.modRun r.id (fun r => { r with phase := .grants, left := pages.length, grants := [] }))
  | .grants =>
    if r.left != 0 then s
    else
      let (p, n) := stepPiece r dstA c.len w
      let e := entOf (s.stepEntry i p n (·.wr))
      let place (b : Nat) : Option Nat := (r.grants.find? (fun g => g.1 = b / 4096)).bind (fun g => g.2.map (· + b % 4096))
      let ls := lineSegs p n
      let s := s.modRun r.id (fun r => { r with phase := .writes, left := ls.length })
      ls.foldl (fun s q => s.collAsk r.id i.launch i.task { va := q.1, len := q.2, ent := e }
        (.write (ofBytes ((r.bytes.drop (r.pos + (q.1 - p))).take q.2)) (2 ^ q.2 - 1)) (place q.1)) s
  | .writes =>
    if r.left != 0 then s
    else
      let (_, n) := stepPiece r dstA c.len w
      if r.pos + n < c.len then
        (s.modRun r.id (fun r => { r with phase := .ask, pos := r.pos + n })).now_ .collStepStart { id := r.id, flag := true }
      else (s.modRun r.id (fun r => { r with phase := .done })).now_ .collStepComplete { id := r.id }
  | .head => s.readPiece i r hdA 256 1 .header
  | .header =>
    if r.left != 0 then s
    else s.gotPiece r hdA 256 1 .head (fun s bytes =>
      (s.modRun r.id (fun r => { r with phase := .queue, bytes := bytes })).now_ .collStepComplete { id := r.id })
  | _ => s

/-- A step begins (R401). -/
def beginStep (s : State) (i : CInst) (n : Nat) (c : CStep) : State :=
  let id := s.nextId
  let mark (j : CInst) : CInst := if j.id = i.id then { j with started := j.started ++ [n] } else j
  let open_ (s : State) (p : CPhase) (bytes : List Byte) : State :=
    State.modColl { s with nextId := id + 1 } (fun k => { k with insts := k.insts.map mark,
                                                                 runs := k.runs ++ [{ id := id, inst := i.id, step := n, phase := p, bytes := bytes }] })
  let kick (s : State) : State := s.now_ .collStepStart { id := id, flag := true }
  let done (s : State) : State := s.now_ .collStepComplete { id := id }
  if s.fromInbox c then
    match s.messageFor i c with
    | none => s
    | some bytes =>
      let s := s.takeMessage i c
      if bytes.length != c.len then s.stepFault i n 2 0x14 0 0 0
      else if c.op = 2 then kick (open_ s .ask bytes)
      else done (open_ (s.accumulate c bytes) .done [])
  else match c.op with
    | 0 => done (open_ s .done [])
    | 4 => let (bytes, s) := s.finish_ c; kick (open_ s .ask bytes)
    | _ => kick (open_ s .read [])

/-- Room of the inbox is given in the order asked (R401): 2 MiB. -/
def grantInbox (s : State) : State :=
  match s.coll.room with
  | (chip, id, n) :: rest =>
    if s.coll.used + n ≤ 2097152 then
      (s.modColl (fun c => { c with room := rest, used := c.used + n })).toPort (.roomRep chip id true)
    else s
  | [] => s

/-- A launch entry of 256 B written into a queue by the hardware, with its stamp, and the tail advanced (R69, R73). -/
def lqEnter (s : State) (q v : Nat) : State :=
  let u := s.lqueue q
  let p := u.base + 256 * (u.tail.toNat % 2 ^ u.lg)
  let v := v - fld v 1920 32 * 2 ^ 1920 + (u.tail + 1#32).toNat * 2 ^ 1920
  ((s.ckCopy p).rawWrite p 256 v).modLq q (fun u => { u with tail := u.tail + 1#32 })
/-- The slot that the next entry of a queue takes lies in package memory (R267). -/
def lqSlot (s : State) (q : Nat) : Nat := (s.lqueue q).base + 256 * ((s.lqueue q).tail.toNat % 2 ^ (s.lqueue q).lg)

end State

/-! ### The steps -/

/-- CSTAB_LOAD: id, the entry: the image is read, checked and loaded once no instance of the table runs (R382, R400). -/
def execCstabLoad (s : State) : Out :=
  match s.wait? s.arg.id with
  | none => .next s
  | some w =>
    let gin := (s.launch w.launch).gin
    let n := 64 * w.steps
    if w.coll || !s.waitFirst w || s.coll.insts.any (fun i => i.tab = w.tab) then .next s
    else if !w.busy then
      if w.steps = 0 || 256 < w.steps then .next (s.waitFault w 2 0x14 0 w.va 0)
      else match (s.launchOn w.core w.launch).lrtFind w.va n (·.rd) with
        | .error t => .next (s.waitFault w 2 0x14 t.cause t.addr t.asid)
        | .ok e =>
          let (s, k) := s.collReads w.id w.launch w.task w.va n e
          .next (s.modWait w.id (fun w => { w with busy := true, left := k, got := [] }))
    else if w.left != 0 then .next s
    else
      let es := (List.range w.steps).map (fun i => ofBytes ((List.range 64).map (fun j => mget w.got (w.va + 64 * i + j))))
      if es.zipIdx.all (fun p => stepOk p.1 p.2) then
        .next ((s.modColl (fun c => { c with tabs := tset c.tabs w.tab (gin, es.map parseStep) })).endWait w.id)
      else .next (s.waitFault w 2 0x14 0 w.va 0)

/-- COLL_ACCEPT: id, the entry: it takes its number and one of the 64 places of the command queue, then releases, and its
instance starts (R383, R399, R404). -/
def execCollAccept (s : State) : Out :=
  match s.wait? s.arg.id with
  | none => .next s
  | some w =>
    let gin := (s.launch w.launch).gin
    if !w.coll || !s.waitFirst w then .next s
    else if w.num = 0 then
      if 64 ≤ s.coll.insts.length + (s.coll.waits.filter (fun v => v.num != 0)).length then .next s
      else
        let s := s.modTl w.core w.tl Timeline.number
        let s := s.modLaunch w.launch (fun l => { l with cmds := l.cmds + 1 })
        let w := { w with num := (s.tl w.core w.tl).rel.toNat }
        let s := s.modWait w.id (fun _ => w)
        if s.dist.cancel.contains gin then .next ((s.endWait w.id).collDone w.core w.ctx w.tl w.num w.launch)
        else match s.coll.tabs.find? (fun t => t.1 = w.tab) with
          | some (_, g, _) => .next (if g = gin then s.now_ .collAccept { id := w.id } else s.waitFault w 2 0x14 0 w.va 0)
          | none => .next (s.waitFault w 2 0x14 0 w.va 0)
    else if !s.performedOf w.core w.ctx w.task w.sn w.sc then .next s
    else
      let i : CInst := { id := s.nextId, tab := w.tab, gin := gin, arg := w.va, core := w.core, ctx := w.ctx, task := w.task, tl := w.tl,
                         num := w.num, launch := w.launch }
      let s := State.endWait { s.seesAcks w.core w.ctx w.sc with nextId := s.nextId + 1 } w.id
      .next (s.modColl (fun c => { c with insts := c.insts ++ [i] }))

/-- COLL_STEP_START: id, the instance, n, the step, which starts, or in a cancelled graph is dropped with the message that it would take;
or, with flag, id, the step under way, which goes on: flag2
says that inbox room was given, n = 1 that the peer holds its message (R399, R401, R404). -/
def execCollStepStart (s : State) : Out :=
  if s.arg.flag then
    match s.run? s.arg.id with
    | none => .next s
    | some r => match s.inst? r.inst with
      | none => .next s
      | some i => match (s.stepsOf i)[r.step]? with
        | none => .next s
        | some c =>
          if s.arg.n = 1 then
            .next (if r.phase = .sent then (s.modRun r.id (fun r => { r with phase := .done })).now_ .collStepComplete { id := r.id } else s)
          else if s.arg.flag2 then
            .next (if r.phase = .room then (s.modRun r.id (fun r => { r with phase := .sent })).toPort
              (.coll s.mg.chip.toNat c.peer r.id c.tag i.gin r.bytes) else s)
          else .next (s.goOn i c r)
  else match s.inst? s.arg.id with
    | none => .next s
    | some i =>
      match (s.stepsOf i)[s.arg.n]? with
      | some c =>
        if !s.stepReady i s.arg.n then .next s
        else if i.dead || s.dist.cancel.contains i.gin then
          .next ((if s.fromInbox c then s.takeMessage i c else s).stepGone i s.arg.n)
        else .next (s.beginStep i s.arg.n c)
      | none => .next s

/-- COLL_MESSAGE_ARRIVAL: n, the source chip; m, the tag; id, the GIN; v, the sender's number; bytes. The inbox holds the
message (R401). -/
def execCollMessageArrival (s : State) : Out :=
  let m := (s.arg.n, s.arg.m, s.arg.id, s.arg.bytes)
  .next ((s.modColl (fun c => { c with inbox := c.inbox ++ [m] })).toPort (.accepted s.arg.n s.arg.v))

/-- COLL_STEP_COMPLETE: id, the step; or, with flag, core, n, m and id: timeline n of the core learns that number m, of launch id, is
complete (R383). A step that releases a launch reads its header and enters it, waiting while the queue is
full (R401, R403). -/
def execCollStepComplete (s : State) : Out :=
  if s.arg.flag then .next (s.collLearnt s.arg.core s.arg.n s.arg.m s.arg.id)
  else match s.run? s.arg.id with
  | none => .next s
  | some r => match s.inst? r.inst with
    | none => .next s
    | some i => match (s.stepsOf i)[r.step]? with
      | none => .next s
      | some c =>
        let fin (s : State) : State := s.stepGone i r.step
        if !c.lv then .next (fin s)
        else if r.phase = .done then
          .next ((s.modRun r.id (fun r => { r with phase := .head, pos := 0, bytes := [] })).now_ .collStepStart { id := r.id, flag := true })
        else if r.phase != .queue then .next s
        else
          let u := s.lqueue c.lq
          if !u.en || !u.dev then
            .next (fin (s.collRecord i.core i.ctx i.gin { cls := 5, cause := 0, sub := 5, info := c.lq }))
          else if !u.free then .next s
          else if Config.ppaLimit ≤ s.lqSlot c.lq then .fault (.noMemory (s.lqSlot c.lq))
          else if s.ckStuck (s.lqSlot c.lq) 256 then .next s
          else .next (fin (s.lqEnter c.lq (ofBytes r.bytes)))

/-- CANCEL_TOKEN_ARRIVAL: n, the GIN. The cancel set takes it; when the set is full the token waits and nothing is popped
until an entry is removed. It goes on in every case to running tasks and, unless the set held it, to the chips that the
engine's tables of the GIN name (R77 to R80, R404). -/
def execCancelTokenArrival (s : State) : Out :=
  let gin := s.arg.n % 2 ^ 32
  let known := s.dist.cancel.contains gin || s.dist.cancelWait.contains gin
  if known then .next s
  else
    let full := Config.cancelMax ≤ s.dist.cancel.length
    let s := if full then
        let s := s.post { cls := 5, cause := 0, sub := 3, gin := gin }
        { s with dist := { s.dist with cancelWait := s.dist.cancelWait ++ [gin] } }
      else { s with dist := { s.dist with cancel := s.dist.cancel ++ [gin] } }
    -- running tasks of the graph take the trap at their next boundary (R78)
    let mine := (s.dist.launches.filter (fun l => l.gin = gin)).map (·.id)
    let hit (p : Nat × Ctx) : Nat × Ctx :=
      if p.2.status != .free && mine.contains p.2.launch then (p.1, { p.2 with cancel := true }) else p
    let cores := s.cores.map (fun (c : Nat × Core) => (c.1, { c.2 with ctxs := c.2.ctxs.map hit }))
    let ls := s.dist.launches.map (fun (l : Launch) => if l.gin = gin then { l with cancelled := true } else l)
    let s : State := { s with cores := cores, dist := { s.dist with launches := ls } }
    let peers := ((s.coll.tabs.filter (fun (t : Nat × Nat × List CStep) => t.2.1 = gin)).flatMap (fun t => t.2.2.map (·.peer))).eraseDups
    .next ((peers.filter (· != s.mg.chip.toNat)).foldl (fun s p => s.toPort (.cancel p gin)) s)

end Sys2Proof.Machine
end

