-- ==== Sys2Proof/Machine/Homes.lean ====
section
/-! DEFINITION. What a home and a requester do as requests and answers arrive: translation, first touch, writes, reductions,
grants, refusals, acknowledgements, sync words, promotions, barriers and logical time (R270 to R285, R310 to R318, R338 to R352,
R370, R375). -/

namespace Sys2Proof.Machine

namespace State

/-! ### First touch (R271) -/

/-- The fourth-level entry of a paged range that an address walks to, if the tables reach it. -/
def pteSlot (s : State) (o : Nat) : List Nat → Nat → Option Nat
  | [], _ => none
  | [sh], tbl => some (tbl + 8 * (o / 2 ^ sh % 512))
  | sh :: rest, tbl =>
    let e := s.tab8 (tbl + 8 * (o / 2 ^ sh % 512))
    if bit e 0 && !bit e 1 then s.pteSlot o rest (fld e 12 40 * 4096) else none
/-- The leaf entry of a B-tree that covers an address, at most n nodes deep. -/
def leafSlot (s : State) (a : Nat) : Nat → Nat → Option Nat
  | 0, _ => none
  | n + 1, node =>
    let h := mread s.mem node 32
    let es := (List.range (fld h 1 7)).map (fun i => node + 32 + 32 * i)
    if bit h 0 then es.find? (fun e => s.tab8 e ≤ a && a < s.tab8 (e + 8))
    else match (es.filter (fun e => s.tab8 e ≤ a)).foldl (fun (b : Option Nat) e => match b with
        | some f => if s.tab8 f ≤ s.tab8 e then some e else b
        | none => some e) none with
      | some e => s.leafSlot a n (s.tab8 (e + 8))
      | none => none
/-- The place that the die's tables have for the entry of a page, if they have one. -/
def leafPlace (s : State) (die asid a : Nat) : Option Nat :=
  let r := mread s.mem ((s.die die).htbase + 16 * asid) 16
  match (if bit r 0 then s.leafSlot a 64 (fld r 12 40 * 4096) else none) with
  | none => none
  | some e => if bit (s.tab8 (e + 16)) 0 then s.pteSlot (a - s.tab8 e) [39, 30, 21, 12] (fld (s.tab8 (e + 16)) 12 52 * 4096) else none
/-- The leaf entry of a page written for a frame, where the die's tables have a place for it. -/
def writeLeaf (s : State) (die asid a frame : Nat) : State :=
  match s.leafPlace die asid a with
  | some p => (s.ckCopy p).rawWrite p 8 (frame / 4096 * 4096 + 3)
  | none => s

/-! ### Order of one agent's accesses to one line (R282) -/

/-- An earlier write or contribution of the same agent to the same line has still to be applied; or, to a line that the slice keeps
for its cluster, one of the same cluster, since the slice has shown them in the order in which they left (R282, R340). -/
def earlierOwn (s : State) (r : Req) : Bool :=
  let kept : Bool := r.g.ent.coh = 0 && (r.g.ent.cache = 1 || r.g.ent.cache = 2) && r.who.clus.isSome
  s.reqs.any (fun q => q.id < r.id && (q.who = r.who || (kept && q.who.clus = r.who.clus)) && !q.served && q.g.ent.asid = r.g.ent.asid && q.g.va / 128 = r.g.va / 128
    && (match q.want with | .write _ _ | .wback _ _ | .red _ _ | .fred _ _ => true | _ => false))

/-! ### Pinned copies (R284) -/

/-- Bytes be of v at place p reach the copies of the line that are pinned, and the fills of pins on their way. -/
def patchPinned (s : State) (p v be : Nat) : State :=
  let pins := (s.line p).pins
  let b : BitVec 128 := BitVec.ofNat 128 (be * 2 ^ (p % 128))
  let patch (d : Nat) : Nat := patchLine d (v * 2 ^ (8 * (p % 128))) b
  let here (o : Option Nat) : Bool := match o with | some q => lineOf q = lineOf p | none => false
  let s := pins.foldl (fun s k => s.modClu k (fun u => { u with l2 := u.l2.map (fun (l : CLine) =>
    if 0 < l.pins && here l.home then { l with data := BitVec.ofNat 1024 (patch l.data.toNat) } else l) })) s
  if pins.isEmpty then s
  else { s with reqs := s.reqs.map (fun (r : Req) =>
    if r.want = .pin && r.served && here r.p then { r with data := patch r.data } else r) }

/-- The write waits in the input buffer of the slice, or in its spill queue; while both are full it waits outside (R275, R284). -/
def holdPinned (s : State) (k id : Nat) : State :=
  match s.enterSlice k id with
  | some s => s
  | none => match s.req? id with
    | some r => s.sched_ (s.pcyc + 1) (lineRoute r.who r.g.va 0) r.applyEv { id := id }
    | none => s

/-! ### Answers (R141, R307 to R312, R338) -/

/-- A request's home lies on another chip, so that its place is unknown here. -/
def away (r : Req) : Bool := r.g.ent.home = 4

/-- The context that asked still runs the task that asked, and has not rolled back since. -/
def listening (s : State) (r : Req) : Bool := !r.dead && (match r.who with
  | .ctx c x => (s.ctx c x).task = r.task && (s.ctx c x).status != .free
  | _ => true)

/-- A variable-latency result is written to its register (R141). -/
def landReg (s : State) (c x id : Nat) (w : RegWrite) : State :=
  s.modCtx c x (fun k =>
    let k := k.late (((k.pend.find? (fun p => p.1 = id)).map (·.2.1)).getD 0) (·.write w)
    { k with pend := k.pend.filter (fun p => p.1 != id) })

/-- A tagged acknowledgement of what bundle `serial` wrote (R283, R448). -/
def tagged (s : State) (c x serial : Nat) (tag : Option Word32) : State :=
  match tag with
  | some t => s.modCtx c x (fun k => k.late serial (fun r => { r with gtag := t, gcnt := r.gcnt + 1#32 }))
  | none => s

/-- The bytes a read brought for its address. -/
def readInto (r : Req) (line : Nat) (m : Memory) : Memory :=
  (List.range r.g.len).foldl (fun m i => Machine.mset m (r.g.va + i) (BitVec.ofNat 8 (line / 2 ^ (8 * ((r.g.va + i) % 128))))) m

/-- One piece of a read has come; the last one fills the register (R307 to R309). -/
def groupGot (s : State) (c x gid : Nat) (r : Req) : State :=
  match s.groups.find? (fun g => g.id = gid) with
  | none => s
  | some g =>
    let g := { g with left := g.left - 1, got := readInto r r.own g.got }
    if g.left != 0 then { s with groups := s.groups.map (fun h => if h.id = gid then g else h) }
    else
      let s := { s with groups := s.groups.filter (fun h => h.id != gid) }
      let w : RegWrite := match g.dest with
        | .s d => .s d (g.sz.ext (mread g.got g.at_ g.sz.bytes))
        | .v d =>
          let v := g.lanes.foldl (fun v l => v + mread g.got l.2 4 * 2 ^ (32 * l.1)) 0
          let en := g.lanes.foldl (fun v l => v + (2 ^ 32 - 1) * 2 ^ (32 * l.1)) 0
          .v d (BitVec.ofNat 16384 v) (BitVec.ofNat 16384 en)
        | .k d => .k d 0#512 0#512
      s.landReg c x gid w

/-- Bytes that a request counts for in the pending-byte counter (R310). -/
def owed (r : Req) : Nat :=
  match r.want with
  | .write _ be => beCount be 64
  | .wback _ be => beCount be 128
  | .red _ _ | .fred _ _ => r.g.len
  | .pin => 128
  | _ => 0

/-- An acknowledgement takes its bytes off its task's counter (R310). -/
def settle (s : State) (r : Req) : State :=
  match r.who with
  | .ctx c x => if (s.ctx c x).task = r.task then
      s.modCtx c x (fun k => { k with pbytes := (k.pbytes + 2 ^ 48 - owed r) % 2 ^ 48 }) else s
  | _ => s

/-- A write of the cluster to a leased line is no longer write-pending (R340). -/
def lessPending (s : State) (r : Req) : State :=
  match r.who, r.want with
  | .ctx c _, .write _ _ =>
    if r.g.ent.cache = 1 || r.g.ent.cache = 2 then
      s.modClu (clusOf c) (fun u => { u with l2 := u.l2.map (fun (l : CLine) =>
        if l.asid = r.g.ent.asid && l.va = r.g.va / 128 * 128 then { l with wpend := l.wpend - 1 } else l) })
    else s
  | _, _ => s

/-- What a write, an atomic or a release has written at its place, and which bytes. -/
def wrote (r : Req) : Option (Nat × Nat) :=
  match r.want with
  | .write d be | .wback d be => some (d, be)
  | .amo _ _ _ _ _ | .cas _ _ _ _ _ | .rel _ _ _ => some (r.own, 2 ^ r.g.len - 1)
  | _ => none
/-- The acknowledgement of a write that crossed the hearth die updates the copy there, unless that holds a later write (R276). -/
def hearthAck (s : State) (r : Req) : State :=
  match wrote r, r.p with
  | some (d, be), some p =>
    if s.crosses r p then
      { s with hearth := s.hearth.map (fun (l : CLine) => if l.asid = r.g.ent.key && l.va = p / 128 * 128 && l.wts < r.wts then
          { l.patch p d be false with wts := r.wts } else l) }
    else s
  | _, _ => s

/-- The acknowledgement of a write of a cluster raises the logical time of every core of the cluster that awaits it: one with a
wide release, a message or a copy's release under way, or a context whose bundle waits for acknowledgements (R338, R343,
R355). -/
def ackTime (s : State) (c wts : Nat) : State :=
  let here (e : Nat) : Bool := clusOf e = clusOf c
  let wide (sc : Scope) : Bool := match sc with | .core | .clus => false | _ => true
  let rels := (s.rels.filter (fun r => here r.core && r.phase = 3 && wide r.sc)).map (fun r => (r.core, r.ctx))
  let cops := (s.copies.filter (fun r => here r.cmd.core && r.phase = .rel && wide r.cmd.sc)).map (fun r => (r.cmd.core, r.cmd.ctx))
  let msgs := (s.fab.sends.filter (fun r => here r.core && r.phase = 0 && wide r.sc)).map (fun r => (r.core, r.ctx))
  let cols := (s.coll.waits.filter (fun w => here w.core && wide w.sc)).map (fun w => (w.core, w.ctx))
  let ctxs := (List.range 4).flatMap (fun i => ((s.core (4 * clusOf c + i)).ctxs.filter (fun p => p.2.ackWait)).map (fun p =>
    (4 * clusOf c + i, p.1)))
  (rels ++ cops ++ msgs ++ cols ++ ctxs).foldl (fun (s : State) p => s.raiseLt p.1 p.2 wts) s

/-- The slice remembers the time of the write acknowledged, for the wide releases of its cores to come (log 87). -/
def noteAck (s : State) (c wts : Nat) : State := s.modClu (clusOf c) (fun u => { u with ackLt := max u.ackLt wts })

/-- A pin's line becomes resident (R284, R318). -/
def pinFill (s : State) (c : Nat) (r : Req) : State :=
  s.modClu (clusOf c) (fun u => { u with l2 := u.l2.map (fun (l : CLine) =>
    if l.asid = r.g.ent.asid && l.va = r.g.va / 128 * 128 then
      -- the fill holds every write that its home has applied (R284); the cluster's others stay over it
      let out := outBytes (s.clusterOut (clusOf c) s.nextId l.asid l.va (fun _ => true))
      { l with data := BitVec.ofNat 1024 (patchLine r.data l.data.toNat (l.dirty ||| (l.valid &&& out))), valid := BitVec.allOnes 128,
               lease := r.lease, wts := r.wts, home := r.p }
    else l) })

/-! ### Releases under way (R343, R349, R370) -/

/-- A release under way. -/
def rel? (s : State) (id : Nat) : Option RelRun := s.rels.find? (fun r => r.id = id)
/-- It changed. -/
def modRel (s : State) (id : Nat) (f : RelRun → RelRun) : State :=
  { s with rels := s.rels.map (fun r => if r.id = id then f r else r) }
/-- It is over: its bundle is complete. -/
def endRel (s : State) (r : RelRun) : State :=
  let s := { s with rels := s.rels.filter (fun q => q.id != r.id) }
  s.modCtx r.core r.ctx (fun k => { k with comps := k.comps.filter (· != .rel r.id) })

/-- Dirty lines of bound ranges, held by the core or its slice, leave for their homes (R343). -/
def writeBackRanges (s : State) (c launch : Nat) (rs : List (Nat × Nat × Nat)) : State :=
  (s.l1ToSlice c (lineIn rs)).sliceToHome c (lineIn rs) (fun s l =>
    s.writeBack (.evict c) launch 0 0 l.ent l.va l.data.toNat l.valid.toNat)

/-- A line of the ranges is still on its way home from the cluster, or write-pending there (R350 step 3). -/
def rangesOut (s : State) (c : Nat) (rs : List (Nat × Nat × Nat)) : Bool :=
  s.reqs.any (fun r => r.who.clus = some (clusOf c) && (match r.want with | .wback _ _ => true | _ => false)
      && rs.any (fun g => g.1 < r.g.va + 128 && r.g.va < g.2.1 && g.2.2 = r.g.ent.asid))
    || (s.clu (clusOf c)).l2.any (fun l => 0 < l.wpend && lineIn rs l)

/-- The log entry that a release takes: a free one, which of them a free choice; else the oldest promoted; else the oldest
logged one, which is promoted at once and which the release waits for (R349). -/
def takeLog (s : State) (r : RelRun) : Option Nat × State :=
  let log := (s.core r.core).plog
  let held := (s.rels.filter (fun q => q.core = r.core && q.id != r.id)).filterMap (·.victim)
  let put (s : State) (old : List PLog) (no : Nat) : Option Nat × State :=
    let e : PLog := { id := s.nextId, no := no, st := 0, ctx := r.ctx, clus := r.sc = .clus, asid := r.ent.asid, seq := none, sn := r.sn,
                      task := r.task, launch := r.launch, sync := r.va, ranges := r.ranges, lines := s.bound r.launch r.ranges }
    (some e.id, State.modCore { s with nextId := s.nextId + 1 } r.core (fun k => { k with plog := old ++ [e] }))
  match r.victim.bind (fun v => log.find? (fun e => e.id = v)) with
  | some v => if v.st = 2 then put s (log.filter (fun e => e.id != v.id)) v.no else (none, s)
  | none =>
    let free := (List.range 64).filter (fun n => !log.any (fun e => e.no = n))
    if !free.isEmpty then
      let (i, s) := s.choose free.length
      put s log (free.getD i 0)
    else match log.find? (fun e => e.st = 2 && !held.contains e.id) with
      | some v => put s (log.filter (fun e => e.id != v.id)) v.no
      | none => match log.find? (fun e => e.st = 0) with
        | none => (none, s)
        | some v => (none, (s.modCore r.core (fun k => { k with plog := k.plog.map (fun e => if e.id = v.id then { e with st := 1 } else e) })).modRel
            r.id (fun q => { q with victim := some v.id }))

/-- Bits [127:96] of the word that a release writes (R342). -/
def releaser (s : State) (r : RelRun) : Nat :=
  coreDie r.core + coreClus r.core * 2 ^ 3 + coreK r.core * 2 ^ 7 + s.half r.core r.ctx * 2 ^ 9 + r.sc.code * 2 ^ 10
    + (s.core r.core).epoch % 2 ^ 16 * 2 ^ 13

/-- A release goes on as far as it can (R370 steps 2 to 5). -/
def stepRel (s : State) (r : RelRun) : State :=
  let ask (s : State) (w : Want) (p : Option Nat) : State :=
    s.ask { id := 0, who := .ctx r.core r.ctx, serial := r.serial, pos := r.pos, launch := r.launch, task := r.task,
            g := { va := r.va, len := 16, ent := r.ent }, want := w, p := p }
  match r.phase with
  | 2 =>
    let rs := s.bound r.launch r.ranges
    match r.sc with
    | .core => s.modRel r.id (fun q => { q with phase := 3 })
    | .clus => if s.backWaits r.core (lineIn rs) then s else (s.l1ToSlice r.core (lineIn rs)).modRel r.id (fun q => { q with phase := 3 })
    | _ => if s.backWaits r.core (lineIn rs) then s
        else ((s.seesAcks r.core r.ctx r.sc).writeBackRanges r.core r.launch rs).modRel r.id (fun q => { q with phase := 3 })
  | 3 =>
    let wide : Bool := match r.sc with | .core | .clus => false | _ => true
    if s.performedOf r.core r.ctx r.task r.sn r.sc && !(wide && s.rangesOut r.core (s.bound r.launch r.ranges)) then
      (ask s (.grant r.id) none).modRel r.id (fun q => { q with phase := 4 })
    else s
  | 5 =>
    match r.sc with
    | .core | .clus =>
      match s.takeLog r with
      | (some e, s) =>
        (ask s (.rel r.val (s.releaser r) (some e)) (if r.ent.home = 4 then none else some r.p)).modRel r.id
          (fun q => { q with phase := 6, log := some e })
      | (none, s) => s
    | _ => (ask s (.rel r.val (s.releaser r) none) (if r.ent.home = 4 then none else some r.p)).modRel r.id
        (fun q => { q with phase := 6 })
  | _ => s

/-- The releases of every core, in a clock. -/
def stepRels (s : State) : State := s.rels.foldl (fun s r => match s.rel? r.id with | some r => s.stepRel r | none => s) s

/-! ### Promotions (R348 to R352) -/

/-- A promotion. -/
def promo? (s : State) (id : Nat) : Option Promo := s.promos.find? (fun p => p.id = id)
/-- It changed. -/
def modPromo (s : State) (id : Nat) (f : Promo → Promo) : State :=
  { s with promos := s.promos.map (fun p => if p.id = id then f p else p) }
/-- The reply of a promotion leaves. -/
def promoReply (s : State) (p : Promo) (status : Nat) : State :=
  let k := s.core p.target
  -- the reply's time covers the writes of the matched releases (R350), those of the cluster's other cores too (log 87)
  let lt := max (s.ltBase + max k.lt0 k.lt1) (s.clu (clusOf p.target)).ackLt
  (s.modPromo p.id (fun p => { p with status := status, lt := lt, waits := [], here := false })).after
    (max (s.meshWait (coreDie p.target)) (s.meshWait (coreDie p.core))) 0 .promotionReply { id := p.id }

/-- Every write that the releasing context had sent before the release is acknowledged (R350 step 2). -/
def promoAcked (s : State) (c : Nat) (e : PLog) : Bool :=
  !s.reqs.any (fun r => r.who = .ctx c e.ctx && r.task = e.task && r.sendNo < e.sn && owed r != 0)
    && !s.msgs.any (fun m => m.core = c && m.ctx = e.ctx && m.task = e.task && m.sendNo < e.sn)

/-- The promotion engine of a core in a clock: promoting entries, in log order, then the replies that wait for them. -/
def stepPromo (s : State) (c : Nat) : State :=
  let s := ((s.core c).plog.filter (fun e => e.st = 1)).foldl (fun (s : State) e =>
    if !s.promoAcked c e || s.backWaits c (lineIn e.lines) then s
    else
      let s := s.writeBackRanges c e.launch e.lines
      if s.rangesOut c e.lines then s
      else s.modCore c (fun k => { k with plog := k.plog.map (fun f => if f.id = e.id then { f with st := 2 } else f) })) s
  let open_ (id : Nat) : Bool := (s.core c).plog.any (fun e => e.id = id && e.st != 2)
  (s.promos.filter (fun p => p.target = c && p.here)).foldl (fun (s : State) p =>
    if p.waits.any open_ then s else s.promoReply p 1) s

/-! ### Grants in use (R279, R280) -/

/-- A write grant for an address under an identifier has been given and not used or dropped. -/
def grantOut (s : State) (covers : Nat → Nat → Bool) : Bool :=
  s.reqs.any (fun r => covers r.g.ent.asid r.g.va && (match r.want with
      -- one that waits for room in a checkpoint reserve is given already (R406)
      | .grant _ => (r.served && r.code = 0) || (r.p.isSome && !r.served)
      | .write _ _ | .red _ _ | .fred _ _ | .rel _ _ _ | .amo _ _ _ _ _ | .cas _ _ _ _ _ => r.p.isSome && !r.served
      | _ => false))
    || s.cores.any (fun c => c.2.cb.any (fun e => (match e.grant with | .granted _ => true | _ => false) && (match e.kind with
      | .global g _ _ | .red g _ _ | .fred g _ _ => covers g.ent.asid g.va
      | _ => false)))
    || s.fab.granted.any (fun g => covers g.2.1 g.2.2.1)
    || s.rels.any (fun r => r.phase = 5 && covers r.ent.asid r.va)
    || s.copies.any (fun r => r.grants.any (fun g => match s.copyDstEntry r 0 1 with
      | .ok e => covers e.asid (g.1 * 4096)
      | .error _ => false))
    || s.coll.runs.any (fun r => r.grants.any (fun g => match s.inst? r.inst with
      | some i => (s.launch i.launch).lrt.any (fun e => e.v && e.base ≤ g.1 * 4096 && g.1 * 4096 < e.limit && covers e.asid (g.1 * 4096))
      | none => false))

end State

/-! ### The steps of a home -/

/-- HOME_REQUEST: id, the request; flag: its unit has been copied into the reserve (R270, R279, R406). -/
def execHomeRequest (s : State) : Out :=
  match s.req? s.arg.id with
  | none => .next s
  | some r =>
    if s.arg.flag then .next (match r.p with | some p => s.serve r.id p | none => s)
    -- a request for another chip that was refused and is asked again
    else if State.away r then .next (s.toPeer r)
    else
      let d := s.reqHome r
      if d = 9 then .next (s.after 0 (lineRoute r.who r.g.va 0) .firstTouchAssign { id := r.id })
      else if d < 8 && (s.die d).dfail then .next (s.answer { r with code := 6 })
      else if State.owed r != 0 && s.earlierOwn r then
        .next (s.sched_ (s.pcyc + 1) (lineRoute r.who r.g.va 0) .homeRequest { id := r.id })
      else
        let s := s.modReq r.id (fun r => { r with home := d })
        .next ((s.modDie d (fun k => { k with walkQ := k.walkQ ++ [r.id] })).inOrder (fun s => s.runWaiting d))

/-- TRANSLATION_WALK: id, the request; n, the die, 8 for the hearth die (R277 to R279). -/
def execTranslationWalk (s : State) : Out :=
  let (id, d) := (s.arg.id, s.arg.n)
  let s := s.modDie d (fun k => { k with walkers := k.walkers.filter (· != id) })
  match s.req? id with
  | none => .next (s.inOrder (fun s => s.runWaiting d))
  | some r =>
    let done (s : State) : State := s.modDie d (fun k => { k with walkQ := k.walkQ.filter (· != id) })
    match s.walkBy (s.walkRead d r.g.ent.asid) d r.g.ent.asid r.g.va with
    | (.at p base size pbase, l) =>
      let s := s.walkKeep d r.g.ent.asid l
      -- the replacement rule of the translation cache is not given
      let (n, s) := s.choose 32768
      let s := s.modDie d (fun k => { k with tc := (if 32768 ≤ k.tc.length then k.tc.eraseIdx n else k.tc) ++
        [(r.g.ent.asid, base, size, pbase)] })
      .next (s.inOrder (fun s => ((done s).serve id p).runWaiting d))
    | (.fail c, l) =>
      .next (((done (s.walkKeep d r.g.ent.asid l)).answer { r with code := c }).inOrder (fun s => s.runWaiting d))

/-- FIRST_TOUCH_ASSIGN: id, the request at the directory (R271). -/
def execFirstTouchAssign (s : State) : Out :=
  match s.req? s.arg.id with
  | none => .next s
  | some r =>
    let onward (s : State) : State :=
      s.after (s.meshWait ((s.homeDie r.g.ent r.g.va).getD 9)) (lineRoute r.who r.g.va 0) .homeRequest { id := r.id }
    if (s.homeDie r.g.ent r.g.va).isSome then .next (onward s)
    else
      let mine := s.agentDie r.who
      let d := match r.g.hint with
        | some h => if bit r.g.ent.dmask h then h else if mine < 8 then mine else nthBit r.g.ent.dmask 0
        | none => if mine < 8 then mine else nthBit r.g.ent.dmask 0
      match (s.die d).frames with
      | [] => .next (s.answer { r with code := 2 })
      | f :: rest =>
        if (match s.leafPlace d r.g.ent.asid (r.g.va / 4096 * 4096) with | some p => s.ckStuck p 8 | none => false) then
          .next (s.sched_ (s.pcyc + 1) (lineRoute r.who r.g.va 0) .firstTouchAssign s.arg)
        else
        let s := s.modDie d (fun k => { k with frames := rest })
        let s := s.writeLeaf d r.g.ent.asid (r.g.va / 4096 * 4096) f
        .next (onward { s with ftdir := s.ftdir ++ [(r.g.ent.asid, r.g.va / 4096, d)] })

/-- HOME_WRITE_APPLY: id, the write or atomic at its place; a line that another cluster pinned may make it wait (R282, R284,
R312, R411). -/
def execHomeWriteApply (s : State) : Out :=
  match s.req? s.arg.id with
  | none => .next s
  | some r => match r.p with
    | none => .next s
    | some p => match s.pinnedBy p with
      | some k => .next (s.holdPinned k r.id)
      | none =>
        let key := r.g.ent.key
        -- the word of an atomic is what its acquire and release synchronise on (R354): its home keeps its time as a sync word's
        let stamp : Bool := r.g.ent.coh = 0 || (match r.want with | .amo _ _ _ _ _ | .cas _ _ _ _ _ => true | _ => false)
        let n := r.g.len
        let err := (s.line p).err
        let put (s : State) (v be : Nat) : State × Req :=
          let s := (s.homeWrite key p n v be r.lt stamp).patchPinned p v be
          let l := s.line p
          (s, { r with tag := some l.tag, wts := if stamp then l.wts else 0, own := s.placeRead key p n })
        match r.want with
        | .write v be | .wback v be =>
          -- what a void tail has closed is not applied (R424)
          if be = 0 then .next (s.answer r)
          else if err && !(n = 128 && p % 128 = 0 && be = 2 ^ 128 - 1) then .next (s.answer { r with code := 5 })
          else let (s, r) := put s v be; .next (s.answer r)
        | .amo _ _ op v _ =>
          if err then .next (s.answer { r with code := 5 })
          else
            let s := s.mergeUpds p n
            let x := s.placeRead key p n
            let (s, r) := put s (amoVal op x v n) (2 ^ n - 1)
            .next (s.answer { r with data := x })
        | .cas _ _ e v _ =>
          if err then .next (s.answer { r with code := 5 })
          else
            let s := s.mergeUpds p n
            let x := s.placeRead key p n
            let (s, r) := put s v (if x = e % 2 ^ (8 * n) then 2 ^ n - 1 else 0)
            .next (s.answer { r with data := x })
        | _ => .next s

/-- REDUCTION_APPLY: id, the contribution at the partial copy of its die. Contributions are writes of the memory model: the
line's time rises; its tag does not (R282, R314, R316, R339, R354). -/
def execReductionApply (s : State) : Out :=
  match s.req? s.arg.id with
  | none => .next s
  | some r => match r.p with
    | none => .next (s.now_ .homeRequest { id := r.id })
    | some p =>
      if s.earlierOwn r || s.backOut r || (match s.ckUnit p with | some u => !s.ckRoom u | none => false) then .next (s.sched_ (s.pcyc + 1) (lineRoute r.who r.g.va 0) .reductionApply { id := r.id })
      else match s.pinnedBy p with
      | some k => .next (s.holdPinned k r.id)
      | none =>
      if (s.line p).err then .next (s.answer { r with code := 5 })
      else
        let mine := s.agentDie r.who
        let die := if mine < 8 then mine else if p < Config.ppaLimit then p / 2 ^ 37 else 8
        let stamp : Bool := r.g.ent.coh = 0
        let s := match r.want with
          | .red op v => (s.ckCopy p).contribute r.g.ent.key p r.g.len die (some op) .i64 v
          | .fred ty v => (s.ckCopy p).contribute r.g.ent.key p r.g.len die none ty v
          | _ => s
        let s := s.stampLine p r.lt stamp
        let s := s.patchPinned p (s.mergedRead r.g.ent.key p r.g.len) (2 ^ r.g.len - 1)
        .next ((s.notify p r.g.len).answer { r with wts := if stamp then (s.line p).wts else 0 })

/-- SYNC_WORD_WRITE: id, the release at the word's home: value, count and releaser in one action (R342, R343, R370). -/
def execSyncWordWrite (s : State) : Out :=
  match s.req? s.arg.id with
  | none => .next s
  | some r => match r.p, r.want with
    | some p, .rel v hi _ =>
      match s.pinnedBy p with
      | some k => .next (s.holdPinned k r.id)
      | none =>
      if (s.line p).err then .next (s.answer { r with code := 5 })
      else
        let key := r.g.ent.key
        let s := s.mergeUpds p 16
        let old := s.placeRead key p 16
        let seq := (fld old 64 32 + 1) % 2 ^ 32
        let far := match r.who with | .peer _ _ => 2 ^ 125 | _ => 0
        let w := v.toNat + seq * 2 ^ 64 + hi % 2 ^ 29 * 2 ^ 96 + far
        let s := (s.homeWrite key p 16 w (2 ^ 16 - 1) r.lt true).patchPinned p w (2 ^ 16 - 1)
        .next (s.answer { r with data := seq, own := w, wts := (s.line p).wts })
    | _, _ => .next s

/-- SPILL_QUEUE_RETURN: n, the cluster: the oldest request of the spill queue returns to the slice's input buffer while it has
room, and a write is applied if it need not wait (R275, R284). -/
def execSpillQueueReturn (s : State) : Out :=
  let k := s.arg.n
  match (s.clu k).spill with
  | [] => .next s
  | id :: rest =>
    if 64 ≤ (s.clu k).inbuf.length then .next s
    else
      let s := s.modClu k (fun u => { u with spill := rest })
      let s := if rest.isEmpty then s else s.now_ .spillQueueReturn { n := k }
      match s.req? id with
      | none => .next s
      | some r =>
        if r.served || (match r.p with | some p => (s.pinnedBy p).isSome | none => false) then
          .next (s.modClu k (fun u => { u with inbuf := u.inbuf ++ [id] }))
        else .next (s.now_ r.applyEv { id := id })

/-! ### The steps of a requester -/

/-- VARIABLE_RESULT_LAND: id, a request whose answer has arrived; or with flag a result whose clock has come (R141, R307 to
R312, R317, R344, R448, R453). -/
def execVariableResultLand (s : State) : Out :=
  if s.arg.flag then
    match s.vres.find? (fun v => v.id = s.arg.id) with
    | none => .next s
    | some v =>
      let w : RegWrite := match v.tl, v.w with
        | some (n, sel), .s d _ => .s d ((s.tl v.core n).field sel)
        | _, w => w
      .next (State.landReg { s with vres := s.vres.filter (fun u => u.id != v.id) } v.core v.ctx v.id w)
  else
    match s.req? s.arg.id with
    | none => .next s
    | some r =>
      let s1 := s.endReq r.id
      -- the reply of an atomic passes the hearth die whoever awaits it (R276)
      if !s.listening r then .next (s1.hearthAck r)
      else match r.who, r.want with
        | .ctx c x, .read g =>
          let s := (s1.raiseLt c x r.wts).keepLine c r true
          .next (s.groupGot c x g r)
        | .ctx c x, .prefetch l2 => .next ((s1.raiseLt c x r.wts).keepLine c r (!l2))
        | .ctx c x, .amo rid d _ _ sz | .ctx c x, .cas rid d _ _ sz =>
          let s := (((s1.noteAck c r.wts).raiseLt c x r.wts).hearthAck r).landReg c x rid (.s d (sz.ext r.data))
          let s := s.tagged c x r.serial r.tag
          .next (s.modCtx c x (fun k => { k with comps := k.comps.filter (· != .atomic rid) }))
        | .ctx c x, .sync =>
          if (s.ctx c x).syncReq != some r.id then .next s1
          else
            -- the answer that lands is the one that left with it: a later one is on its way behind (R344)
            let ans : SyncAns := { va := r.g.va, word := BitVec.ofNat 128 s.arg.v, wts := s.arg.n }
            let s1 := s1.raiseLt c x s.arg.n
            let s := s.raiseLt c x s.arg.n
            -- another chip's home answers each poll once, and the poll is made again
            if State.away r then .next (s1.modCtx c x (fun k => { k with sync := some ans, syncReq := none }))
            else .next (s.modCtx c x (fun k => { k with sync := some ans }))
        | .copy id, .read _ => .next (s1.copyAnswer id (fun q => { q with got := State.readInto r r.own q.got }) 0 0 0)
        | .coll id, .read _ => .next (s1.collAnswer id (State.readInto r r.own) none 0 0 0)
        | _, _ => .next s1

/-- WRITE_GRANT_RETURN: id, the request of a grant (R280, R370). -/
def execWriteGrantReturn (s : State) : Out :=
  match s.req? s.arg.id with
  | none => .next s
  | some r =>
    let s := s.endReq r.id
    let page := (r.g.va / 4096, r.p.map (fun p => p - r.g.va % 4096))
    match r.who, r.want with
    | .ctx c _, .grant id =>
      if (s.rel? id).isSome then .next (s.modRel id (fun q => { q with phase := 5, p := r.p.getD 0 }))
      else if r.dead then .next s
      else .next (s.modCore c (fun k => { k with cb := k.cb.map (fun e => if e.id = id then { e with grant := .granted (r.p.getD 0) } else e) }))
    | .copy id, .grant _ => .next (s.copyAnswer id (fun q => { q with grants := q.grants ++ [page] }) 0 0 0)
    | .coll id, .grant _ => .next (if r.dead then s else s.collAnswer id (fun m => m) (some page) 0 0 0)
    | _, _ => .next s

/-- What a refusal or a failed access does to the context that asked (R270, R279, R281, R409 to R411). -/
def State.refused (s : State) (c x : Nat) (r : Req) : State :=
  let k := s.ctx c x
  let slot := match r.want with | .sync | .rel _ _ _ => 6 | .grant id => if (s.rel? id).isSome then 6 else 2 | _ => 2
  let s := match r.want with
    | .grant id => match s.rel? id with | some q => s.endRel q | none => s
    | _ => s
  let t : Trap := { cause := 0x12, slot := slot, addr := r.g.va + r.g.off, asid := r.g.ent.asid }
  -- a save under way goes back to the request: the mark before it becomes the pre-emption point (R418)
  let s := match k.why with
    | .saving area d => s.modCtx c x (fun k => { k with pre := some { area := area, debug := d, deadline := s.pcyc } })
    | _ => s
  match r.code with
  | 1 =>
    (s.rollback c x .migrating).sched_ (s.pcyc + Config.migrationClocks) 0 .migrationRerun { core := c, ctx := x, id := k.task }
  | 2 =>
    let seq := s.fq.seq.toNat
    let rec_ : Rec := { cls := 1, cause := 0x16, slot := slot, asid := r.g.ent.asid, pos := r.pos, addr := r.g.va + r.g.off }
    let s := s.post (s.recOf c x rec_)
    State.rollback { s with fq := { s.fq with waits := s.fq.waits ++ [(seq, c, x, none)] } } c x (.resolve seq false)
  | 4 => s.programError c x { t with sub := 2 } r.pos
  | 5 => s.programError c x { t with cls := 3, cause := 0x1E, sub := 0 } r.pos
  | 6 => s.programError c x { t with cls := 3, cause := 0x1E, sub := 2 } r.pos
  | _ => s.programError c x { t with sub := 1 } r.pos

/-- A released access of a task that runs no more fails, or a write-back: a record, and its launch is cancelled while it lasts (R78,
R270, R411). -/
def State.lateFault (s : State) (c : Nat) (r : Req) : State :=
  let hard : Bool := r.code = 5 || r.code = 6
  let gin := (s.launch r.launch).gin
  let s := if (s.launch? r.launch).isSome then s.cancelGin (s.agentDie r.who) gin else s
  s.post { gin := gin, cls := if hard then 3 else 2, cause := if hard then 0x1E else 0x12,
           sub := if r.code = 6 then 2 else if r.code = 3 then 1 else if r.code = 4 then 2 else 0, die := coreDie c,
           clus := coreClus c, core := coreK c, asid := r.g.ent.asid, addr := r.g.va + r.g.off }
/-- What is written or added whether its task goes on or not: it had been released (R254, R370). -/
def Want.released : Want → Bool
  | .write _ _ | .wback _ _ | .red _ _ | .fred _ _ | .rel _ _ _ => true
  | _ => false
/-- The releases of a task whose word is on its way end. -/
def State.endRels (s : State) (c x task : Nat) : State :=
  (s.rels.filter (fun (q : RelRun) => q.core = c && q.ctx = x && q.task = task && q.phase = 6)).foldl (fun (s : State) (q : RelRun) => s.endRel q) s

/-- REFUSAL_ARRIVAL: id, a request refused or failed at its home (R281, R317, R331, R370, R411). A write-back or a pin's fill
that is refused is asked again 2,048 clocks later, and so is an access of the bundle of the established mark, which a rollback does
not issue again (log 99), and the grant of a release whose context runs no more, which nothing rolls back (R370). -/
def execRefusalArrival (s : State) : Out :=
  match s.req? s.arg.id with
  | none => .next s
  | some r =>
    let s1 := (s.endReq r.id).settle r
    let retry : State := s.askAgain r Config.migrationClocks
    let moved : Bool := r.code = 1 || r.code = 2
    match r.who with
    | .ctx c x =>
      let k := s.ctx c x
      let gone : Bool := k.task != r.task || k.status = .free || k.why = .trapped || k.why = .lost || k.why = .done
      let s1 := s1.lessPending r
      let rel := match r.want with | .grant id => s.rel? id | _ => none
      let again : Bool := match r.want with
        | .pin => true
        | .read _ | .amo _ _ _ _ _ | .cas _ _ _ _ _ => !r.dead && (match k.markSer with | some n => r.serial ≤ n | none => false)
        | _ => false
      .next (match r.want with
        | .wback _ _ => if moved then retry else if gone then s1.lateFault c r else s1.refused c x r
        | .prefetch _ => s1
        | want =>
          if rel.isSome && gone then
            (if moved then retry else match rel with | some q => (s1.endRel q).lateFault c r | none => s1)
          else if gone then
            (if want.released then (match want with | .rel _ _ _ => s1.endRels c x r.task | _ => s1).lateFault c r
            else if again && moved && want = .pin then retry else s1)
          else if r.dead && !want.released && rel.isNone then s1
          -- what waits for the host's answer is asked again by FAULT_RESOLVE
          else if again && r.code = 1 then retry.refused c x r
          else if again && r.code = 2 then (s.modReq r.id (fun r => { r with served := true })).refused c x r
          else (match want with | .rel _ _ _ => s1.endRels c x r.task | _ => s1).refused c x r)
    | .copy id => .next (s1.copyAnswer id (fun q => q) r.code r.g.va r.g.ent.asid)
    | .coll id => .next (if r.dead then s1 else s1.collAnswer id (fun m => m) none r.code r.g.va r.g.ent.asid)
    | .evict c => .next (if moved then retry else s1.lateFault c r)
    | .peer _ _ => .next s1

/-- MIGRATION_RERUN: core, ctx; id, the task: 2,048 clocks after its refusal the context runs from its mark (R281). -/
def execMigrationRerun (s : State) : Out :=
  let k := s.ctx s.arg.core s.arg.ctx
  .next (if k.why = .migrating && k.task = s.arg.id then s.resumeFetch s.arg.core s.arg.ctx else s)

/-- ACK_ARRIVAL: id, a write, contribution, pin or release that its home has taken; or with flag a remote chunk or RSTE (R276,
R283, R303, R310, R338, R340, R370). -/
def execAckArrival (s : State) : Out :=
  if s.arg.flag then
    match s.msg? s.arg.id with
    | none => .next s
    | some m =>
      let s : State := { s with msgs := s.msgs.filter (fun n => n.id != m.id) }
      .next (if (s.ctx m.core m.ctx).task = m.task then
        s.modCtx m.core m.ctx (fun k => { k with pbytes := (k.pbytes + 2 ^ 48 - m.bytes) % 2 ^ 48 }) else s)
  else match s.req? s.arg.id with
    | none => .next s
    | some r =>
      let s := (((s.endReq r.id).settle r).lessPending r).hearthAck r
      match r.who with
      | .ctx c x =>
        let s := ((s.noteAck c r.wts).raiseLt c x r.wts).ackTime c r.wts
        let live : Bool := (s.ctx c x).task = r.task
        match r.want with
        | .pin => .next (s.pinFill c r)
        | .rel _ _ log =>
          let seq := r.data
          let s := match log with
            | some e => s.modCore c (fun k => { k with plog := k.plog.map (fun (p : PLog) => if p.id = e then { p with seq := some seq } else p) })
            | none => s
          .next (s.endRels c x r.task)
        | .write _ _ | .wback _ _ => .next (if live then s.tagged c x r.serial r.tag else s)
        | _ => .next s
      | .copy id => .next ((s.modCopy id (fun q => { q with wts := max q.wts r.wts })).copyLanded id)
      | .coll id => .next (if r.dead then s else s.collAnswer id (fun m => m) none 0 0 0)
      | _ => .next s

/-! ### Promotions -/

/-- PROMOTION_REQUEST: id: it reaches the core that released last. Another epoch, or a core that has failed, is answered lost;
else every matching entry is promoted (R350 to R352). -/
def execPromotionRequest (s : State) : Out :=
  match s.promo? s.arg.id with
  | none => .next s
  | some p =>
    let t := p.target
    if !s.coreOn t || (s.core t).epoch % 2 ^ 16 != p.ep then .next (s.promoReply p 2)
    else
      let hit (e : PLog) : Bool := e.sync = p.va && e.asid = p.asid && (match e.seq with | some q => q ≤ p.seq | none => true)
      let mine := ((s.core t).plog.filter (fun e => hit e && e.st != 2)).map (·.id)
      let s := s.modCore t (fun k => { k with plog := k.plog.map (fun e => if hit e && e.st = 0 then { e with st := 1 } else e) })
      .next (if mine.isEmpty then s.promoReply p 1 else s.modPromo p.id (fun p => { p with here := true, waits := mine }))

/-- PROMOTION_REPLY: id: time rises on status 1, the clean copies of the bound ranges go, and the status is on its way to its
register (R350). -/
def execPromotionReply (s : State) : Out :=
  match s.promo? s.arg.id with
  | none => .next s
  | some p =>
    let s : State := { s with promos := s.promos.filter (fun q => q.id != p.id) }
    let k := s.ctx p.core p.ctx
    match s.vres.find? (fun v => v.core = p.core && v.ctx = p.ctx && v.id = p.id + 1) with
    | some v =>
      if k.task != p.task then .next s
      else
        let s := if p.status = 1 then s.raiseLt p.core p.ctx p.lt else s
        let s := s.dropClean p.core k.launch (k.ranges p.va) p.sc
        let s := s.modCtx p.core p.ctx (fun k => { k with comps := k.comps.filter (· != .promo p.id) })
        let w : RegWrite := match v.w with | .s d _ => .s d (BitVec.ofNat 64 p.status) | w => w
        let s : State := { s with vres := s.vres.map (fun u => if u.id = v.id then { u with w := w } else u) }
        .next (s.now_ .variableResultLand { id := v.id, flag := true })
    | none => .next s

/-! ### Barriers and logical time -/

/-- BARRIER_COMPLETE: id: every task of the group has arrived (R376, R377). -/
def execBarrierComplete (s : State) : Out :=
  .next (s.modBar s.arg.id (fun b => { b with done := b.done + 1#32, here := 0, ltDone := b.lt, lt := 0 }))

/-- LT_TICK: every core's logical time rises by 1 (R338). -/
def execLtTick (s : State) : Out := .next { s with ltBase := s.ltBase + 1 }

/-- TIMESTAMP_REBASE: leased copies go, and every time is 0 (R341). A copy that is pinned or write-pending stays without a lease,
so that it serves nothing that a lease would (R318, R340). The dies quiesce for a free time of at most 4,096 clocks, in which no
packet enters a mesh or a bridge, as in a permit audit (R425; log 44). -/
def execTimestampRebase (s : State) : Out :=
  let keep (l : CLine) : Bool := l.ent.coh != 0 || l.wpend != 0 || l.pins != 0
  let zero (l : CLine) : CLine := { l with lease := 0, wts := 0 }
  let zreq (r : Req) : Req := { r with lt := 0, wts := 0, lease := 0, nofill := r.nofill || r.g.ent.coh = 0 }
  let ztl (t : Timeline) : Timeline := { t with times := [] }
  let zctx (k : Ctx) : Ctx := { k with sync := k.sync.map (fun a => { a with wts := 0 }) }
  let zw (w : PWrite) : PWrite := { w with rel := w.rel.map (fun _ => 0) }
  let zcore (k : Core) : Core :=
    { k with lt0 := 0, lt1 := 0, l1 := (k.l1.filter keep).map zero, tls := k.tls.map (fun t => (t.1, ztl t.2)),
             sp := { k.sp with tagLt := [], wr := k.sp.wr.map zw, claims := k.sp.claims.map zw }, ctxs := k.ctxs.map (fun p => (p.1, zctx p.2)) }
  let (n, s) := s.choose 4097
  let s := (List.range 8).foldl (fun (s : State) d => s.modDie d (fun k => { k with calm := s.pcyc + n })) s
  .next { s with ltBase := 0, hearth := [], cores := s.cores.map (fun c => (c.1, zcore c.2)),
                 clus := s.clus.map (fun c => (c.1, { c.2 with l2 := (c.2.l2.filter keep).map zero, ackLt := 0 })),
                 lines := s.lines.map (fun l => (l.1, { l.2 with wts := 0, rts := 0 })), reqs := s.reqs.map zreq,
                 bars := s.bars.map (fun b => { b with lt := 0, ltDone := 0 }), copies := s.copies.map (fun r => { r with wts := 0, relLt := 0 }),
                 promos := s.promos.map (fun p => { p with lt := 0 }), msgs := s.msgs.map (fun m => { m with wts := 0 }),
                 fab := { s.fab with lrqs := s.fab.lrqs.map (fun q => (q.1, { q.2 with msgs := q.2.msgs.map (fun m => { m with lt := 0 }) })) } }

end Sys2Proof.Machine
end

