-- ==== Sys2Proof/Machine/Launching.lean ====
section
/-! DEFINITION. Launch queues and the distributor: the stamp check, device-side entries, the checks of a launch, service,
follow records and completion records (R29 to R43, R66 to R80, R384, R429, R430). -/

namespace Sys2Proof.Machine

/-! ### The image directory (R29) -/

/-- Bits [lo+n−1 : lo] of the image directory. -/
def Launch.i (l : Launch) (lo n : Nat) : Nat := fld l.dir.toNat lo n
/-- img.ndict. -/
def Launch.ndict (l : Launch) : Nat := l.i 48 16
/-- img.nidx. -/
def Launch.nidx (l : Launch) : Nat := l.i 192 64
/-- PPA of the dictionary. -/
def Launch.dictAt (l : Launch) : Nat := l.image + l.i 64 64
/-- PPA of the index stream. -/
def Launch.idxAt (l : Launch) : Nat := l.image + l.i 128 64
/-- PPA of the locked range table image. -/
def Launch.lrtAt (l : Launch) : Nat := l.image + l.i 256 64
/-- PPA of the ring presets. -/
def Launch.ringAt (l : Launch) : Nat := l.image + l.i 320 64
/-- PPA of the binding presets. -/
def Launch.bindAt (l : Launch) : Nat := l.image + l.i 384 64
/-- PPA of the preload list (R131). -/
def Launch.preAt (l : Launch) : Nat := l.image + l.i 448 64 + 256
/-- Offsets and lengths of the sections that R29 lists. -/
def Launch.sections (l : Launch) : List (Nat × Nat) :=
  [(l.i 64 64, 48 * l.ndict), (l.i 128 64, 2 * l.nidx), (l.i 256 64, 2048), (l.i 320 64, 256), (l.i 384 64, 512), (l.i 448 64, 256)]

/-- An LRT entry of an image (R38). -/
def lrtOf (e dmask : Nat) : Lrt :=
  { base := fld e 0 64, limit := fld e 64 64, v := bit e 128, home := fld e 129 3, hdie := fld e 132 4, peer := fld e 136 18,
    coh := fld e 154 2, cache := fld e 156 2, rd := bit e 158, wr := bit e 159, at_ := bit e 160, key := fld e 161 6,
    asid := fld e 192 16, dmask := dmask }
/-- A binding preset (R41). -/
def bindOf (e : Nat) : Binding :=
  { sync := BitVec.ofNat 64 (fld e 0 64), base := BitVec.ofNat 64 (fld e 64 64), limit := BitVec.ofNat 64 (fld e 128 64), v := bit e 192 }
/-- Entry n of a preset table or LRT image of entries of w bytes. -/
def State.preset (s : State) (at_ w n : Nat) : Nat := mread s.mem (at_ + w * n) w
/-- The ring a preset gives, its pointers zero (R40). -/
def State.ringPreset (s : State) (l : Launch) (n : Nat) : Ring := Ring.ofLow (s.preset l.ringAt 16 n)
/-- The binding a preset gives (R41). -/
def State.bindPreset (s : State) (l : Launch) (n : Nat) : Binding := bindOf (s.preset l.bindAt 32 n)

/-! ### The checks of a launch (R43) -/

/-- Check 0x2: reserved bits of the header. -/
def hdrReserved (h : Nat) : Bool :=
  fld h 127 1 = 0 && fld h 136 24 = 0 && fld h 480 32 = 0 && fld h 896 1024 = 0 && fld h 1974 74 = 0
/-- Check 0x3: the WID layout (R34). -/
def Launch.widOk (l : Launch) : Bool :=
  1 ≤ l.nf && l.nf ≤ 6 && (List.range 6).all (fun k =>
    if k < l.nf then 1 ≤ l.w k && l.w k ≤ 64 && l.ub k < 2 ^ l.w k else l.w k = 0 && l.ub k = 0)
    && ((List.range 6).map l.w).foldl (· + ·) 0 ≤ 64
/-- Check 0x4: the level bindings (R36). -/
def Launch.levelsOk (l : Launch) : Bool :=
  l.lb 0 = 0 && (List.range 7).all (fun k => l.lb k ≤ 4
    && (List.range k).all (fun j => l.lb j = 0 || l.lb k = 0 || l.lb j ≤ l.lb k))

/-- A core that a launch can ever use: its die is a candidate, the core and, where asked for, its engine and both lane groups
work (R37, R82, R85). -/
def State.couldHost (s : State) (l : Launch) (c : Nat) : Bool :=
  bit l.hdmask (coreDie c) && s.coreOn c && (!l.mx || (s.die (coreDie c)).mxen.getLsbD (c % 48))
    && (!l.split || ((s.core c).slotmap.getLsbD 0 && (s.core c).slotmap.getLsbD 1))
/-- Contexts that a launch can use among the cores from c on, n of them. -/
def State.hostContexts (s : State) (l : Launch) (c n : Nat) : Nat :=
  8 * ((List.range n).filter (fun k => s.couldHost l (c + k))).length
/-- Contexts of the largest instance of a domain (R37). -/
def State.capacity (s : State) (l : Launch) (code : Nat) : Nat :=
  match code with
  | 1 => if l.split then 4 else 8
  | 2 => (List.range 96).foldl (fun m k => max m (s.hostContexts l (4 * k) 4)) 0
  | 3 => (List.range 8).foldl (fun m d => max m (s.hostContexts l (48 * d) 48)) 0
  | _ => s.hostContexts l 0 384
/-- Check 0x5: the barrier levels (R37). -/
def State.barriersOk (s : State) (l : Launch) : Bool :=
  (List.range 7).all (fun k => !bit l.barlv k ||
    if l.lb k = 0 then l.nf ≤ k && l.groupSize k ≤ s.capacity l 4 else l.groupSize k ≤ s.capacity l (l.lb k))

/-- Check 0x9: the directory and its extents (R29). -/
def Launch.dirOk (l : Launch) : Bool :=
  let ss := l.sections
  l.image % 4096 = 0 && 1 ≤ l.ndict && l.ndict ≤ 8192 && 1 ≤ l.nidx && l.nidx ≤ 2 ^ 32
    && ss.all (fun p => p.1 % 64 = 0 && 64 ≤ p.1 && l.image + p.1 + p.2 ≤ Config.ppaLimit)
    && ss.zipIdx.all (fun p => ss.zipIdx.all (fun q => p.2 = q.2 || p.1.1 + p.1.2 ≤ q.1.1 || q.1.1 + q.1.2 ≤ p.1.1))
    && l.entry < l.nidx

/-- An entry of the LRT image meets R38 and R39. -/
def lrtEntryOk (e dmask : Nat) : Bool :=
  let t := lrtOf e dmask
  if !t.v then e = 0
  else t.base % 4096 = 0 && t.limit % 4096 = 0 && t.base < t.limit && canonVa t.base && canonVa t.limit && t.home ≤ 4
    && (if t.home = 0 then t.hdie ≤ 7 && bit dmask t.hdie else t.hdie = 0) && (t.home = 4 || t.peer = 0)
    && t.coh != 3 && t.cache != 3 && (!t.at_ || t.wr) && fld e 167 25 = 0 && fld e 208 48 = 0
    && !((t.home = 3 || t.home = 4) && (t.coh = 0 || t.key != 0))
/-- Check 0xA: every entry, and no two valid ones overlap. -/
def State.lrtOk (s : State) (l : Launch) : Bool :=
  (List.range 64).all (fun n => lrtEntryOk (s.preset l.lrtAt 32 n) l.hdmask)
    && l.lrt.zipIdx.all (fun p => l.lrt.zipIdx.all (fun q => p.2 = q.2 || !p.1.v || !q.1.v || p.1.limit ≤ q.1.base || q.1.limit ≤ p.1.base))
/-- Check 0xC: a binding preset (R41). -/
def bindPresetOk (l : Launch) (e : Nat) : Bool :=
  let b := bindOf e
  if b.v then bindOk l b.sync.toNat b.base.toNat b.limit.toNat else e = 0

/-- The first check of R43 that fails, or 0. -/
def State.launchCheck (s : State) (l : Launch) : Nat :=
  let all16 (f : Nat → Bool) : Bool := (List.range 16).all f
  let dies := (List.range 8).filter (fun d => bit l.hdmask d)
  if !(l.h 0 32 = 0x4C594831 && l.h 32 8 = 1 && l.i 0 32 = 0x4C594D31 && l.i 32 16 = 1) then 0x1
  else if !(hdrReserved l.hdr.toNat && all16 (fun n => fld (s.preset l.ringAt 16 n) 46 82 = 0)
      && all16 (fun n => fld (s.preset l.bindAt 32 n) 193 63 = 0)) then 0x2
  else if !l.widOk then 0x3
  else if !l.levelsOk then 0x4
  else if !s.barriersOk l then 0x5
  else if dies.all (fun d => (s.die d).dfail) then 0x6
  else if l.mx && dies.all (fun d => (s.die d).mxen = 0#48) then 0x7
  else if l.hcap = 0 || (l.h 288 32 != 0 && l.h 288 32 < 256) then 0x8
  else if !l.dirOk then 0x9
  else if !s.lrtOk l then 0xA
  else if !all16 (fun n => Ring.valid (s.preset l.ringAt 16 n)) then 0xB
  else if !all16 (fun n => bindPresetOk l (s.preset l.bindAt 32 n)) then 0xC
  else 0

/-! ### Fetching the head of a queue (R69, R72) -/

namespace State

/-- The slot of a queue's head entry. -/
def headSlot (s : State) (q : Nat) : Nat := (s.lqueue q).base + 256 * ((s.lqueue q).head.toNat % 2 ^ (s.lqueue q).lg)
/-- The head entry is to be read: the queue is enabled and holds an entry that has not been read, nor found stale. -/
def fetchDue (s : State) (q : Nat) : Bool :=
  let u := s.lqueue q
  u.en && u.head != u.tail && u.ready.isNone && !u.stale && !u.busy
/-- The entry read passes its stamp check (R72). A slot that names no memory holds no entry, so none passes there (R267). -/
def stampOk (s : State) (q v : Nat) : Bool :=
  s.headSlot q + 256 ≤ Config.ppaLimit && fld v 1920 32 = ((s.lqueue q).head + 1#32).toNat

/-! ### Follow records and completion records (R75, R429, R430) -/

/-- A follow record made, in place of an older one of the same pair; a full table loses its oldest done record. -/
def followRecord (s : State) (f : Follow) : State :=
  let t := s.dist.follow.filter (fun g => !(g.gin = f.gin && g.ltag = f.ltag))
  let t := if Config.followMax ≤ t.length then (match t.find? (·.done) with | some g => t.erase g | none => t) else t
  { s with dist := { s.dist with follow := t ++ [f] } }
/-- The record of a launch is done. -/
def followDone (s : State) (l : Nat) : State :=
  { s with dist := { s.dist with follow := s.dist.follow.map (fun f => if f.launch = l then { f with done := true } else f) } }
/-- A launch's completion record (R429) joins those of its queue; its PCYC is that of completion. -/
def finishLaunch (s : State) (l : Launch) (st rej : Nat) : State :=
  let w := l.h 1952 16 + st * 2 ^ 16 + rej * 2 ^ 18 + l.q * 2 ^ 22 + l.h 1920 32 * 2 ^ 32 + l.gin * 2 ^ 64 + l.ltag * 2 ^ 96
    + l.doneAt.getD s.pcyc % 2 ^ 64 * 2 ^ 128 + l.started % 2 ^ 64 * 2 ^ 192
  let vec := if l.h 1968 1 = 1 then l.h 1969 5 else 32
  let s : State := { s with dist := { s.dist with launches := s.dist.launches.filter (fun k => k.id != l.id),
                                                  gangs := s.dist.gangs.filter (fun g => g.1 != l.id) } }
  (s.modLq l.q (fun u => { u with crwait := u.crwait ++ [(l.id, vec, BitVec.ofNat 256 w)] })).now_ .completionRecordWrite { n := l.q }

/-! ### Service (R74, R75, R77) -/

/-- No entry is popped: a token waits for room in the cancel set, or the follow table is full of placed records. -/
def popStalled (s : State) : Bool :=
  !s.dist.cancelWait.isEmpty || (Config.followMax ≤ s.dist.follow.length && s.dist.follow.all (fun f => !f.done))
/-- The head entry of a queue waits for its predecessor. -/
def followMissing (s : State) (v : BitVec 2048) : Bool :=
  let l : Launch := { id := 0, q := 0, hdr := v, dir := 0#512, lrt := [] }
  l.fv && !s.dist.follow.any (fun f => f.gin = l.gin && f.ltag = l.followTag)
/-- lqstat.fwait of every queue. -/
def setFwait (s : State) : State :=
  { s with dist := { s.dist with queues := s.dist.queues.map (fun (p : Nat × LQueue) =>
      (p.1, { p.2 with fwait := match p.2.ready with | some v => s.followMissing v | none => false })) } }
/-- A queue is a candidate, with its priority (R74). -/
def candidate (s : State) (q : Nat) : Option Nat :=
  let u := s.lqueue q
  match u.ready with
  | some v => if u.en && u.head != u.tail && !u.fwait then some (fld v.toNat 46 2) else none
  | none => none
/-- The queue that is served: highest priority, then round robin after the one last served at that priority. -/
def serveNext (s : State) : Option (Nat × Nat) :=
  let top (p : Nat) : List Nat := (List.range 32).filter (fun q => s.candidate q = some p)
  match [3, 2, 1, 0].find? (fun p => !(top p).isEmpty) with
  | none => none
  | some p =>
    let qs := top p
    let after := match s.dist.last.find? (fun e => e.1 = p) with
      | some (_, n) => qs.find? (fun q => n < q)
      | none => none
    (after.orElse (fun _ => qs.head?)).map (fun q => (p, q))

/-- The level whose groups are the portions of a launch (R81). -/
def portionLevel (l : Launch) : Nat :=
  match (List.range 7).find? (fun k => l.lb k = 3) with
  | some k => k
  | none => ((List.range 7).reverse.find? (fun k => l.lb k = 1 || l.lb k = 2)).getD 0

/-- The head entry of a queue popped: cancel check, launch checks, follow record, hand-over (R74). -/
def pop (s : State) (p q : Nat) (v : BitVec 2048) : State :=
  let s : State := { s with dist := { s.dist with popNo := s.dist.popNo + 1, last := tset s.dist.last p q } }
  let s := s.modLq q (fun u => { u with head := u.head + 1#32, ready := none, rereads := 0 })
  let l : Launch := { id := s.dist.popNo, q := q, hdr := v, dir := 0#512, lrt := [] }
  let l := { l with dir := BitVec.ofNat 512 (mread s.mem l.image 64) }
  let l := { l with lrt := (List.range 64).map (fun n => lrtOf (s.preset l.lrtAt 32 n) l.hdmask) }
  let pre := s.dist.follow.find? (fun f => f.gin = l.gin && f.ltag = l.followTag)
  let rec_ : Follow := { gin := l.gin, ltag := l.ltag, done := false, launch := l.id }
  let cancelled : Bool := s.dist.cancel.contains l.gin
  let code := if cancelled then 0 else s.launchCheck l
  let s := s.followRecord rec_
  if cancelled then s.finishLaunch l 2 0
  else if code != 0 then s.finishLaunch l 1 code
  else
    let l := { l with level := portionLevel l, total := l.groupSize 6,
                      pred := if l.fv then pre.map (·.launch) else none,
                      only := if l.fv then (pre.map (·.cores)).getD [] else [] }
    State.now_ { s with dist := { s.dist with launches := s.dist.launches ++ [l] } } .portionHandout {}

end State

/-! ### The steps -/

/-- DEVICE_LAUNCH_WRITE: id, the drained entry. It waits until its issuer's earlier writes are acknowledged; a queue that no
longer takes it drops it with a report (R73, R384). A full checkpoint reserve keeps it waiting (R406). -/
def execDeviceLaunchWrite (s : State) : Out :=
  match s.dist.lentries.find? (fun e => e.id = s.arg.id) with
  | none => .next s
  | some e =>
    if e.parts.length != 4 || !s.performedOf e.core e.ctx e.task e.sn .pkg then .next s
    else
      let u := s.lqueue e.q
      let gone (s : State) : State := State.modLq { s with dist := { s.dist with lentries := s.dist.lentries.filter (fun f => f.id != e.id) } }
        e.q (fun u => { u with reserved := u.reserved - 1 })
      if !u.en || !u.dev then
        let r := s.recOf e.core e.ctx { cls := 5, cause := 0, sub := 5, slot := 6, info := e.q }
        .next (gone (s.post { r with gin := (s.launch e.launch).gin }))
      else if Config.ppaLimit ≤ s.lqSlot e.q then .fault (.noMemory (s.lqSlot e.q))
      else if s.ckStuck (s.lqSlot e.q) 256 then .next s
      else
        let v := pack 512 (fun i => (e.parts.getD i 0#512).toNat) 4 0
        .next (gone (s.lqEnter e.q v))

/-- QUEUE_HEAD_FETCH: n, the queue: the head entry is read and its stamp compared (R72). -/
def execQueueHeadFetch (s : State) : Out :=
  let q := s.arg.n
  if !s.fetchDue q then .next s
  else
    let v := mread s.mem (s.headSlot q) 256
    if s.stampOk q v then .next (s.modLq q (fun u => { u with ready := some (BitVec.ofNat 2048 v), rereads := 0 }))
    else .next ((s.modLq q (fun u => { u with busy := true, rereads := 0 })).sched_ (s.pcyc + 1200) 0 .queueHeadReread { n := q })

/-- QUEUE_HEAD_REREAD: n, the queue. The 16th re-read that fails makes the queue stale (R72). -/
def execQueueHeadReread (s : State) : Out :=
  let q := s.arg.n
  let u := s.lqueue q
  if !u.en || !u.busy then .next s
  else
    let v := mread s.mem (s.headSlot q) 256
    if s.stampOk q v then
      .next (s.modLq q (fun u => { u with busy := false, rereads := 0, ready := some (BitVec.ofNat 2048 v) }))
    else if 15 ≤ u.rereads then
      let s := s.post { cls := 5, cause := 0, sub := 1, info := q, d0 := u.head.toNat }
      let s : State := { s with dist := { s.dist with irqs := s.dist.irqs ++ [32] } }
      .next (s.modLq q (fun u => { u with busy := false, rereads := 0, stale := true }))
    else .next ((s.modLq q (fun u => { u with rereads := u.rereads + 1 })).sched_ (s.pcyc + 1200) 0 .queueHeadReread { n := q })

/-- LAUNCH_QUEUE_SERVICE (R74 to R79). -/
def execLaunchQueueService (s : State) : Out :=
  let s := s.setFwait
  if s.popStalled then .next s
  else match s.serveNext with
    | none => .next s
    | some (p, q) => match (s.lqueue q).ready with
      | none => .next s
      | some v => .next (s.pop p q v)

/-- COMPLETION_RECORD_WRITE: n, the queue: its oldest record, once the ring has room; with no ring there is no record and no
interrupt (R429, R430). -/
def execCompletionRecordWrite (s : State) : Out :=
  let q := s.arg.n
  let u := s.lqueue q
  match u.crwait with
  | [] => .next s
  | (l, vec, w) :: rest =>
    if u.cren && 2 ^ u.crlg ≤ (u.crtail - u.crhead).toNat then .next s
    else
      let s := s.modLq q (fun u => { u with crwait := rest })
      let s := if u.cren then
          let s := s.rawWrite (hostBase + (u.crbase + 32 * (u.crtail.toNat % 2 ^ u.crlg)) % 2 ^ 64) 32 w.toNat
          let s := s.modLq q (fun u => { u with crtail := u.crtail + 1#32 })
          if vec < 32 then { s with dist := { s.dist with irqs := s.dist.irqs ++ [vec] } } else s
        else s
      let s := s.followDone l
      .next (if rest.isEmpty then s else s.now_ .completionRecordWrite { n := q })

end Sys2Proof.Machine
end

