-- ==== Sys2Proof/Machine/Placing.lean ====
section
/-! DEFINITION. Portions, placement, task start and task end, launch completion, power grants, the permit audit and removal of
fault records (R37, R42, R81 to R92, R95 to R97, R103, R131, R386, R388, R412, R425 to R428, R433). -/

namespace Sys2Proof.Machine

/-! ### WIDs (R34) -/

/-- The WID of the n-th task of a launch in increasing order, from field k on. -/
def Launch.widFrom (l : Launch) : Nat → Nat → Nat → Nat
  | 0, _, _ => 0
  | m + 1, k, n => if l.nf ≤ k then 0 else n % (l.ub k + 1) * 2 ^ l.widPos k + l.widFrom m (k + 1) (n / (l.ub k + 1))
/-- The WID of the n-th task of a launch. -/
def Launch.widAt (l : Launch) (n : Nat) : Nat := l.widFrom 6 0 n

/-! ### Places: halves of cores, numbered 2 × core + half (R85, R86) -/

/-- The halves of an instance of a domain: code and number. An instance of CORE is numbered as a place. -/
def halvesOf (split : Bool) (code n : Nat) : List Nat :=
  match code with
  | 1 => if split then [n] else [n / 2 * 2, n / 2 * 2 + 1]
  | 2 => (List.range 8).map (8 * n + ·)
  | 3 => (List.range 96).map (96 * n + ·)
  | _ => List.range 768
/-- The instances of a domain inside an instance, lowest first. -/
def instancesIn (split : Bool) (code : Nat) (at_ : Nat × Nat) : List Nat :=
  match code with
  | 1 => (halvesOf split at_.1 at_.2).filter (fun u => split || u % 2 = 0)
  | 2 => if at_.1 = 2 then [at_.2] else (List.range 12).map (12 * at_.2 + ·)
  | _ => [at_.2]

namespace State

/-- Free contexts of a half: no task holds them and none is placed in them. -/
def freeIn (s : State) (u : Nat) : List Nat :=
  ((List.range 4).map (4 * (u % 2) + ·)).filter (fun x =>
    (s.ctx (u / 2) x).status = .free && !(s.core (u / 2)).starts.any (fun p => p.1 = x))
/-- Free contexts of a list of halves. -/
def freeSum (s : State) (us : List Nat) : Nat := (us.map (fun u => (s.freeIn u).length)).foldl (· + ·) 0
/-- Launches with a task in a context of a core, or placed in one. -/
def holders (s : State) (c : Nat) : List Nat :=
  ((s.core c).ctxs.filter (fun p => p.2.status != .free)).map (·.2.launch) ++ (s.core c).starts.map (·.2.1)
/-- A half is one of those that a follower may use; a follower in checked mode uses a core whole where its predecessor used
either half (R89; DEDUCED, log 80). -/
def allowed (l : Launch) (u : Nat) : Bool :=
  l.only.isEmpty || (if l.split then l.only.contains u else l.only.any (fun p => p / 2 = u / 2))
/-- A half is eligible for a launch (R85, R89). -/
def eligible (s : State) (l : Launch) (u : Nat) : Bool :=
  let c := u / 2
  let others := (s.holders c).filter (· != l.id)
  s.couldHost l c && !(s.die (coreDie c)).dfail && allowed l u
    && (!l.mx || others.all (fun n => !(s.launch n).mx)) && others.all (fun n => (s.launch n).split == l.split)

/-! ### Portions (R81 to R84, R89) -/

/-- A die that portions of a launch may go to (R82, R89). -/
def candidateDie (s : State) (l : Launch) (d : Nat) : Bool :=
  bit l.hdmask d && !(s.die d).dfail && (l.only.isEmpty || l.only.any (fun p => coreDie (p / 2) = d))
/-- The group of the highest level bound to DIE above the portions that the n-th task belongs to (R36). -/
def dieGroup (l : Launch) (n : Nat) : Option Nat :=
  ((List.range 7).reverse.find? (fun k => l.level < k && l.lb k = 3)).map (fun k => l.groupOf k (l.widAt n))
/-- The die that the portion of a launch that begins with its n-th task goes to (R82). Portions of one group of a level bound
to DIE stay on one die (R36; DEDUCED, log 80). -/
def nextDie (s : State) (l : Launch) (n : Nat) : Option Nat :=
  let c := (List.range 8).filter (s.candidateDie l)
  let stay := match dieGroup l n with
    | some g => (l.groupDie.find? (fun (p : Nat × Nat) => p.1 = g)).bind (fun p => if c.contains p.2 then some p.2 else none)
    | none => none
  stay.orElse fun _ => (match l.lastDie with | some d => c.find? (fun e => d < e) | none => none).orElse (fun _ => c.head?)
/-- The die of the portion that begins with the n-th task is chosen: later portions follow it, those of its group stay with it
(R36, R82). -/
def noteDie (s : State) (id n d : Nat) : State :=
  s.modLaunch id (fun l => { l with lastDie := some d, groupDie := match dieGroup l n with | some g => tset l.groupDie g d | none => l.groupDie })
/-- No task of the predecessor has started yet, and one still may (R89; DEDUCED: the set of cores is not known before). -/
def followWaits (s : State) (l : Launch) : Bool :=
  l.only.isEmpty && (match l.pred with
    | some p => (match s.launch? p with | some q => q.started = 0 && !q.cancelled | none => false)
    | none => false)
/-- No core of the predecessor can ever take the follower, and none of its tasks is placed (R89). -/
def followStuck (s : State) (l : Launch) : Bool :=
  !l.only.isEmpty && l.started = 0 && !l.cancelled && l.only.all (fun u => !s.couldHost l (u / 2))
    && s.cores.all (fun k => k.2.starts.all (fun p => p.2.1 != l.id))
/-- Portions of a launch that have not been handed out. -/
def moreOf (s : State) (l : Launch) : Bool :=
  !l.cancelled && (l.given + 1) * l.groupSize l.level ≤ l.total && !s.dist.waiting.any (fun p => p.launch = l.id) && !s.followWaits l
/-- The distributor has something to hand out. -/
def handoutDue (s : State) : Bool := !s.dist.waiting.isEmpty || s.dist.launches.any (fun l => s.moreOf l || s.followStuck l)

/-- Portion p goes before q: priority, then pop order, then WID (R83). -/
def Portion.before (s : State) (p q : Portion) : Bool :=
  let (a, b) := ((s.launch p.launch).pri, (s.launch q.launch).pri)
  b < a || (a = b && (p.launch < q.launch || (p.launch = q.launch && p.first < q.first)))

/-- The portion of each launch that waits in the distributor, with its die; the choice is revised only where that die has
failed (R83, R84). Portions with no candidate die left wait for ever (DESIGN CHOICE, log 81). -/
def cutPortions (s : State) : State :=
  let live (p : Portion) : Bool := match s.launch? p.launch with | some l => !l.cancelled | none => false
  let again : State × List Portion → Portion → State × List Portion := fun (s, ps) p =>
    if (s.die p.die).dfail then
      match s.nextDie (s.launch p.launch) p.first with
      | some d => (s.noteDie p.launch p.first d, ps ++ [{ p with die := d }])
      | none => (s, ps ++ [p])
    else (s, ps ++ [p])
  let (s, ps) := (s.dist.waiting.filter live).foldl again (s, [])
  let s : State := { s with dist := { s.dist with waiting := ps } }
  s.dist.launches.foldl (fun (s : State) l =>
    if !s.moreOf l then s
    else match s.nextDie l (l.given * l.groupSize l.level) with
      | none => s
      | some d =>
        let n := l.groupSize l.level
        let s : State := { s with dist := { s.dist with waiting := s.dist.waiting ++ [{ launch := l.id, first := l.given * n, count := n, die := d }] } }
        (s.noteDie l.id (l.given * n) d).modLaunch l.id (fun l => { l with given := l.given + 1 })) s

end State

/-! ### Binding groups (R86, R87) -/

/-- A gang reservation (R87): launch, level, group, the halves of its instance, contexts left. -/
structure Reservation where
  launch : Nat
  level  : Nat
  group  : Nat
  units  : List Nat
  left   : Nat
  deriving DecidableEq, Repr

/-- The group of one reservation is part of the group of another of its launch. -/
def Reservation.inside (l : Launch) (r q : Reservation) : Bool :=
  r.launch = q.launch && r.level < q.level && l.groupOf q.level (r.group * 2 ^ l.widPos r.level) = q.group

namespace State

/-- The gang reservations that a die's placer heeds: those of its portions and those above portions. -/
def reservations (s : State) (ps : List Portion) : List Reservation :=
  ps.flatMap (fun p =>
    let l := s.launch p.launch
    p.gang.map (fun g => { launch := p.launch, level := g.1, group := g.2.1, units := halvesOf l.split (l.lb g.1) g.2.2.1, left := g.2.2.2 }))
  ++ (s.dist.gangs.filter (fun g => (s.launch? g.1).any (fun l => !l.cancelled))).map (fun g =>
    { launch := g.1, level := g.2.1, group := g.2.2.1, units := halvesOf (s.launch g.1).split g.2.2.2.1 g.2.2.2.2.1, left := g.2.2.2.2.2 })
/-- Halves of a reservation that its launch may use. -/
def usable (s : State) (r : Reservation) : List Nat := r.units.filter (s.eligible (s.launch r.launch))
/-- Free contexts of a pool of halves inside an instance, less what the reservations inside that instance need of the pool; one
that is part of another counts with it. -/
def unreserved (s : State) (rs : List Reservation) (units pool : List Nat) : Nat :=
  let within := rs.filter (fun r => r.units.all units.contains)
  let outer := within.filter (fun r => !within.any (fun q => Reservation.inside (s.launch r.launch) r q))
  outer.foldl (fun a r => a - (r.left - s.freeSum ((s.usable r).filter (fun u => !pool.contains u)))) (s.freeSum pool)
/-- Free contexts that a task may use in an instance: those of eligible cores that the reservations of other groups, in the instance
or around it, leave (R86, R87). That only these rank instances is the model's choice (DESIGN CHOICE, log 93). -/
def avail (s : State) (l : Launch) (wid : Nat) (ps : List Portion) (us : List Nat) : Nat :=
  let rs := (s.reservations ps).filter (fun r => r.left != 0 && !(r.launch = l.id && r.group = l.groupOf r.level wid))
  let mine := us.filter (s.eligible l)
  (rs.filter (fun r => us.all r.units.contains)).foldl (fun a r =>
    let pool := s.usable r
    min a (s.freeSum (mine.filter (fun u => !pool.contains u)) + s.unreserved rs r.units pool)) (s.unreserved rs us mine)
/-- The instance with the most free contexts, at least n; a tie goes to the lowest number (R86). -/
def mostFree (av : Nat → Nat) (n : Nat) (is : List Nat) : Option Nat :=
  (is.foldl (fun (b : Option (Nat × Nat)) i =>
    let a := av i
    if a < n then b else match b with
      | some (m, _) => if m < a then some (a, i) else b
      | none => some (a, i)) none).map (·.2)

end State

/-- What the placer finds for a task (R86, R87). -/
inductive Placement where
  | wait
  | never
  | at (unit : Nat) (po : Portion)
  deriving DecidableEq, Repr

namespace State

/-- Contexts that an instance can ever offer a launch. -/
def everIn (s : State) (l : Launch) (us : List Nat) : Nat :=
  4 * (us.filter (fun u => s.couldHost l (u / 2) && !(s.die (coreDie (u / 2))).dfail && allowed l u)).length

/-- Gang levels of a launch above its portions (R37, R87): bound to PKG, bound to DIE above the portions' level, or unbound. -/
def upperGangs (l : Launch) : List Nat :=
  (List.range 7).reverse.filter (fun k => bit l.barlv k && (l.lb k = 0 || l.lb k = 4 || l.level < k))
/-- A task's groups above the portions have their reservations, made now where one has none yet; or the task waits (false), or
its group can never be placed (true), as where a containment or a retirement has left its instance too small (R87). d is the die
of its portion, ps the portions of every die. -/
def holdUpper (s : State) (l : Launch) (wid d : Nat) (ps : List Portion) : List Nat → Except Bool State
  | [] => .ok s
  | k :: ks =>
    let g := l.groupOf k wid
    let (code, i) := if l.lb k = 3 then (3, d) else (4, 0)
    let us := halvesOf l.split code i
    let n := l.groupSize k
    if s.dist.gangs.any (fun r => r.1 = l.id && r.2.1 = k && r.2.2.1 = g) then
      if s.everIn l us < n then .error true else s.holdUpper l wid d ps ks
    else
      if s.avail l wid ps us < n then .error (s.everIn l us < n)
      else State.holdUpper { s with dist := { s.dist with gangs := s.dist.gangs ++ [(l.id, k, g, code, i, n)] } } l wid d ps ks
/-- A task of a launch has its context: the reservations of its groups above the portions shrink. -/
def takeUpper (s : State) (l : Launch) (wid : Nat) : State :=
  { s with dist := { s.dist with gangs := s.dist.gangs.map (fun r =>
      if r.1 = l.id && r.2.2.1 = l.groupOf r.2.1 wid then (r.1, r.2.1, r.2.2.1, r.2.2.2.1, r.2.2.2.2.1, r.2.2.2.2.2 - 1) else r) } }

/-- The levels of a task, from the highest bound one down: its group's instance, or a new one; then the core (R86). A group
can never be placed where no instance inside the one fixed above it is large enough, or its own has become too small (R87;
DEDUCED, log 82). -/
def fixLevels (s : State) (l : Launch) (wid : Nat) (others : List Portion) : List Nat → Nat × Nat → Portion → Placement
  | [], at_, po =>
    let av (i : Nat) : Nat := s.avail l wid (others ++ [po]) (halvesOf l.split 1 i)
    match mostFree av 1 (instancesIn l.split 1 at_) with
    | some u => .at u { po with next := po.next + 1, gang := po.gang.map (fun g =>
        if g.2.1 = l.groupOf g.1 wid then (g.1, g.2.1, g.2.2.1, g.2.2.2 - 1) else g) }
    | none => .wait
  | k :: rest, at_, po =>
    let code := l.lb k
    if code = 0 || 3 < code || l.level < k then s.fixLevels l wid others rest at_ po
    else
      let grp := l.groupOf k wid
      match po.fixed.find? (fun f => f.1 = k && f.2.1 = grp) with
      | some f =>
        if bit l.barlv k && s.everIn l (halvesOf l.split code f.2.2) < l.groupSize k then .never
        else s.fixLevels l wid others rest (code, f.2.2) po
      | none =>
        let is := instancesIn l.split code at_
        let gang : Bool := bit l.barlv k
        let n := if gang then l.groupSize k else 1
        match mostFree (fun i => s.avail l wid (others ++ [po]) (halvesOf l.split code i)) n is with
        | some i => s.fixLevels l wid others rest (code, i)
            { po with fixed := po.fixed ++ [(k, grp, i)], gang := if gang then po.gang ++ [(k, grp, i, n)] else po.gang }
        | none => if gang && is.all (fun i => s.everIn l (halvesOf l.split code i) < n) then .never else .wait

/-- A change of a request: grants are computed again within 64 clocks (R97). -/
def regrant (s : State) (d : Nat) : State :=
  let (n, s) := s.choose 64
  s.sched_ (s.pcyc + 1 + n) 0 .grantRecompute { n := d }

/-- A task bound to a context of a core, to be started (R86). A core without tasks takes the launch's mode (R85). -/
def bindTask (s : State) (l : Launch) (u wid : Nat) : State :=
  let c := u / 2
  let s := if (s.holders c).isEmpty && (s.core c).split != l.split then
      s.modCore c (fun k => { k with split := l.split, prim0 := 0, prim1 := 4 }) else s
  let free := if l.split then s.freeIn u else s.freeIn (2 * c) ++ s.freeIn (2 * c + 1)
  match free with
  | [] => s
  | x :: _ => (s.modCore c (fun k => { k with starts := k.starts ++ [(x, l.id, BitVec.ofNat 64 wid)] })).regrant (coreDie c)

/-- Portions that a placer may still serve, best first (R88). -/
def firstPortion (s : State) (d : Nat) : Option Portion :=
  (s.die d).pending.foldl (fun (b : Option Portion) p => match b with
    | some q => if (s.launch q.launch).pri < (s.launch p.launch).pri then some p else b
    | none => some p) none
/-- A portion of a die changed, or taken off its list. -/
def setPortion (s : State) (d : Nat) (p : Portion) (q : Option Portion) : State :=
  s.modDie d (fun k => { k with pending := k.pending.filterMap (fun r =>
    if r.launch = p.launch && r.first = p.first then q else some r) })
/-- Portions of cancelled launches go; those of a failed die go back to the distributor (R78, R84). -/
def purgePending (s : State) (d : Nat) : State :=
  let live (p : Portion) : Bool := match s.launch? p.launch with | some l => !l.cancelled | none => false
  let ps := (s.die d).pending.filter live
  if (s.die d).dfail then
    -- groups already bound stay where they are, and the rest of the portion starts anew elsewhere
    let back := ps.map (fun (p : Portion) => { p with first := p.first + p.next, count := p.count - p.next, next := 0, fixed := [], gang := [] })
    State.modDie { s with dist := { s.dist with waiting := s.dist.waiting ++ back } } d (fun k => { k with pending := [] })
  else s.modDie d (fun k => { k with pending := ps })

/-! ### A launch's first task on a core (R103, R131, R263, R386) -/

/-- The lowest run of n free entries of a dictionary store of 8,192 (R103; DESIGN CHOICE among several runs, log 83). -/
def freeRun (rs : List Region) (n : Nat) : Option Nat :=
  let starts := 0 :: rs.map (fun r => r.first + r.count)
  (starts.filter (fun a => a + n ≤ 8192 && rs.all (fun r => a + n ≤ r.first || r.first + r.count ≤ a))).foldl
    (fun b a => match b with | some m => some (min m a) | none => some a) none
/-- The stage of a launch's setup on a core. -/
def setStage (s : State) (c l stage t : Nat) : State :=
  s.modCore c (fun k => { k with setup := k.setup.filter (fun p => p.1 != l) ++ [(l, stage, t)] })
/-- The setup of a launch on a core is complete. -/
def prepared (s : State) (c l : Nat) : Bool := (s.core c).preDone.contains l

/-- The region of a launch: shared with a launch of the same image, or allocated and copied at 64 B per clock; with it the
core loads the launch's locked range table (R30, R103, R268). -/
def takeRegion (s : State) (c : Nat) (l : Launch) : State :=
  let k := s.core c
  let table := (List.range 64).map (fun n => lrtOf (s.preset l.lrtAt 32 n) l.hdmask)
  match k.regions.find? (fun r => r.image = l.image) with
  | some r =>
    let till := (k.setup.filter (fun p => r.users.contains p.1 && p.2.1 = 0)).foldl (fun m p => max m p.2.2) s.pcyc
    (s.modCore c (fun k => { k with regions := k.regions.map (fun q => if q.first = r.first then { q with users := q.users ++ [l.id] } else q),
                                    lrts := tset k.lrts l.id table }))
      |>.setStage c l.id 0 till
  | none => match freeRun k.regions l.ndict with
    | none => s
    | some a =>
      let copy (t : Tab Bundle) : Tab Bundle := (List.range l.ndict).foldl (fun t i =>
        tset t (a + i) (BitVec.ofNat 384 (mread s.mem (l.dictAt + 48 * i) 48))) t
      (s.modCore c (fun k => { k with regions := k.regions ++ [{ image := l.image, first := a, count := l.ndict, users := [l.id] }],
                                      dict := copy k.dict, dictErr := k.dictErr.filter (fun e => !(a ≤ e.1 && e.1 < a + l.ndict)),
                                      lrts := tset k.lrts l.id table }))
        |>.setStage c l.id 0 (s.pcyc + (48 * l.ndict + 63) / 64)

/-- The banks that a launch asks for and that are free become its own at once (R386). Gated banks wake. -/
def takeBanks (s : State) (c : Nat) (l : Launch) : State :=
  let now := s.now c
  s.modSp c (fun sp => (List.range 32).foldl (fun sp b =>
    if bit l.bank b && tget sp.owner b 0 = 0 then Spad.wakeGated { sp with owner := tset sp.owner b l.id } now b else sp) sp)
/-- Every bank that a launch asks for is its own, or its predecessor's (R386). -/
def banksSettled (s : State) (c : Nat) (l : Launch) : Bool :=
  let pred (n : Nat) : Bool := l.fv && (match s.launch? n with | some p => p.gin = l.gin && p.ltag = l.followTag | none => false)
  (List.range 32).all (fun b => !bit l.bank b || (let n := tget (s.core c).sp.owner b 0; n = l.id || pred n))

/-- The setup of a launch on a core goes on; until it has its banks, it takes those that become free. -/
def setupStep (s : State) (c : Nat) (l : Launch) : State :=
  match (s.core c).setup.find? (fun p => p.1 = l.id) with
  | none => (s.takeBanks c l).takeRegion c l
  | some (_, 0, t) =>
    let s := s.takeBanks c l
    if s.pcyc < t || !s.banksSettled c l then s
    else
      let now := s.now c
      (s.modSp c (fun sp => (List.range 32).foldl (fun sp b => if bit l.bank b then sp.wakeGated now b else sp) sp)).setStage c l.id 1 s.pcyc
  | some (_, 1, _) =>
    let sp := (s.core c).sp
    let awake (b : Nat) : Bool := match sp.powerOf b with | .gated | .waking _ true => false | _ => true
    if (List.range 32).all (fun b => !bit l.bank b || awake b) then (s.setStage c l.id 2 s.pcyc).now_ .preloadWrite { core := c, id := l.id }
    else s
  | _ => s

/-- Entries of the preload list: number, scratchpad address, length, image offset, and whether the layout holds (R131). A part of the
list at or above 2^40, where no memory lies, reads as zeros: no entries, or empty ones, whose layout does not hold (DESIGN
CHOICE, log 109). -/
def preloads (s : State) (l : Launch) : List (Nat × Nat × Nat × Nat × Bool) :=
  (List.range (min 64 (mread s.mem l.preAt 8))).map (fun i =>
    let e := mread s.mem (l.preAt + 8 + 16 * i) 16
    let (sp, len, off) := (fld e 0 64, fld e 64 32, fld e 96 32)
    (i, sp, len, off, sp % 64 = 0 && len != 0 && len % 64 = 0 && sp + len ≤ 2 ^ 22 && off % 64 = 0))

/-! ### Starting tasks (R37, R42, R86) -/

/-- A placed task's core is prepared, and so is every core of its gang group, which is complete (R37). all: the core and WID of
each placed task of the launch. -/
def groupReady (s : State) (l : Launch) (all : List (Nat × Nat)) (q : Nat × Nat) : Bool :=
  s.prepared q.1 l.id && (match (List.range 7).reverse.find? (fun k => bit l.barlv k) with
    | some k =>
      let grp := all.filter (fun r => l.groupOf k r.2 = l.groupOf k q.2)
      grp.length = l.groupSize k && grp.all (fun r => s.prepared r.1 l.id)
    | none => true)
/-- A placed task may start: it is ready, and so is every task of lower WID of its portion that has not started (R37, R86). -/
def startReady (s : State) (c : Nat) (p : Nat × Nat × Dword) : Bool :=
  let l := s.launch p.2.1
  let wid := p.2.2.toNat
  let all := s.cores.flatMap (fun k => (k.2.starts.filter (fun q => q.2.1 = l.id)).map (fun q => (k.1, q.2.2.toNat)))
  s.groupReady l all (c, wid)
    && all.all (fun q => wid ≤ q.2 || l.groupOf l.level q.2 != l.groupOf l.level wid || s.groupReady l all q)

/-- The registers of a task at its first bundle (R42, R59). Its presets are read from the image as it starts (DESIGN CHOICE, log
86). -/
def startRegs (s : State) (l : Launch) (wid : Dword) : Regs :=
  let seed : Word32 := wid.setWidth 32 ^^^ (wid >>> 32).setWidth 32 ^^^ 0x9E3779B9#32
  { s := ((Vector.replicate 64 0#64).set 1 (BitVec.ofNat 64 l.arg)).set 2 wid,
    h := Vector.ofFn (fun (n : Fin 16) => s.ringPreset l n.val), b := Vector.ofFn (fun (n : Fin 16) => s.bindPreset l n.val),
    pc := l.entry, ilk := l.ilk, srseed := seed, gens := genAll seed }

/-- The place codes of a context of a launch. -/
def placeCodes (l : Launch) (c x : Nat) : List Nat := if l.split then [2 * c + x / 4] else [2 * c, 2 * c + 1]
/-- A launch's tasks run on a core (R427). -/
def noteRan (s : State) (id c : Nat) : State :=
  s.modLaunch id (fun l => { l with ran := if l.ran.contains c then l.ran else l.ran ++ [c] })
/-- A task of a launch has started on a core: the launch, its follow record and its followers learn the place (R89). -/
def notePlace (s : State) (id : Nat) (new : List Nat) : State :=
  let add (l : List Nat) : List Nat := l ++ new.filter (fun u => !l.contains u)
  let s := s.noteRan id (new.headD 0 / 2)
  { s with dist := { s.dist with
      launches := s.dist.launches.map (fun (l : Launch) =>
        if l.id = id then { l with cores := add l.cores } else if l.pred = some id then { l with only := add l.only } else l),
      follow := s.dist.follow.map (fun (f : Follow) => if f.launch = id then { f with cores := add f.cores } else f) } }

/-! ### Ending tasks (R412, R426) -/

/-- A record of classes 1 to 4 concerns a context: a correction, a group that cannot be placed, a containment and an audit do
not (R410). -/
def ofContext (v : Nat) : Bool :=
  !(fld v 8 8 = 0x1A || fld v 8 8 = 0x15 || (fld v 0 3 = 4 && fld v 8 8 = 0 && (fld v 16 8 = 2 || fld v 16 8 = 3)))
/-- A record that waits for room in the fault queue names the context (R412). -/
def recordHeld (s : State) (c x : Nat) : Bool :=
  s.fq.heldRecs.any (fun w =>
    let v := w.toNat
    ofContext v && fld v 64 4 = coreDie c && fld v 68 4 = coreClus c && fld v 72 2 = coreK c && fld v 75 3 = x)
/-- Banks that a launch which leaves a core named, that no launch owns and no launch left there names, are gated (R263, R388). -/
def gateBanks (s : State) (c l : Nat) : State :=
  let named (b : Nat) : Bool := (s.residents c).any (fun n => bit (s.launch n).bank b)
  s.modSp c (fun sp => (List.range 32).foldl (fun sp b =>
    if bit (s.launch l).bank b && tget sp.owner b 0 = 0 && !named b then { sp with power := tset sp.power b .gated } else sp) sp)
/-- A launch has no task left on a core: its banks, region and setup there are given up, and banks that no launch there names are
gated (R103, R263, R388). -/
def leaveCore (s : State) (c l : Nat) : State :=
  if (s.residents c).contains l then s
  else
    let own := (List.range 32).filter (fun b => tget (s.core c).sp.owner b 0 = l)
    let here : Bool := (s.core c).lrts.any (fun p => p.1 = l) || (s.core c).setup.any (fun p => p.1 = l)
    let s := own.foldl (fun s b => s.passBank c l b) s
    let s := if here then s.gateBanks c l else s
    s.modCore c (fun k =>
      let rs := k.regions.map (fun (r : Region) => { r with users := r.users.erase l })
      { k with regions := rs.filter (fun r => !r.users.isEmpty), preDone := k.preDone.filter (· != l), lrts := tdel k.lrts l,
               setup := k.setup.filter (fun p => p.1 != l) })
/-- A context is free (R409, R426). -/
def freeCtx (s : State) (c x : Nat) : State :=
  let l := (s.ctx c x).launch
  let s := s.dropReplies c x
  let s := s.modCore c (fun k => (k.modEng (if k.split then x / 4 else 0) (fun e =>
    { e.abandon x true with opens := e.opens.filter (fun o => o.ctx != x) })))
  let s := s.modCore c (fun k => { k with ctxs := tdel k.ctxs x, pubs := k.pubs.filter (fun p => p.2.1 != x),
                                          sp := { k.sp with heldBy := tdel k.sp.heldBy x },
                                          lockBad := k.lockBad.filter (· != x), resBad := k.resBad.filter (fun p => p.1 != x) })
  (s.leaveCore c l).regrant (coreDie c)
/-- A context whose end has come: its covered entries are released, or its last entry has drained (R409, R426). -/
def endDue (s : State) (c x : Nat) : Bool :=
  let k := s.ctx c x
  let empty := !(s.core c).cb.any (fun e => e.ctx = x)
  match k.why with
  | .ended => k.quench.isNone && k.comps.isEmpty
  | .done => empty
  | .trapped => empty && !s.recordHeld c x
  | _ => false

/-! ### Launch completion (R427, R428) -/

/-- Some context holds a task of the launch, or one is placed or saved. -/
def holdsTask (s : State) (l : Nat) : Bool :=
  s.cores.any (fun k => k.2.ctxs.any (fun p => p.2.status != .free && p.2.launch = l) || k.2.starts.any (fun p => p.2.1 = l))
    || s.saves.any (fun v => v.launch = l)
/-- The first condition of R427. -/
def allEnded (s : State) (l : Launch) : Bool := l.ended = l.total || (l.cancelled && !s.holdsTask l.id)
/-- Everything the launch's tasks left in flight has settled (R427). -/
def settled (s : State) (l : Nat) : Bool :=
  !s.holdsTask l && (s.launch l).cmds = 0
    && !s.reqs.any (fun r => r.launch = l && owed r != 0) && !s.msgs.any (fun m => m.launch = l)
    && !s.copies.any (fun r => r.cmd.launch = l) && !s.fab.sends.any (fun r => r.launch = l)
    && !s.coll.waits.any (fun w => w.launch = l && w.coll) && !s.coll.insts.any (fun i => i.launch = l)
    && !s.rels.any (fun r => r.launch = l) && !s.dist.lentries.any (fun e => e.launch = l)
/-- Lines of the launch's ranges that are on their way home, whichever launch they are charged to (R427). -/
def closingOut (s : State) (l : Launch) : Bool :=
  s.reqs.any (fun r => (match r.want with | .wback _ _ => true | _ => false)
    && l.lrt.any (fun e => e.v && e.coh != 0 && e.asid = r.g.ent.asid && e.base ≤ r.g.va && r.g.va < e.limit))
/-- A launch's status can be fixed, or its completion can go on. -/
def completeDue (s : State) (l : Launch) : Bool :=
  match l.status with
  | none => s.allEnded l
  | some _ => s.settled l.id && !(l.closing && s.closingOut l)

/-- The pins that a launch has left in a slice are removed (R318, R427). -/
def dropPins (s : State) (k l : Nat) : State :=
  (s.clu k).l2.foldl (fun (s : State) m => (m.pinBy.filter (· = l)).foldl (fun (s : State) _ => s.unpinLine k m.asid m.va l) s) s
/-! ### Grants (R97, R433) -/

/-- The budget the governor uses. -/
def budget (s : State) (d : Nat) : Nat := (s.die d).bud / 2 ^ (s.die d).thr
/-- Grants of a die computed from its requests; they take effect at the next window (R97). -/
def computeGrants (s : State) (d : Nat) : State :=
  let cs := (s.cores.map (·.1)).filter (fun c => coreDie c = d)
  let reqs := cs.flatMap (fun c => (c, 0, s.request c 0) :: (if (s.core c).split then [(c, 1, s.request c 1)] else []))
  let q := (reqs.map (fun r => r.2.2)).foldl (· + ·) 0
  let b := s.budget d
  reqs.foldl (fun (s : State) r =>
    let g := if q ≤ b then r.2.2 else if r.2.2 = 0 then 0 else max 1 (b * r.2.2 / q)
    s.modCore r.1 (fun k => k.modPow r.2.1 (fun p => { p with next := some g }))) s

end State

/-! ### The steps -/

/-- PORTION_HANDOUT: one portion sets out for the placer of its die, while that has room (R81 to R84, R89). With flag: n, the
launch, and m, the portion's first task: the portion arrives after a time that the device does not promise (R452). A portion
whose die's list is full does not hold back those for other dies (DESIGN CHOICE, log 81). -/
def execPortionHandout (s : State) : Out :=
  if s.arg.flag then
    match s.dist.handing.find? (fun p => p.launch = s.arg.n && p.first = s.arg.m) with
    | none => .next s
    | some p => .next (State.modDie { s with dist := { s.dist with handing := s.dist.handing.erase p } } p.die
        (fun k => { k with pending := k.pending ++ [p] }))
  else
  match s.dist.launches.find? (fun l => s.followStuck l) with
  | some l =>
    let s : State := { s with dist := { s.dist with waiting := s.dist.waiting.filter (fun p => p.launch != l.id),
                                                    handing := s.dist.handing.filter (fun p => p.launch != l.id) },
                              dies := s.dies.map (fun (d : Nat × Die) => (d.1, { d.2 with pending := d.2.pending.filter (fun p => p.launch != l.id) })) }
    .next (s.finishLaunch l 1 6)
  | none =>
    let s := s.cutPortions
    let coming (d : Nat) : Nat := (s.dist.handing.filter (fun p => p.die = d)).length
    let room (p : Portion) : Bool := (s.die p.die).pending.length + coming p.die < Config.pendingPortions && !(s.die p.die).dfail
    match (s.dist.waiting.filter room).foldl (fun (b : Option Portion) p => match b with
        | some q => if State.Portion.before s p q then some p else b
        | none => some p) none with
    | none => .next s
    | some p =>
      let s : State := { s with dist := { s.dist with waiting := s.dist.waiting.erase p, handing := s.dist.handing ++ [p] } }
      .next (s.after 0 (4 * (100 + p.die)) .portionHandout { n := p.launch, m := p.first, flag := true })

/-- PLACE_TASK: n, the die: the next task of its first portion is bound to a context (R85 to R88). Or, with flag: core, and id,
a launch whose first task there waits: its dictionary, banks and preload (R103, R386). -/
def execPlaceTask (s : State) : Out :=
  if s.arg.flag then .next (s.setupStep s.arg.core (s.launch s.arg.id))
  else
    let d := s.arg.n
    let s := s.purgePending d
    match s.firstPortion d with
    | none => .next s
    | some p =>
      let l := s.launch p.launch
      let wid := l.widAt (p.first + p.next)
      let others := (s.die d).pending.filter (fun q => !(q.launch = p.launch && q.first = p.first))
      let never (s : State) : State :=
        ((s.post { cls := 2, cause := 0x15, die := d, gin := l.gin }).cancelGin d l.gin).setPortion d p none
      match s.holdUpper l wid d (s.dies.flatMap (fun q => q.2.pending)) (State.upperGangs l) with
      | .error true => .next (never s)
      | .error false => .next s
      | .ok s => match s.fixLevels l wid others [6, 5, 4, 3, 2, 1, 0] (3, d) p with
        | .wait => .next s
        | .never => .next (never s)
        | .at u q => .next (((s.setPortion d p (if q.next < q.count then some q else none)).bindTask l u wid).takeUpper l wid)

/-- PRELOAD_WRITE: core; id, the launch: its preload list is written once every bank it writes is the launch's (R131). -/
def execPreloadWrite (s : State) : Out :=
  let c := s.arg.core
  let l := s.launch s.arg.id
  match (s.core c).setup.find? (fun p => p.1 = l.id) with
  | some (_, 2, _) =>
    let es := s.preloads l
    let good := es.filter (fun e => e.2.2.2.2)
    let chunks := good.flatMap (fun e => ((List.range (e.2.2.1 / 64)).map (fun i => (e.2.1 + 64 * i, l.image + e.2.2.2.1 + 64 * i))).filter
      (fun a => bit l.bank (bankOf a.1)))
    if chunks.any (fun a => tget (s.core c).sp.owner (bankOf a.1) 0 != l.id) then .next s
    else match chunks.find? (fun a => Config.ppaLimit < a.2 + 64) with
      | some a => .fault (.noMemory a.2)
      | none =>
        let s := (es.filter (fun e => !e.2.2.2.2)).foldl (fun (s : State) e =>
          s.post { cls := 5, cause := 0, sub := 4, die := coreDie c, clus := coreClus c, core := coreK c, gin := l.gin, info := e.1,
                   d0 := l.ltag }) s
        let ws := chunks.map (fun a => ({ id := 0, clk := s.pcyc, addr := a.1, data := BitVec.ofNat 512 (mread s.mem a.2 64),
                                          be := BitVec.allOnes 64, src := .preload l.id, order := 2 * (2 ^ 65 + l.id) } : PWrite))
        let s := s.setStage c l.id 3 s.pcyc
        if ws.isEmpty then .next (s.modCore c (fun k => { k with preDone := k.preDone ++ [l.id] }))
        else .next (s.modSp c (fun sp => { sp with claims := sp.claims ++ ws }))
  | _ => .next s

/-- TASK_START: core, ctx: the task placed there starts; one of a cancelled launch never does (R42, R78). -/
def execTaskStart (s : State) : Out :=
  let (c, x) := (s.arg.core, s.arg.ctx)
  match (s.core c).starts.find? (fun p => p.1 = x) with
  | none => .next s
  | some (_, id, wid) =>
    let l := s.launch id
    let s := s.modCore c (fun k => { k with starts := k.starts.filter (fun p => p.1 != x) })
    if l.cancelled then .next ((s.leaveCore c id).regrant (coreDie c))
    else
      let r := s.startRegs l wid
      let k : Ctx := { status := .ready, r := r, mark := some r, launch := id, wid := wid, task := s.nextId, origin := 8 * c + x,
                       nextAt := s.now c }
      let s := State.modCtx { s with nextId := s.nextId + 1 } c x (fun _ => k)
      let s := s.modLaunch id (fun l => { l with started := l.started + 1 })
      .next (s.notePlace id (State.placeCodes l c x))

/-- TASK_END: core, ctx: a task past its last bundle has ended, or a context whose last entry has drained is free (R377, R409,
R426). -/
def execTaskEnd (s : State) : Out :=
  let (c, x) := (s.arg.core, s.arg.ctx)
  if !s.endDue c x then .next s
  else
    let k := s.ctx c x
    if k.why = .ended then
      let s := (List.range 7).foldl (fun (s : State) n =>
        if bit (s.launch k.launch).barlv n then
          let (s, b) := s.barrier c x n
          (s.modBar b.id (fun b => { b with ended := b.ended ++ [(k.arr.toList.getD n 0#32).toNat] })).checkBar b.id
        else s) s
      let s := s.modLaunch k.launch (fun l => { l with ended := l.ended + 1 })
      .next (s.modCtx c x (fun k => { k with why := .done }))
    else .next (s.freeCtx c x)

/-- POWER_WINDOW: a window begins: new grants take effect, and nothing has been spent (R95, R97). -/
def execPowerWindow (s : State) : Out :=
  let f (p : Power) : Power := { grant := p.next.getD p.grant, next := none, spent := 0 }
  .next { s with cores := s.cores.map (fun (k : Nat × Core) => (k.1, { k.2 with pow0 := f k.2.pow0, pow1 := f k.2.pow1 })) }

/-- GRANT_RECOMPUTE: n, the die; flag: the recompute of every 1,024 clocks, which reads the sensor, a free value, and throttles
(R97, R433). -/
def execGrantRecompute (s : State) : Out :=
  let d := s.arg.n
  let s := if !s.arg.flag then s
    else
      let (t, s) := s.choose 256
      s.modDie d (fun k => { k with temp := t, thr := if k.tlim ≤ t then min 4 (k.thr + 1) else k.thr - 1 })
  .next (s.computeGrants d)

/-- PERMIT_AUDIT: n, the die: its quiesce begins (R425). -/
def execPermitAudit (s : State) : Out :=
  .next ((s.modDie s.arg.n (fun k => { k with audit := some (s.pcyc + 2048) })).sched_ (s.pcyc + 2048) 0 .permitAuditEnd { n := s.arg.n })

/-- PERMIT_AUDIT_END: n, the die: every count is restored, and a link with a wrong one is reported; the management core then resets
its cluster for containment, after a time that the spec does not give (R424, R425; log 100). -/
def execPermitAuditEnd (s : State) : Out :=
  let d := s.arg.n
  let s := (s.die d).permits.foldl (fun (s : State) (p : Nat × Int) =>
    if p.2 = 0 then s
    else
      let s := s.post { cls := 4, cause := 0, sub := 3, die := d, d0 := p.1 % 2 ^ 32 + (p.2 % 2 ^ 32).toNat * 2 ^ 32 }
      match Config.linkCluster p.1 with
      | some k => s.after 0 0 .containmentReset { n := 12 * d + k % 12 }
      | none => s) s
  .next (s.modDie d (fun k => { k with audit := none, permits := [] }))

/-- LAUNCH_COMPLETE: id: the status is fixed; once nothing is in flight, which is the clock of completion, the launch's lines are
written back; and then its pins, banks and records go (R427, R428, R429). -/
def execLaunchComplete (s : State) : Out :=
  match s.launch? s.arg.id with
  | none => .next s
  | some l =>
    if !s.completeDue l then .next s
    else
      let s := if l.status.isNone then s.modLaunch l.id (fun l => { l with status := some (if l.ended = l.total then 0 else 2) }) else s
      if !s.settled l.id then .next s
      else
        let rs := (l.lrt.filter (fun e => e.v && e.coh != 0)).map (fun e => (e.base, e.limit))
        let s := if l.closing then s
          else l.ran.foldl (fun (s : State) c => s.writeBackRanges c l.id (s.bound l.id rs))
            (s.modLaunch l.id (fun l => { l with closing := true, doneAt := some s.pcyc }))
        if s.closingOut l then .next s
        else
          let s := (l.ran.map clusOf).eraseDups.foldl (fun (s : State) k => s.dropPins k l.id) s
          let s := l.ran.foldl (fun (s : State) c => s.leaveCore c l.id) s
          let s : State := { s with bars := s.bars.filter (fun b => b.launch != l.id) }
          let l := s.launch l.id
          .next (s.finishLaunch l (l.status.getD 0) 0)

/-- FAULT_RECORD_REMOVE: the management core removes the oldest record and passes it on; a held record takes the room (R412). -/
def execFaultRecordRemove (s : State) : Out :=
  match s.fq.ring with
  | [] => .next s
  | w :: rest =>
    let (ring, held) := match s.fq.heldRecs with
      | h :: t => (rest ++ [h], t)
      | [] => (rest, [])
    .next { s with fq := { s.fq with ring := ring, heldRecs := held, host := s.fq.host ++ [w], lastOut := s.pcyc } }

end Sys2Proof.Machine
end

