-- ==== Sys2Proof/Machine/Issue.lean ====
section
/-! DEFINITION. Fetch and decode of a bundle, the second cycle of a split bundle, steps of results, parking, restart marks,
and the recovered faults of the control core (R94, R100 to R107, R123, R135 to R139, R144, R150, R413 to R415). -/

namespace Sys2Proof.Machine

/-! ### Fetch (R100 to R104) -/

/-- Cause of a decode failure (R123, R410). -/
def causeOf : DecodeErr → Nat
  | .illegalOpcode => 0x02
  | .wrongSlot => 0x03
  | .reservedField => 0x04

/-- What the fetch unit finds at a context's position. -/
inductive Fetched where
  | bundle (b : Bundle) (next : Nat)
  /-- The illegal-index trap: position and target of its record (R101, R153). -/
  | illegal (pos addr : Nat)
  /-- A line of the index cache that is missing (R102). -/
  | miss (line : Nat)
  /-- An entry of the dictionary store that ECC finds wrong, and whether it cannot be corrected (R104). -/
  | bad (entry : Nat) (unc : Bool)
  deriving DecidableEq, Repr

namespace State

/-- The entry of a core's dictionary store that an index of a launch selects (R103). -/
def dictEntry (s : State) (c l i : Nat) : Nat :=
  match (s.core c).regions.find? (fun r => r.users.contains l) with
  | some r => r.first + i
  | none => i

/-- The index lines of halfwords p to p + n − 1 of a launch's stream. -/
def indexLines (l : Launch) (p n : Nat) : List Nat :=
  let a := (l.idxAt + 2 * p) / 128
  let b := (l.idxAt + 2 * (p + n) - 1) / 128
  if a = b then [a] else [a, b]

/-- Fetch for a context (R101 to R104, R153). -/
def fetch (s : State) (c x : Nat) : Fetched :=
  let k := s.ctx c x
  let l := s.launch k.launch
  let t := k.r.pc
  if t < 0 || (l.nidx : Int) ≤ t then
    match k.r.brFrom with
    | some p => .illegal p (t % 2 ^ 64).toNat
    | none => .illegal t.toNat 0
  else
    let p := t.toNat
    let held (n : Nat) : Option Nat := (indexLines l p n).find? (fun a => !(s.core c).icache.contains a)
    match held 1 with
    | some a => .miss a
    | none =>
      let i := mread s.mem (l.idxAt + 2 * p) 2
      if i = 0xFFFF then
        if l.nidx < p + 25 then .illegal p 0
        else match held 25 with
          | some a => .miss a
          | none => .bundle (BitVec.ofNat 384 (mread s.mem (l.idxAt + 2 * p + 2) 48)) (p + 25)
      else if l.ndict ≤ i then .illegal p 0
      else
        let e := s.dictEntry c l.id i
        if (s.core c).dictErr.contains (e, true) then .bad e true
        else if (s.core c).dictErr.contains (e, false) then .bad e false
        else .bundle (tget (s.core c).dict e 0#384) (p + 1)

/-- A fill of a line, or a re-read of an entry, is on its way. -/
def filling (s : State) (i : Instr) (c id : Nat) : Bool := s.sched.any (fun e => e.ev = i && e.arg.core = c && e.arg.id = id)
/-- A context waits for its index line or dictionary entry (R102, R104). -/
def fetchHold (s : State) (c x : Nat) (i : Instr) (id : Nat) : State :=
  let s := s.modCtx c x (fun k => { k with fetchWait := true })
  (if s.filling i c id then s else s.after 0 0 i { core := c, ctx := x, id := id }).hold
/-- The contexts of a core fetch again. -/
def refetch (s : State) (c : Nat) : State :=
  s.modCore c (fun k => { k with ctxs := k.ctxs.map (fun p => (p.1, { p.2 with fetchWait := false })) })

/-- Both V slots of a context's bundle go to one lane group (R93, R94). -/
def vdup (s : State) (c x : Nat) : Bool := (s.slotmap c x).getLsbD 4

/-- rec.info of a dictionary entry (R412). -/
def dictInfo (e : Nat) : Nat := e % 2048 + e / 2048 % 4 * 2 ^ 11 + 2 ^ 30

end State

/-- BUNDLE_DECODE: core, ctx: the context's next bundle is fetched and decoded into the issue latch. A failed check traps and
nothing of the bundle takes effect (R101, R104, R106, R123). -/
def execBundleDecode (s : State) : Out :=
  let (c, x) := (s.arg.core, s.arg.ctx)
  let k := s.ctx c x
  let s : State := { s with iss := { core := c, ctx := x, serial := k.serial, pos := k.r.pc.toNat } }
  match s.fetch c x with
  | .illegal pos addr => .next (State.trap { s with iss := { s.iss with pos := pos } } { cause := 0x01, addr := addr })
  | .miss line => .next (s.fetchHold c x .indexLineFill line)
  | .bad e true => .next (s.fetchHold c x .dictionaryReread e)
  | .bad e false =>
    let s := s.modCore c (fun k => { k with dictErr := k.dictErr.filter (· != (e, false)) })
    .next ((s.freezeCore c).coreRecord c 0x1A 0 (State.dictInfo e) 0).hold
  | .bundle b next => match decodeBundle b with
    | .error (e, slot) => .next (s.trap { cause := causeOf e, slot := slot })
    | .ok (f, slots) =>
      let split := s.vdup c x && slots.any (fun p => p.1 = 3) && slots.any (fun p => p.1 = 4)
      .next { s with iss := { s.iss with next := next, slots := slots, fmk := f.fmk, fyd := f.fyd, fqp := f.fqp, fnd := f.fnd,
                                          split := split, valid := true } }

/-- INDEX_LINE_FILL: core; id, the line: it arrives, and the contexts that wait may fetch (R102). Which line leaves a full cache
of 256 is a free choice. Every line asked for lies in package memory (R29, R101). -/
def execIndexLineFill (s : State) : Out :=
  let (c, a) := (s.arg.core, s.arg.id)
  let k := s.core c
  let s := s.refetch c
  if k.icache.contains a then .next s
  else if k.icache.length < 256 then .next (s.modCore c (fun k => { k with icache := k.icache ++ [a] }))
  else
    let (n, s) := s.choose 256
    .next (s.modCore c (fun k => { k with icache := k.icache.eraseIdx n ++ [a] }))

/-- DICTIONARY_REREAD: core, ctx; id, the entry of the store: it is read again from the image and rewritten, and the event is
reported (R104). -/
def execDictionaryReread (s : State) : Out :=
  let (c, x, e) := (s.arg.core, s.arg.ctx, s.arg.id)
  let s := s.refetch c
  match (s.core c).regions.find? (fun r => r.first ≤ e && e < r.first + r.count) with
  | none => .next (s.modCore c (fun k => { k with dictErr := k.dictErr.filter (fun d => d.1 != e) }))
  | some r =>
    let l := s.launch (r.users.headD 0)
    let b : Bundle := BitVec.ofNat 384 (mread s.mem (l.dictAt + 48 * (e - r.first)) 48)
    let s := s.modCore c (fun k => { k with dict := tset k.dict e b, dictErr := k.dictErr.filter (fun d => d.1 != e) })
    .next (s.post (s.recOf c x { cls := 3, cause := 0x1E, sub := 1, pos := (s.ctx c x).r.pc.toNat }))

/-! ### Results and steps (R94, R139, R144, R216) -/

/-- Results one step nearer; those that land are written in program order (R139). -/
def Regs.stepFlight (r : Regs) : Regs :=
  let due := r.flight.filter (fun f => f.dist ≤ 1)
  let left := (r.flight.filter (fun f => 1 < f.dist)).map (fun f => { f with dist := f.dist - 1 })
  { due.foldl (fun r f => r.write f.w) r with flight := left }

/-- RESULT_LAND: core, ctx: one step of the context: its results and its rows come closer, and those whose distance is reached
land (R139, R216). -/
def execResultLand (s : State) : Out :=
  let (c, x) := (s.arg.core, s.arg.ctx)
  let ilk := (s.ctx c x).r.ilk
  let s := s.modCtx c x (fun k => { k with r := k.r.stepFlight })
  let mine (e : Engine) : Bool := e.owner.getD (e.lastUser.getD x) = x
  let e := (s.core c).eng (s.half c x)
  -- a new format that reaches the active bank after an AFEED of the tile is the matrix sequence fault (R220)
  let s := if mine e && e.newFormat then
      s.programError c x { cause := 0x0D, slot := 5, info := e.active.tileId } (s.ctx c x).r.pc.toNat else s
  .next (s.modCore c (fun k => k.modEng (if k.split then x / 4 else 0) (fun e =>
    let e := e.step x !ilk
    if mine e then e.stepBanks else e)))

/-- SPLIT_BUNDLE_SECOND_CYCLE: core, ctx: the V1 slot issues one clock later with the operands of the first cycle; its results
keep the distances of the bundle (R94). -/
def execSplitBundleSecondCycle (s : State) : Out :=
  .next (s.modCtx s.arg.core s.arg.ctx (fun k =>
    let due := k.split.filter (fun f => f.dist ≤ 1)
    let left := (k.split.filter (fun f => 1 < f.dist)).map (fun f => { f with dist := f.dist - 1 })
    let r := due.foldl (fun r f => r.write f.w) k.r
    { k with split := [], splitOn := false, r := { r with flight := r.flight ++ left } }))

/-- ENGINE_PRODUCER_PUBLISH: core, ctx; n, the handle: the slot whose turn it is becomes full (R144, R145). -/
def execEngineProducerPublish (s : State) : Out := .next (s.publish s.arg.core s.arg.ctx s.arg.n)

/-! ### Parking (R135 to R137) -/

/-- CONTEXT_PARK: core, ctx: its wait has lasted more than 64 clocks (R136). -/
def execContextPark (s : State) : Out :=
  let (c, x) := (s.arg.core, s.arg.ctx)
  if (s.ctx c x).status = .waiting then .next ((s.modCtx c x (fun k => { k with status := .parked })).yieldPrimary c x)
  else .next s

/-- CONTEXT_UNPARK: core, ctx: a parked context whose condition has come true is ready again (R136). -/
def execContextUnpark (s : State) : Out :=
  .next (s.modCtx s.arg.core s.arg.ctx (fun k => if k.status = .parked then { k with status := .ready, waitClk := 0 } else k))

/-- CORRECTION_FREEZE_END: core: the freeze is over (R150). -/
def execCorrectionFreezeEnd (s : State) : Out :=
  let c := s.arg.core
  .next (if (s.core c).freeze ≤ s.pcyc then (s.modCore c (fun k => { k with freeze := 0 })).settleRetired c else s)

/-! ### Restart marks (R413, R414) -/

/-- A mark can be established: its covered entries are released, and every variable-latency result of a bundle issued before it
has landed (R413). -/
def State.markDue (s : State) (c x : Nat) : Bool :=
  let k := s.ctx c x
  match k.mark2 with
  | none => false
  | some (n, _) => !(s.core c).cb.any (fun e => e.ctx = x && e.st = .held && e.serial ≤ n) && !k.pend.any (fun p => p.2.1 < n)

/-- MARK_ESTABLISHED: core, ctx: rollbacks return to the new mark (R413). What may be undone begins there (R414, R415). -/
def execMarkEstablished (s : State) : Out :=
  let (c, x) := (s.arg.core, s.arg.ctx)
  if !s.markDue c x then .next s
  else match (s.ctx c x).mark2 with
    | none => .next s
    | some (n, r) =>
      let s := s.modCtx c x (fun k => { k with mark := some r, mark2 := none, markSer := some n })
      .next (s.modCore c (fun k =>
        { k.modEng (if k.split then x / 4 else 0) (fun e => { e with opens := e.opens.filter (fun o => !(o.ctx = x && o.serial ≤ n)) })
          with lockBad := k.lockBad.filter (· != x), resBad := k.resBad.filter (fun p => p.1 != x) }))

/-- ROLLBACK_FETCH_RESUME: core, ctx: the 8 clocks of a rollback, counted without those of a freeze, are over (R150, R414). A
record that names the context and has found the fault queue full keeps it halted (R412). -/
def execRollbackFetchResume (s : State) : Out :=
  let (c, x) := (s.arg.core, s.arg.ctx)
  if (s.ctx c x).why != .rolling then .next s
  else if s.recordHeld c x || s.now c < (s.ctx c x).nextAt then .next (s.sched_ (s.pcyc + 1) 0 .rollbackFetchResume s.arg)
  else .next (s.resumeFetch c x)

/-! ### Cancel traps (R78, R134, R136) -/

/-- The cancel trap of a context (R410). -/
def State.cancelTrap (s : State) (c x : Nat) : State :=
  let s := s.post (s.recOf c x { cls := 4, cause := 0x1F, pos := (s.ctx c x).r.pc.toNat })
  s.haltTrapped c x
/-- The cancel trap acts: at a boundary point, or in a wait, which it ends (R78, R134, R136, R369). -/
def Ctx.cancelDue (k : Ctx) : Bool :=
  k.cancel && match k.status with
    | .ready => k.boundary || k.comps.any (fun q => match q with | .instr _ _ => true | _ => false)
    | .waiting | .parked => true
    | _ => false

/-! ### Recovered faults of the control core (R415) -/

/-- A core has failed: placement no longer sees it, and every task on it is cancelled with its GIN (R90, R415). -/
def State.failCore (s : State) (c : Nat) : State :=
  let s := s.modDie (coreDie c) (fun d => { d with cen := d.cen &&& ~~~(BitVec.ofNat 48 (2 ^ (c % 48))) })
  let gins := ((s.residents c).map (fun l => (s.launch l).gin)).eraseDups
  let s := ((s.core c).ctxs.filter (fun p => p.2.status != .free && p.2.why != .trapped && p.2.why != .done)).foldl
    (fun (s : State) p => s.haltTrapped c p.1) s
  -- promotion requests that wait there (R352)
  let s := (s.promos.filter (fun p => p.here && p.target = c)).foldl (fun (s : State) p => s.promoReply p 2) s
  gins.foldl (fun (s : State) g => s.cancelGin (coreDie c) g) s

/-- A context runs, so that a mismatch of its core can strike it. -/
def Ctx.running (k : Ctx) : Bool :=
  k.status != .free && (match k.why with | .none | .ended | .saving _ _ => true | _ => false)

/-- LOCKSTEP_MISMATCH: core, ctx: the halves disagree; the first time the context rolls back, and again before its next mark the
core fails (R415). There is no lockstep in split mode (R21). -/
def execLockstepMismatch (s : State) : Out :=
  let (c, x) := (s.arg.core, s.arg.ctx)
  let k := s.ctx c x
  if (s.core c).split || !k.running then .next s
  else
    let again := (s.core c).lockBad.contains x
    let s := s.post (s.recOf c x { cls := 1, cause := 0x18, sub := Bool.code again, pos := k.r.pc.toNat })
    if again then .next (s.failCore c)
    else .next ((s.modCore c (fun k => { k with lockBad := k.lockBad ++ [x] })).rollback c x .rolling)

/-- A lane group of a core has failed: both V slots go to the other (R93). -/
def failGroup (m : BitVec 5) (g : Nat) : BitVec 5 :=
  let m := m &&& ~~~(BitVec.ofNat 5 (2 ^ g))
  (m &&& 3#5) ||| (if g = 0 then 28#5 else 16#5)

/-- RESIDUE_MISMATCH: core, ctx; n, the lane group: the first time the context rolls back, and again before its next mark the
group fails too, and on a core in split mode the management core pre-empts the tasks, which move to another (R415, R420). -/
def execResidueMismatch (s : State) : Out :=
  let (c, x, g) := (s.arg.core, s.arg.ctx, s.arg.n % 2)
  let k := s.ctx c x
  if !k.running then .next s
  else
    let again := (s.core c).resBad.contains (x, g)
    let s := s.post (s.recOf c x { cls := 1, cause := 0x19, sub := Bool.code again, info := g, pos := k.r.pc.toNat })
    let s := if again then s.modCore c (fun k => { k with slotmap := failGroup k.slotmap g })
      else s.modCore c (fun k => { k with resBad := k.resBad ++ [(x, g)] })
    let s := s.rollback c x .rolling
    .next (if again && (s.core c).split then s.preemptAll c (·.split) else s)

end Sys2Proof.Machine
end

