-- ==== Sys2Proof/Machine/Interrupt.lean ====
section
/-! DEFINITION. Pre-emption, debug halt and resume with the save area, moves of a launch, and containment (R90, R352, R417 to
R424). -/

namespace Sys2Proof.Machine

/-! ### PMCTL (R417) -/

/-- A PMCTL value: context, single step, save area. -/
def pmCtx (v : Nat) : Nat := fld v 0 3
/-- pm.step. -/
def pmStep (v : Nat) : Bool := bit v 5
/-- Byte address of the save area. -/
def pmArea (v : Nat) : Nat := fld v 12 52 * 4096

namespace State

/-- pm.busy of a core. -/
def pmBusy (s : State) (c : Nat) : Bool := (s.core c).pmctl.getLsbD 7
/-- An operation begins: the written fields, busy, and saved as given. -/
def pmBegin (s : State) (c v : Nat) (saved : Bool) : State :=
  s.modCore c (fun k => { k with pmctl := BitVec.ofNat 64 (fld v 0 6 + 2 ^ 7 + Bool.code saved * 2 ^ 8 + pmArea v) })
/-- The fields of a value written while an operation is in progress, which is not started (R9, R417). -/
def pmNote (s : State) (c v : Nat) : State :=
  s.modCore c (fun k => { k with pmctl := (k.pmctl &&& 0x180#64) ||| BitVec.ofNat 64 (fld v 0 6 + pmArea v) })
/-- pm.saved of a core. -/
def pmSaved (s : State) (c : Nat) : Bool := (s.core c).pmctl.getLsbD 8

/-- The task of a context has ended, or there is none: a request is dropped (R416). -/
def ctxOver (s : State) (c x : Nat) : Bool :=
  let k := s.ctx c x
  k.status = .free || (match k.why with | .trapped | .ended | .done | .lost => true | _ => false)

/-- A pre-emption or debug request for a context (R417, R423). A request while an operation is in progress is not
performed; its fields are written. -/
def request_ (s : State) (c v : Nat) (debug : Bool) : State :=
  let x := pmCtx v
  if s.pmBusy c then s.pmNote c v
  else
    let s := s.pmBegin c v false
    if s.ctxOver c x then s.pmEnd c false
    else
      let w := (s.launch (s.ctx c x).launch).pwin
      s.modCtx c x (fun k => { k with pre := some { area := pmArea v, debug := debug, deadline := s.pcyc + w } })

/-! ### The save (R418, R419, R421, R423) -/

/-- A request can act now (R417, R423): before the next bundle for a debug halt; at a boundary point outside the context's own
tile, or in a parked wait, for a pre-emption. A completion is no such point, but for a bundle that still waits for entries of its
own (R136, R365). -/
def preDue (s : State) (c x : Nat) : Bool :=
  let k := s.ctx c x
  let mine := ((s.core c).eng (s.half c x)).owner = some x
  match k.pre with
  | none => false
  | some p =>
    let whole : Bool := !k.splitOn && k.scan.isNone
    if p.debug then (k.status = .ready || k.status = .waiting || k.status = .parked) && whole
    else k.status = .parked || (k.status = .ready && k.boundary && !mine && whole && k.comps.isEmpty)

/-- Fetch stops for the context and its save begins. The point is a quench point; a poll under way is given up (R418). In a debug halt
an open tile stays open, and the context's comparisons wait (R423). -/
def beginSave (s : State) (c x : Nat) : State :=
  match (s.ctx c x).pre with
  | none => s
  | some p =>
    let mine := ((s.core c).eng (s.half c x)).owner = some x
    let s := match (s.ctx c x).syncReq with | some id => s.endReq id | none => s
    let s := s.modCtx c x (fun k =>
      { k with status := .halted, why := .saving p.area p.debug, waitClk := 0, pre := none, sync := none, syncReq := none,
               quench := some (max (k.serial - 1) (k.quench.getD 0)) })
    (if p.debug && mine then s else s.quenchTiles c x).yieldPrimary c x

/-- The save can be written: nothing is on its way to the context, its entries have drained and its comparisons are over, and its
record, while which waits the context stays halted, has a place (R412, R418). In a debug halt with an open tile the entries that
this one holds back are not waited for (R423; DEDUCED, log 61). -/
def saveDue (s : State) (c x : Nat) : Bool :=
  let k := s.ctx c x
  let k0 := s.core c
  let instr (q : Completion) : Bool := match q with | .instr _ _ => true | _ => false
  let quiet := s.fq.heldRecs.isEmpty && s.fq.ring.length < Config.faultRecords && k.pend.isEmpty && k.comps.all instr && k.split.isEmpty
    && k.scan.isNone && k.pbytes = 0 && !k0.cb.any (fun e => e.ctx = x && e.st != .held)
  let done_ := !k0.cb.any (fun e => e.ctx = x) && k.quench.isNone
    && !k0.eng0.closed.any (fun t => t.ctx = x && (t.due.isSome || t.failed))
  match k.why with
  | .saving a true => quiet && !s.ckStuck a 163840 && (done_ || (k0.eng (s.half c x)).owner = some x)
  | .saving a false => quiet && !s.ckStuck a 163840 && done_ && k.resv.isEmpty
  | _ => false

end State

/-- Bytes of the save area, offset, length and value (R419). -/
abbrev Image := List (Nat × Nat × Nat)

/-- Magic of a completed save (R419). -/
def saveMagic : Nat := 0x4C595331

/-- File, register and bytes of a result in flight; bits it does not write come from the register as it stands (R418). -/
def latchOf (r : Regs) (f : InFlight) : Nat × Nat × Nat × Nat :=
  match f.w with
  | .s d v => (0, d.val, 8, v.toNat)
  | .v d v en =>
    let lanes := pack 1 (fun l => if elem 32 en.toNat l = 0 then 0 else 1) 512 0
    (1, d.val, 2112, ((v &&& en) ||| (r.v[d.val] &&& ~~~en)).toNat + lanes * 2 ^ 16384)
  | .k d v en => (2, d.val, 64, ((v &&& en) ||| (r.k[d.val] &&& ~~~en)).toNat)

/-- Latch headers and data in order, from a data offset on (R419). -/
def latchImage (r : Regs) : List InFlight → Nat → Nat → Image
  | [], _, _ => []
  | f :: fs, n, off =>
    let (file, reg, len, v) := latchOf r f
    (0x9200 + 16 * n, 16, file + reg * 4 + f.dist * 2 ^ 8 + off * 2 ^ 14) :: (0x9600 + off, len, v) :: latchImage r fs (n + 1) (off + len)

/-- The sequencer's bytes (R132, R419). -/
def seqImage (r : Regs) : Image :=
  [(0x800, 8, (r.pc % 2 ^ 64).toNat), (0x808, 8, r.ls.length), (0x810, 8, match r.brFrom with | some p => p + 1 | none => 0)]
    ++ (r.ls.reverse.zipIdx.flatMap (fun p =>
      [(0x840 + 32 * p.2, 32, p.1.idx % 2 ^ 64 + p.1.cnt % 2 ^ 64 * 2 ^ 64 + p.1.start % 2 ^ 32 * 2 ^ 128 + p.1.stop % 2 ^ 32 * 2 ^ 160
        + Bool.code p.1.md * 2 ^ 192 + Bool.code p.1.sk * 2 ^ 193 + p.1.map % 2 ^ 22 * 2 ^ 194)]))

/-- A handle as 16 bytes (R143). -/
def Ring.word (r : Ring) : Nat := r.low + r.cp * 2 ^ 64 + r.eng * 2 ^ 74
/-- The handle of 16 bytes. -/
def Ring.ofWord (w : Nat) : Ring := { Ring.ofLow (w % 2 ^ 64) with cp := fld w 64 10, eng := fld w 74 10 }
/-- A binding as 32 bytes (R41). -/
def Binding.word (b : Binding) : Nat := b.sync.toNat + b.base.toNat * 2 ^ 64 + b.limit.toNat * 2 ^ 128 + Bool.code b.v * 2 ^ 192

/-- The registers' bytes (R419). -/
def regsImage (r : Regs) : Image :=
  r.s.toList.zipIdx.map (fun p => (0x100 + 8 * p.2, 8, p.1.toNat)) ++ r.k.toList.zipIdx.map (fun p => (0x300 + 64 * p.2, 64, p.1.toNat))
    ++ r.h.toList.zipIdx.map (fun p => (0x500 + 16 * p.2, 16, Ring.word p.1)) ++ r.b.toList.zipIdx.map (fun p => (0x600 + 32 * p.2, 32, Binding.word p.1))
    ++ seqImage r ++ [(0x900, 8, Bool.code r.ilk + 2 * r.rm.code), (0x908, 8, r.srseed.toNat), (0x910, 8, r.gtag.toNat + r.gcnt.toNat * 2 ^ 32)]
    ++ r.gens.toList.zipIdx.map (fun p => (0xA00 + 4 * p.2, 4, p.1.toNat)) ++ r.v.toList.zipIdx.map (fun p => (0x1200 + 2048 * p.2, 2048, p.1.toNat))
    ++ latchImage r r.flight 0 0

/-- A register set as 56 bytes (R218). -/
def MxSet.bytes (m : MxSet) : Nat := pack 64 (fun i => (m.read i).toNat) 7 0
/-- Rows on their way are in their bank (R419 gives them no place). -/
def Bank.landed (b : Bank) : Bank := b.late.foldl Bank.land { b with late := [] }
/-- A bank's format code, 31 for none, and valid bits. -/
def Bank.info (b : Bank) : Nat := b.fmt.getD 31 + b.valid.toNat * 2 ^ 32
/-- A bank's rows, 512 B each. -/
def Bank.bytes (b : Bank) : Nat := pack 4096 (fun i => (tget b.rows i 0#4096).toNat) 32 0

/-- The matrix part of the area and the fold of its bytes: register sets, formats and valid bits, rows (R421). -/
def mxImage (e : Engine) : Image × Nat :=
  let (b0, b1) := (e.bank0.landed, e.bank1.landed)
  let sets : Image := [(0x1A600, 128, e.active.bytes), (0x1A680, 128, e.shadow.bytes)]
  let rows : Image := [(0x1A800, 16384, b0.bytes), (0x1E800, 16384, b1.bytes)]
  let info : Image := [(0x1A700, 8, b0.info), (0x1A708, 8, b1.info), (0x1A710, 8, Bool.code e.sel)]
  (sets ++ info ++ rows, crc64 (2 ^ 64 - 1) ((sets ++ info ++ rows).flatMap (fun p => bytesOf p.2.2 p.2.1)))

namespace State

/-- Bytes written to a save area (R405, R419). -/
def writeImage (s : State) (area : Nat) (l : Image) : State :=
  l.foldl (fun (s : State) p => (s.ckCopy (area + p.1)).rawWrite (area + p.1) p.2.1 p.2.2) s

/-- The whole area of a context, with its matrix part if it used its engine last (R419, R421); diff: by how much the two folds of that
part differ. -/
def saveImage (s : State) (c x : Nat) (mx : Bool) (diff : Nat) : Image :=
  let k := s.ctx c x
  let k0 := s.core c
  let l := s.launch k.launch
  let h := s.half c x
  let owner := (k0.eng h).owner = some x
  let fromOne := k0.aret || k0.sret || (k0.split && h = 1)
  let head : Image := [(0, 4, saveMagic), (4, 4, Bool.code mx + 2 * Bool.code fromOne), (8, 8, l.image), (16, 4, l.gin), (20, 4, l.ltag),
    (24, 8, k.wid.toNat), (32, 4, k.origin), (36, 4, Bool.code l.split + 2 * h), (40, 8, k.r.flight.length), (48, 8, s.pcyc)]
  let rest : Image := [(0x918, 8, k.pbytes)] ++ k.arr.toList.zipIdx.map (fun p => (0x920 + 4 * p.2, 4, p.1.toNat)) ++ [(0x940, 8, Bool.code owner)]
  let m : Image :=
    if mx then
      let (i, f) := mxImage (k0.eng h)
      let (a, w) := if k0.aret || (k0.split && h = 1) then (0, f) else if k0.sret || k0.split then (f, 0) else (f, f ^^^ diff)
      i ++ [(0x1A718, 8, a), (0x1A720, 8, w)]
    else []
  head ++ regsImage k.r ++ rest ++ m

/-! ### The resume (R420, R421, R423) -/

/-- n bytes of a save area. -/
def areaRead (s : State) (area off n : Nat) : Nat := mread s.mem (area + off) n

/-- A result in flight from a latch (R419, R420). -/
def latchRead (s : State) (area n : Nat) : InFlight :=
  let h := s.areaRead area (0x9200 + 16 * n) 16
  let d := 0x9600 + fld h 14 18
  let w : RegWrite := match fld h 0 2 with
    | 0 => .s (sr h 2) (BitVec.ofNat 64 (s.areaRead area d 8))
    | 1 => .v (vr h 2) (BitVec.ofNat 16384 (s.areaRead area d 2048))
        (BitVec.ofNat 16384 (pack 32 (fun l => if bit (s.areaRead area (d + 2048) 64) l then 2 ^ 32 - 1 else 0) 512 0))
    | _ => .k (kr h 2) (BitVec.ofNat 512 (s.areaRead area d 64)) (BitVec.allOnes 512)
  { dist := fld h 8 6, w := w }

/-- A loop-stack entry of a save area. -/
def loopRead (s : State) (area n : Nat) : LoopEntry :=
  let e := s.areaRead area (0x840 + 32 * n) 32
  { idx := fld e 0 64, cnt := fld e 64 64, start := fld e 128 32, stop := fld e 160 32, md := bit e 192, sk := bit e 193, map := fld e 194 22 }

/-- The registers of a save area (R419, R420). -/
def regsRead_ (s : State) (area : Nat) : Regs :=
  let rd (off n : Nat) : Nat := s.areaRead area off n
  let pc : Int := (BitVec.ofNat 64 (rd 0x800 8)).toInt
  let fp := rd 0x900 8
  { s := Vector.ofFn (fun (i : Fin 64) => BitVec.ofNat 64 (rd (0x100 + 8 * i.val) 8)),
    v := Vector.ofFn (fun (i : Fin 16) => BitVec.ofNat 16384 (rd (0x1200 + 2048 * i.val) 2048)),
    k := Vector.ofFn (fun (i : Fin 8) => BitVec.ofNat 512 (rd (0x300 + 64 * i.val) 64)),
    h := Vector.ofFn (fun (i : Fin 16) => Ring.ofWord (rd (0x500 + 16 * i.val) 16)),
    b := Vector.ofFn (fun (i : Fin 16) => bindOf (rd (0x600 + 32 * i.val) 32)),
    pc := pc, brFrom := if rd 0x810 8 = 0 then none else some (rd 0x810 8 - 1),
    ls := (List.range (min 6 (rd 0x808 8))).reverse.map (fun n => s.loopRead area n),
    ilk := bit fp 0, rm := (Sys2Proof.rmOf (fld fp 1 3)).getD .rne, srseed := BitVec.ofNat 32 (rd 0x908 4),
    gens := Vector.ofFn (fun (i : Fin 512) => BitVec.ofNat 32 (rd (0xA00 + 4 * i.val) 4)),
    gtag := BitVec.ofNat 32 (rd 0x910 4), gcnt := BitVec.ofNat 32 (rd 0x914 4),
    flight := (List.range (min 64 (rd 40 8))).map (fun n => s.latchRead area n) }

/-- Publications of a debug-halted context since its save reach the reloaded handles (R144, R423). -/
def catchUp (resv : List (Nat × Nat × Nat × Bool)) (r : Regs) : Regs :=
  (List.range 16).foldl (fun (r : Regs) h =>
    let left := (resv.filter (fun q => q.1 = h)).length
    (List.range ((r.h.toList.getD h {}).eng - left)).foldl (fun (r : Regs) _ => r.publish h) r) r

/-- A bank of a save area. -/
def bankRead (s : State) (area n : Nat) : Bank :=
  let i := s.areaRead area (0x1A700 + 8 * n) 8
  { fmt := if fld i 0 32 = 31 then none else some (fld i 0 32), valid := BitVec.ofNat 32 (fld i 32 32),
    rows := (List.range 32).map (fun r => (r, BitVec.ofNat 4096 (s.areaRead area (0x1A800 + 16384 * n + 512 * r) 512))) }
/-- A register set of a save area; a signature keeps what was saved. -/
def setRead (s : State) (area off : Nat) : MxSet :=
  let rd (i : Nat) : Dword := BitVec.ofNat 64 (s.areaRead area (off + 8 * i) 8)
  { ctl := rd 0, tile := rd 1, tbase := rd 2, tstr := rd 3, zmap := rd 4, siga := rd 5, sigs := rd 6 }

/-- The engine of a resumed context, if another has used it since, or it is another core's (R421). -/
def engineResume (s : State) (area x : Nat) (e : Engine) : Engine :=
  let e := if e.lastUser.isNone && e.savedIn = some area then e
    else { e with active := s.setRead area 0x1A600, shadow := s.setRead area 0x1A680, bank0 := s.bankRead area 0, bank1 := s.bankRead area 1,
                  sel := s.areaRead area 0x1A710 1 = 1 }
  { e with lastUser := some x }

/-- A resume that is not performed: a report, and nothing changes (R420). -/
def resumeRefused (s : State) (c x : Nat) : State :=
  let r : Rec := { cls := 5, cause := 0, sub := 7, die := coreDie c, clus := coreClus c, core := coreK c, half := s.half c x, ctx := x }
  (s.post r).pmEnd c (s.pmSaved c)

/-- A save area of the management core that nothing is saved in or is to be. -/
def freeArea (s : State) : Option Nat :=
  s.mg.areas.find? (fun a => !s.saves.any (fun w => w.area = a) && !s.cores.any (fun c => c.2.ctxs.any (fun p =>
    (match p.2.pre with | some q => q.area = a | none => false)
      || (match p.2.why with | .saving b _ | .debug b => b = a | _ => false))))

end State

/-! ### The steps -/

/-- PREEMPT_REQUEST: core; v, the PMCTL value (R417). With flag: core, ctx and id, the task: the management core's own request
after a retirement, for which it takes one of its save areas; it waits for an area, and while an operation is in progress
(R231, R415). -/
def execPreemptRequest (s : State) : Out :=
  if !s.arg.flag then .next (s.request_ s.arg.core s.arg.v false)
  else
    let (c, x) := (s.arg.core, s.arg.ctx)
    if s.ctxOver c x || (s.ctx c x).task != s.arg.id then .next s
    else match s.pmBusy c, s.freeArea with
      | false, some a => .next (s.request_ c (x + 2 ^ 3 + a) false)
      | _, _ => .next (s.sched_ (s.pcyc + 1) 0 .preemptRequest s.arg)

/-- DEBUG_HALT: core; v, the PMCTL value (R423). -/
def execDebugHalt (s : State) : Out := .next (s.request_ s.arg.core s.arg.v true)

/-- PREEMPT_WINDOW_EXPIRY: core, ctx: no point came within the window: the context rolls back to its mark, which is the
pre-emption point (R414, R417). -/
def execPreemptWindowExpiry (s : State) : Out :=
  let (c, x) := (s.arg.core, s.arg.ctx)
  let k := s.ctx c x
  match k.pre with
  | none => .next s
  | some p =>
    if p.debug || s.ctxOver c x || k.status = .halted || s.pcyc < p.deadline then .next s
    else
      let s := s.rollback c x (.saving p.area false)
      .next (s.modCtx c x (fun k => { k with pre := none }))

/-- PREEMPT_SAVE: core, ctx: the area is written, the record made, and the context freed, once its records have their places, or kept
by a debug halt. With flag the folds of the two arrays have differed twice, by a free value (R412, R418, R419, R421, R423). -/
def execPreemptSave (s : State) : Out :=
  let (c, x) := (s.arg.core, s.arg.ctx)
  if !s.saveDue c x then .next s
  else match (s.ctx c x).why with
    | .saving area debug =>
      if Config.ppaLimit < area + 163840 then .fault (.noMemory area)
      else
        let k := s.ctx c x
        let h := s.half c x
        let mx := !debug && ((s.core c).eng h).lastUser = some x
        let bad := s.arg.flag && mx && !(s.core c).split && !(s.core c).aret && !(s.core c).sret
        let (n, s) := if bad then s.choose (2 ^ 64 - 1) else (0, s)
        let diff := if bad then n + 1 else 0
        let fold := (mxImage ((s.core c).eng h)).2
        let s := if bad then
            let r : Rec := { cls := 3, cause := 0x1B, sub := 4, slot := 5, pos := k.r.pc.toNat, d0 := fold, d1 := fold ^^^ diff }
            (s.post (s.recOf c x r)).cancelGin (coreDie c) (s.launch k.launch).gin
          else s
        let s := s.writeImage area (s.saveImage c x mx diff)
        let s := s.post (s.recOf c x { cls := 4, cause := 0, sub := if debug then 4 else 1, pos := k.r.pc.toNat })
        let s := s.pmEnd c true
        if debug then .next (s.modCtx c x (fun k => { k with why := .debug area }))
        else
          let e := (s.core c).eng h
          let v : Save := { area := area, core := c, task := k.task, launch := k.launch, wid := k.wid, origin := k.origin, serial := k.serial,
                            sendNo := k.sendNo, barOn := k.barOn, rels := (s.core c).tls.map (fun t => (t.1, t.2.rel)),
                            late := k.comps.head?.bind (fun q => k.lateRegs.map (fun r => (q, r))),
                            tile := if e.owner = some x then e.tile else none, rows := e.rows.filter (fun r => r.ctx = x) }
          let s : State := { s with saves := s.saves.filter (fun w => w.area != area) ++ [v] }
          let s := s.modCore c (fun q => q.modEng h (fun e => if mx then
            { e with lastUser := none, savedIn := some area, bank0 := e.bank0.landed, bank1 := e.bank1.landed } else e))
          -- a record that names the context and waits for a place keeps it halted (R412)
          .next (if s.recordHeld c x then s.modCtx c x (fun k => { k with why := .trapped }) else s.freeCtx c x)
    | _ => .next s

namespace State

/-- What the model keeps of a task beside its save area; of an area that no pre-emption here has written, what its header says: a task
of the launch that it names (R419, R420; DEDUCED, log 60). -/
def savedAs (s : State) (c area : Nat) : Save :=
  let (image, gin, ltag) := (s.areaRead area 8 8, s.areaRead area 16 4, s.areaRead area 20 4)
  (s.saves.find? (fun w => w.area = area)).getD
    { area := area, core := c, task := s.nextId, wid := 0#64, origin := 0, serial := 0, sendNo := 0,
      launch := ((s.dist.launches.find? (fun l => l.image = image && l.gin = gin && l.ltag = ltag)).map (·.id)).getD 0 }

/-- A task's registers and numbers loaded from an area (R419, R420). -/
def loadArea (s : State) (area : Nat) (r : Regs) (k : Ctx) : Ctx :=
  { k with r := r, wid := BitVec.ofNat 64 (s.areaRead area 24 8), origin := s.areaRead area 32 4, pbytes := s.areaRead area 0x918 8 % 2 ^ 48,
           arr := Vector.ofFn (fun (i : Fin 7) => BitVec.ofNat 32 (s.areaRead area (0x920 + 4 * i.val) 4)), status := .ready, why := .none,
           boundary := false }

/-- A resume of context x of a core with a PMCTL value: the area is loaded into a free context, or back into the context that a
debug halt saved there (R420, R423). The point of a save outside a tile is the context's mark (R418). -/
def resumeAt (s : State) (c x v : Nat) : State :=
  let area := pmArea v
  let s := s.pmBegin c v (s.pmSaved c)
  let k := s.ctx c x
  -- no save can be complete in an area that names no memory (R267)
  let magic : Bool := area + 163840 ≤ Config.ppaLimit && s.areaRead area 0 4 = saveMagic
  let free : Bool := k.status = .free && !(s.core c).starts.any (fun p => p.1 = x)
  let step := if pmStep v then some area else none
  let h := if (s.core c).split then x / 4 else 0
  match k.why with
  | .debug a =>
    if a != area || !magic then s.resumeRefused c x
    else
      let r := State.catchUp k.resv (s.regsRead_ area)
      let mine := ((s.core c).eng h).owner = some x
      let s := s.modCtx c x (fun k =>
        let k := s.loadArea area r { k with step := step, nextAt := s.now c }
        if mine then k else { k with mark := some r, mark2 := none, markSer := none })
      let s := if mine then s
        else s.modCore c (fun k => k.modEng h (fun e => { e with opens := e.opens.filter (fun o => o.ctx != x) }))
      s.pmEnd c (s.pmSaved c)
  | _ =>
    let w := s.savedAs c area
    let l := s.launch w.launch
    let empty := (s.holders c).isEmpty
    if !free || !magic then s.resumeRefused c x
    else
      let r := s.regsRead_ area
      let s := if empty && (s.core c).split != l.split then
          s.modCore c (fun k => { k with split := l.split, prim0 := 0, prim1 := 4 }) else s
      let h := if (s.core c).split then x / 4 else 0
      let n : Ctx := s.loadArea area r
        { mark := some r, launch := w.launch, task := w.task, serial := w.serial, sendNo := w.sendNo, barOn := w.barOn,
          comps := (w.late.map (·.1)).toList, lateRegs := w.late.map (·.2), cancel := l.cancelled, step := step, nextAt := s.now c }
      let s := s.modCtx c x (fun _ => n)
      let s : State := { s with saves := s.saves.filter (fun u => u.area != area), nextId := s.nextId + 1 }
      let s := if bit (s.areaRead area 4 4) 0 then s.modCore c (fun k => k.modEng h (s.engineResume area x)) else s
      -- a context that owned the engine owns it again, and its open tile goes on (R92, R419, R420)
      let s := if s.areaRead area 0x940 1 = 1 then
          s.modCore c (fun k => k.modEng h (fun e => if e.owner.isNone then
            { e with owner := some x, tile := w.tile.map (fun t => { t with ctx := x }),
                     opens := e.opens.map (fun o => { o with other := o.other || o.ctx != x }),
                     rows := e.rows ++ w.rows.map (fun r => { r with ctx := x }) } else e)) else s
      (s.pmEnd c (s.pmSaved c)).regrant (coreDie c)

/-- The context that the management core resumes a task into, of the half it was saved on (R419, R420). -/
def resumeCtx (s : State) (c area : Nat) : Option Nat :=
  let h := s.areaRead area 36 4
  (if bit h 0 then (List.range 4).map (4 * (h / 2) + ·) else List.range 8).find? (fun x =>
    (s.ctx c x).status = .free && !(s.core c).starts.any (fun p => p.1 = x))
/-- Tasks of a launch that were saved on a core. -/
def savedOn (s : State) (c l : Nat) : List Save := s.saves.filter (fun w => w.core = c && w.launch = l)
/-- Every number that a timeline of a core had given out as a task was saved there has completed (R420). -/
def savedDone (s : State) (c : Nat) (w : Save) : Bool :=
  w.rels.all (fun p => p.2.toNat ≤ (s.tl c p.1).val.toNat)
/-- A core that a launch can move to: it is eligible and holds no task of another launch (R85, R420). -/
def moveFits (s : State) (c : Nat) (l : Launch) (d : Nat) : Bool :=
  s.couldHost l d && (s.holders d).all (· = l.id) && (s.residents d).all (· = l.id) && d != c

/-- A launch moves from core c to core d: its banks, data and tags, and the timelines are copied, and its saves belong to the new
core, which the management core resumes them on (R420). -/
def moveTo (s : State) (c d : Nat) (l : Launch) : State :=
  let own := (List.range 32).filter (fun b => tget (s.core c).sp.owner b 0 = l.id)
  let old := (s.core c).sp
  let mine (a : Nat) : Bool := own.contains (bankOf a)
  let areas := (s.savedOn c l.id).map (·.area)
  let s : State := { s with saves := s.saves.map (fun w => if w.core = c && w.launch = l.id then { w with core := d } else w) }
  let s := s.modCore d (fun k => { k with split := l.split, tls := (s.core c).tls, prim0 := if k.split = l.split then k.prim0 else 0,
                                          prim1 := if k.split = l.split then k.prim1 else 4 })
  let s := if (s.core d).regions.any (fun r => r.users.contains l.id) then s else s.takeRegion d l
  let s := (s.setStage d l.id 3 s.pcyc).modCore d (fun k => { k with preDone := if k.preDone.contains l.id then k.preDone else k.preDone ++ [l.id] })
  let s := s.modSp d (fun sp =>
    { sp with owner := own.foldl (fun o b => tset o b l.id) sp.owner,
              power := own.foldl (fun o b => tdel o b) sp.power,
              data := (old.data.filter (fun p => mine p.1)).foldl (fun m p => Machine.mset m p.1 p.2) (sp.data.filter (fun p => !mine p.1)),
              full := sp.full.filter (fun a => !mine a) ++ old.full.filter mine })
  -- parity of the new core follows its data
  let s := (List.range 8).foldl (fun (s : State) g => if own.any (fun b => groupOf b = g) then
      s.modSp d (fun sp => { sp with reb := tset sp.reb g (s.now d) }) else s) s
  let s := own.foldl (fun (s : State) b => s.passBank c l.id b) s
  let s := (s.leaveCore c l.id).noteRan l.id d
  areas.foldl (fun (s : State) a => s.sched_ (s.pcyc + 1) 0 .resume { core := d, v := a, flag := true }) s

end State

/-- RESUME: core; v, the PMCTL value (R420, R423). With flag: v, the area: the management core's own resume after a move; it
waits for a free context, and while an operation is in progress. -/
def execResume (s : State) : Out :=
  let (c, v) := (s.arg.core, s.arg.v)
  if !s.arg.flag then .next (if s.pmBusy c then s.pmNote c v else s.resumeAt c (pmCtx v) v)
  else if !s.saves.any (fun w => w.area = pmArea v && w.core = c) then .next s
  else match s.pmBusy c, s.resumeCtx c (pmArea v) with
    | false, some x => .next (s.resumeAt c x (x + 3 * 2 ^ 3 + pmArea v))
    | _, _ => .next (s.sched_ (s.pcyc + 1) 0 .resume s.arg)

/-- LAUNCH_MOVE: core; id, the launch; n, the new core, or with flag none in particular: once every task of the launch there is
saved and every number given out by then has completed, it moves to that core, or, where that one does not fit, to the first that
does; until then the management core waits, and so keeps the first such core that frees (R420). -/
def execLaunchMove (s : State) : Out :=
  let (c, l) := (s.arg.core, s.launch s.arg.id)
  let here := (s.core c).ctxs.any (fun p => p.2.status != .free && p.2.launch = l.id) || (s.core c).starts.any (fun p => p.2.1 = l.id)
  let saved := s.savedOn c l.id
  if !here && saved.isEmpty then .next s
  else
    let cores := if s.arg.flag then List.range 384 else s.arg.n :: List.range 384
    match (if here || !saved.all (s.savedDone c) then none else cores.find? (s.moveFits c l)) with
    | some d => .next (s.moveTo c d l)
    | none => .next (s.sched_ (s.pcyc + 1) 0 .launchMove s.arg)

/-! ### Containment (R352, R424) -/

namespace State

/-- A command, message or collective of a core that is discarded with it: what would advance its timelines does nothing. -/
def dropCommands (s : State) (k : Nat) : State :=
  let mine (c : Nat) : Bool := clusOf c = k
  let cs := s.copies.filter (fun r => r.clus = k)
  let s := cs.foldl (fun (s : State) r => if r.phase = .sent then { s with copies := s.copies.filter (fun q => q.id != r.id) }
    else s.endCopy r 0#64 0) s
  let gone := s.fab.sends.filter (fun r => mine r.core && r.phase < 3)
  let s := gone.foldl (fun (s : State) r => if r.phase = 0 then s.modFab (fun b => { b with sends := b.sends.filter (fun q => q.id != r.id) })
    else s.endSend r) s
  let s := s.modFab (fun b => { b with sends := b.sends.map (fun r => if mine r.core then { r with tl := 64 } else r) })
  s.modColl (fun q => { q with
    waits := (q.waits.filter (fun w => !(mine w.core && w.num = 0 && !w.busy))).map (fun w => if mine w.core then { w with tl := 64 } else w),
    insts := q.insts.map (fun i => if mine i.core then { i with tl := 64 } else i) })

/-- Entries of a core are discarded; a LAUNCH gives its reservation back (R424 step 5). -/
def dropEntries (s : State) (c : Nat) : State :=
  let q := (s.core c).cb.filterMap (fun e => match e.kind with | .launch q 0 _ => some q | _ => none)
    ++ (s.dist.lentries.filter (fun l => l.core = c && l.parts.length < 4)).map (·.q)
  let s := q.foldl (fun (s : State) n => s.modLq n (fun u => { u with reserved := u.reserved - 1 })) s
  let s : State := { s with dist := { s.dist with lentries := s.dist.lentries.filter (fun l => !(l.core = c && l.parts.length < 4)) } }
  let s := s.modCore c (fun k => { k with cb := [], rtq := [], pubs := [], stopDrain := 0,
                                          sp := { k.sp with claims := k.sp.claims.filter (fun w => match w.src with | .preload _ => true | _ => false) } })
  (List.range 8).foldl (fun (s : State) x => s.modCtx c x (fun k => { k with resv := [], quench := none })) s

/-- A remote chunk on its way to a contained core is discarded; whether its sender is told is a free choice. -/
def dropArrival (s : State) (m : Msg) : State :=
  let (n, s) := s.choose 2
  if n = 0 then s.after 0 0 .ackArrival { id := m.id, flag := true } else { s with msgs := s.msgs.filter (fun q => q.id != m.id) }

/-- Packets of a cluster that are partly injected are closed with a void tail: what they would have written is not applied. Which
of the writes, remote stores and RSTEs that have not reached their place they are is a free choice for each (R424). A release that is
not at its home is discarded in any case (R370). -/
def voidWrites (s : State) (k : Nat) : State :=
  let s : State := { s with reqs := s.reqs.filter (fun r => !(r.who.clus = some k && !r.served && (match r.want with | .rel _ _ _ => true | _ => false))) }
  let void : Want → Bool
    | .write _ _ | .wback _ _ | .amo _ _ _ _ _ | .cas _ _ _ _ _ | .red _ _ | .fred _ _ => true
    | _ => false
  let s := (s.reqs.filter (fun r => r.who.clus = some k && !r.served && void r.want)).foldl (fun (s : State) r =>
    let (n, s) := s.choose 2
    if n = 0 then s.modReq r.id (fun r => { r with want := .wback 0 0 }) else s) s
  (s.msgs.filter (fun m => clusOf m.core = k && !m.here)).foldl (fun (s : State) m =>
    let (n, s) := s.choose 2
    if n != 0 then s
    else
      let s : State := { s with msgs := s.msgs.filter (fun q => q.id != m.id) }
      if (s.ctx m.core m.ctx).task = m.task then s.modCtx m.core m.ctx (fun q => { q with pbytes := (q.pbytes + 2 ^ 48 - m.bytes) % 2 ^ 48 })
      else s) s

/-- The containment of one cluster (R424). -/
def contain (s : State) (k : Nat) : State :=
  let cs := (List.range 4).map (4 * k + ·)
  let d := k / 12
  let gins := (cs.flatMap (fun c => (s.residents c).map (fun l => (s.launch l).gin))).eraseDups
  -- a cluster contained has failed in the field (R20)
  let s : State := { s with mg := { s.mg with factory := { s.mg.factory with
    failed := tset s.mg.factory.failed d (tget s.mg.factory.failed d 0#12 ||| BitVec.ofNat 12 (2 ^ (k % 12))) } } }
  -- step 1: packets partly injected
  let s := s.voidWrites k
  -- step 2: permits that the cluster holds go back to their links (which are its links is not given: log 100)
  let s := s.modDie d (fun q => { q with permits := q.permits.filter (fun p => !(Config.linkCluster p.1 = some (k % 12) && p.2 < 0)) })
  -- step 3: logs, and promotions that wait in them
  let s := (s.promos.filter (fun p => p.here && clusOf p.target = k)).foldl (fun (s : State) p => s.promoReply p 2) s
  let s := cs.foldl (fun (s : State) c => s.modCore c (fun q => { q with plog := [], epoch := (q.epoch + 1) % 2 ^ 16 })) s
  -- step 4: pins, and the writes that waited for them
  let s := (s.clu k).l2.foldl (fun (s : State) l => match l.home with
    | some p => if l.pins = 0 then s else s.modLine p (fun i => { i with pins := i.pins.filter (· != k) })
    | none => s) s
  let s := s.modClu k (fun u => { u with l2 := u.l2.map (fun l => { l with pins := 0, pinBy := [] }) })
  let s := s.releasePinned k
  -- step 5: commands, entries, replays and arrivals
  let s : State := { s.dropCommands k with rels := (s.dropCommands k).rels.filter (fun r => clusOf r.core != k) }
  let s := cs.foldl (fun (s : State) c => s.dropEntries c) s
  let s := s.modClu k (fun u => { u with hardy := {} })
  let s := (s.msgs.filter (fun m => clusOf m.dest = k)).foldl (fun (s : State) m => s.dropArrival m) s
  -- weight banks hold no format and no row after it (R213)
  let s := cs.foldl (fun (s : State) c => s.modCore c (fun q => { q with
    tls := [], eng0 := { q.eng0 with closed := [], bank0 := {}, bank1 := {}, savedIn := none },
    eng1 := { q.eng1 with closed := [], bank0 := {}, bank1 := {}, savedIn := none } })) s
  -- step 6: contexts and graphs
  let s := cs.foldl (fun (s : State) c => ((s.core c).ctxs.filter (fun p => p.2.status != .free && p.2.why != .trapped && p.2.why != .done)).foldl
    (fun (s : State) p => (s.dropReplies c p.1).haltTrapped c p.1) s) s
  let s := gins.foldl (fun (s : State) g => s.cancelGin 8 g) s
  -- step 7
  let s := s.modDie d (fun q => { q with cen := q.cen &&& ~~~(BitVec.ofNat 48 (15 * 2 ^ (k % 12 * 4))) })
  s.post { cls := 4, cause := 0, sub := 2, die := d, clus := k % 12 }

end State

/-- CONTAINMENT_RESET: n, the cluster over the package; or with flag the die, whose clusters are all contained and which has
failed (R24, R84, R424). -/
def execContainmentReset (s : State) : Out :=
  if s.arg.flag then
    let d := s.arg.n
    let s := (List.range 12).foldl (fun (s : State) i => s.contain (12 * d + i)) s
    .next (s.modDie d (fun q => { q with dfail := true }))
  else .next (s.contain s.arg.n)

/-- SPARE_CLUSTER_ENABLE: n, the die; m, the spare cluster: after a containment on the die, and only where its spare bit is set
(R90). -/
def execSpareClusterEnable (s : State) : Out :=
  let (d, k) := (s.arg.n, s.arg.m)
  let q := s.die d
  if !q.spare.getLsbD k || tget s.mg.factory.failed d 0#12 = 0#12 then .next s
  else .next (s.modDie d (fun q => { q with clen := q.clen ||| BitVec.ofNat 12 (2 ^ k), cen := q.cen ||| BitVec.ofNat 48 (15 * 2 ^ (4 * k)),
                                            mxen := q.mxen ||| (BitVec.ofNat 48 (15 * 2 ^ (4 * k)) &&& ~~~(tget s.mg.factory.badMx d 0#48)),
                                            spare := 0#12 }))

end Sys2Proof.Machine
end

