-- ==== Sys2Proof/Machine/Admin.lean ====
section
/-! DEFINITION. What the management core and the host do: boot, launch queues and rings, the cancel set, resolves of fault
records, translation invalidations, page moves, register writes, writes through the host port and the checkpoint drain (R20,
R24, R66 to R79, R93, R277 to R287, R331, R392 to R397, R405 to R408, R412, R429 to R434, R449). -/

namespace Sys2Proof.Machine

namespace State

/-! ### Boot (R434) -/

/-- Dies 0 to 7. -/
def allDies : List Nat := List.range 8
/-- Clusters of a die that pass their test, and the spare among 12 that do (R20). -/
def goodClusters (f : Factory) (d : Nat) : BitVec 12 := tget f.good d (BitVec.allOnes 12)
/-- Clusters that boot enables: of those that pass their test, not the spare where all pass, and none that has failed in the
field (R20). -/
def enabledClusters (f : Factory) (d : Nat) : BitVec 12 :=
  let g := goodClusters f d
  (if g = BitVec.allOnes 12 then g &&& ~~~(BitVec.ofNat 12 (2 ^ (tget f.spareOf d 11 % 12))) else g) &&& ~~~(tget f.failed d 0#12)
/-- One bit for every core of the clusters of a mask. -/
def coreBits (m : BitVec 12) : BitVec 48 :=
  BitVec.ofNat 48 ((List.range 12).foldl (fun a k => if m.getLsbD k then a + 15 * 2 ^ (4 * k) else a) 0)
/-- The slot map of a core with two working lane groups (R93). -/
def freshSlotmap : BitVec 5 := 11#5
/-- Registers of a die and its cores after steps 2, 3 and 7 (R24, R91, R93, R433). -/
def bootDie (s : State) (d : Nat) : State :=
  let f := s.mg.factory
  let on := enabledClusters f d
  let s := s.modDie d (fun k => { k with
    clen := on, dfail := false, mxen := coreBits on &&& ~~~(tget f.badMx d 0#48), cen := coreBits on,
    spare := goodClusters f d &&& ~~~on &&& ~~~(tget f.failed d 0#12) })
  (List.range 48).foldl (fun (s : State) k =>
    if (coreBits (goodClusters f d)).getLsbD k then s.modCore (48 * d + k) (fun k => { k with slotmap := freshSlotmap }) else s) s
/-- The budget and the throttle temperature of a die (R433, R434). -/
def bootBudget (s : State) (d : Nat) : State :=
  s.modDie d (fun k => { k with bud := s.mg.factory.budget, tlim := s.mg.factory.tlim })
/-- The capability list (R432). -/
def capList : Tab Dword :=
  [(0x200, 0x020202010001#64), (0x201, 1#64), (0x202, 0x020402010002#64), (0x203, 7#64), (0x204, 0x020602010003#64),
   (0x205, 0x080001000010#64), (0x206, 0x020802010004#64), (0x207, 52428#64), (0x208, 0x02010005#64), (0x209, 127#64)]
/-- The record of a failure found at step 2 or later, at a die, cluster and core. Its cause is not named (R434): class, cause and sub
code are free. -/
def bootRecord (s : State) (die clus core : Nat) : State :=
  let (a, s) := s.choose 8
  let (b, s) := s.choose 256
  let (c, s) := s.choose 256
  s.post { cls := a, cause := b, sub := c, die := die, clus := clus, core := core }
/-- A record for every cluster of a die that fails its test, and for every core of the others whose matrix engine has failed; where
the tests were not completed, which of these had been found is a free choice (R20, R434). -/
def bootFailures (s : State) (all : Bool) (d : Nat) : State :=
  let f := s.mg.factory
  let bad := ~~~(goodClusters f d) ||| tget f.failed d 0#12
  let mx := tget f.badMx d 0#48
  let found (s : State) (k n : Nat) : State :=
    let (c, s) := if all then (0, s) else s.choose 2
    if c = 0 then s.bootRecord d k n else s
  let s := ((List.range 12).filter bad.getLsbD).foldl (fun (s : State) k => found s k 0) s
  ((List.range 48).filter (fun n => mx.getLsbD n && !bad.getLsbD (n / 4))).foldl (fun (s : State) n => found s (n / 4) (n % 4)) s
/-- A step of boot (R434). Steps 1 and 6 leave nothing that the model holds: where the fault queue, the spill regions and the
reserves lie shows nowhere. -/
def bootStep (s : State) (n : Nat) : State :=
  let f := s.mg.factory
  match n with
  | 2 => allDies.foldl (bootFailures · true) s
  | 3 => allDies.foldl bootDie s
  | 4 => { s with mg := { s.mg with chip := BitVec.ofNat 18 f.chip }, fab := { s.fab with route := f.route.map (fun e => (e.1, BitVec.ofNat 32 (e.2.toNat % 2 ^ 14))) } }
  | 5 => (List.range 9).foldl (fun (s : State) d => s.modDie d (fun k => { k with htbase := tget f.htbase d 0 }))
      { s with mg := { s.mg with keys := f.keys.filter (fun k => 1 ≤ k.1 && k.1 < 64) } }
  | 7 => allDies.foldl bootBudget s
  | 8 => { s with mg := { s.mg with caps := capList } }
  | 9 => { s with mg := { s.mg with ready := true } }
  | _ => s

end State

/-- PACKAGE_POWER_ON_RESET: everything is as at reset but what the part itself is and what is to come from outside, and the
management core boots the package (R25, R434). -/
def execPackagePowerOnReset (s : State) : Out :=
  let s : State := { State.reset with agenda := [], fresh := s.fresh, inputs := s.inputs, upsets := s.upsets, mg := { factory := s.mg.factory } }
  match s.mg.factory.fail with
  | none => .next ((List.range 9).foldl (fun (s : State) k => s.bootStep (k + 1)) s)
  | some (k, why) =>
    let s := (List.range (k - 1)).foldl (fun (s : State) j => s.bootStep (j + 1)) s
    let s : State := { s with mg := { s.mg with fail := true, step := k, why_ := why } }
    let s := if k = 2 then State.allDies.foldl (State.bootFailures · false) s else s
    .next (if 2 ≤ k then s.bootRecord 0 0 0 else s)

/-! ### Launch queues and completion rings (R67, R68, R429, R430) -/

/-- LAUNCH_QUEUE_ENABLE: n, the queue; v, the value written to LQCFG while en = 0. A size that is not allowed leaves en at 0;
before boot is complete the write is ignored (R67, R434). Enabling clears lqstat.stale and lqstat.fwait (DESIGN CHOICE, log 85). -/
def execLaunchQueueEnable (s : State) : Out :=
  let (q, v) := (s.arg.n, s.arg.v)
  if 32 ≤ q || !s.mg.ready || (s.lqueue q).en then .next s
  else
    let lg := fld v 2 4
    let on : Bool := bit v 0 && 4 ≤ lg && lg ≤ 12
    .next (s.modLq q (fun u =>
      let u := { u with en := on, dev := bit v 1, lg := lg, base := fld v 12 52 * 4096 }
      if on then { u with head := 0#32, tail := 0#32, stale := false, fwait := false, busy := false, rereads := 0, ready := none } else u))

/-- LAUNCH_QUEUE_DISABLE: n, the queue: a write to LQCFG that clears en. Popping stops (R67); lqstat.fwait clears and
lqstat.stale stays (DESIGN CHOICE, log 85). -/
def execLaunchQueueDisable (s : State) : Out :=
  let q := s.arg.n
  if 32 ≤ q || !s.mg.ready then .next s
  else
    let s : State := { s with sched := s.sched.filter (fun e => !(e.ev = .queueHeadReread && e.arg.n = q)) }
    .next (s.modLq q (fun u => { u with en := false, busy := false, rereads := 0, ready := none, fwait := false }))

/-- LAUNCH_QUEUE_NOTIFY: n, the queue; v, the value written to LQDB (R67, R68, R72). -/
def execLaunchQueueNotify (s : State) : Out :=
  let (q, t) := (s.arg.n, BitVec.ofNat 32 s.arg.v)
  let u := s.lqueue q
  if 32 ≤ q || !u.en || u.dev then .next s
  else if 2 ^ u.lg < (t - u.head).toNat || 2 ^ u.lg < (t - u.tail).toNat then
    .next ((s.modLq q (fun u => { u with ovr := true })).post { cls := 5, cause := 0, sub := 2, info := q })
  else .next (s.modLq q (fun u => { u with tail := t, stale := false }))

/-- COMPLETION_RING_ENABLE: n, the queue; v, the value written to LQCR. Setting en zeroes both counts (R429). -/
def execCompletionRingEnable (s : State) : Out :=
  let (q, v) := (s.arg.n, s.arg.v)
  if 32 ≤ q then .next s
  else
    let lg := fld v 1 4
    let on : Bool := bit v 0 && 4 ≤ lg && lg ≤ 12
    let s := s.modLq q (fun u =>
      let u := { u with cren := on, crlg := lg, crbase := fld v 12 52 * 4096 }
      if on then { u with crhead := 0#32, crtail := 0#32 } else u)
    .next (if (s.lqueue q).crwait.isEmpty then s else s.now_ .completionRecordWrite { n := q })

/-! ### The cancel set (R77) -/

/-- LQCANSET: v, the GIN the host writes: a cancel token that arrives at once (R77). -/
def execLqcanset (s : State) : Out := .next (s.now_ .cancelTokenArrival { n := s.arg.v % 2 ^ 32 })

/-- LQCANCLR: v, the GIN. A token that waits takes the room (R77). -/
def execLqcanclr (s : State) : Out :=
  let set := s.dist.cancel.filter (· != s.arg.v % 2 ^ 32)
  let n := Config.cancelMax - set.length
  .next { s with dist := { s.dist with cancel := set ++ s.dist.cancelWait.take n, cancelWait := s.dist.cancelWait.drop n } }

/-! ### Resolves (R281, R331, R334, R412) -/

/-- What a context still awaits of the accesses that were refused as absent is asked again, or given up (R281; logs 31, 99). -/
def State.pinsAgain (s : State) (c x : Nat) (again : Bool) : State :=
  (s.reqs.filter (fun r => r.who = .ctx c x && r.served && r.code = 2)).foldl (fun (s : State) r =>
    if again then s.askAgain r 0
    else (s.endReq r.id).settle r) s

/-- FQRES: n, the record; m, the code. 0 runs again from the mark, or resumes the command; 1 raises the page fault, or the
engine fault whose sub code repeats cause 0x16; other codes, and numbers of no waiting record, are ignored (R412). -/
def execFqres (s : State) : Out :=
  let (seq, code) := (s.arg.n % 2 ^ 32, s.arg.m % 4)
  match s.fq.waits.find? (fun w => w.1 = seq) with
  | none => .next s
  | some (_, c, x, who) =>
    if 2 ≤ code then .next s
    else
      let s : State := { s with fq := { s.fq with waits := s.fq.waits.filter (fun w => w.1 != seq) } }
      match who with
      | none =>
        let k := s.ctx c x
        let eng : Bool := k.why = .resolve seq true
        if !eng && k.why != .resolve seq false then .next s
        else if code = 0 then
          .next (State.pinsAgain (s.modCtx c x (fun k => { k with status := .ready, why := .none, boundary := false })) c x true)
        else
          let t : Trap := if eng then { cause := 0x14, sub := 0x16, slot := 6 } else { cause := 0x12, sub := 3 }
          .next (State.pinsAgain (s.programError c x t k.r.pc.toNat) c x false)
      | some id =>
        match s.copy? id, s.run? id, s.wait? id with
        | some r, _, _ =>
          if r.parked != some seq then .next s
          else
            let s := s.modTl r.cmd.core r.cmd.tl (fun t => { t with park := t.park - 1 })
            let r := { r with parked := none, phase := .retry }
            let s := s.modCopy id (fun _ => r)
            .next (if code = 0 then s.now_ .copyPieceRetry { id := id } else s.copyFault r 0x16 r.codeAt 0)
        | none, some r, _ =>
          match s.inst? r.inst with
          | none => .next s
          | some i => .next (if code = 0 then s.now_ .collStepStart { id := id, flag := true } else s.stepFault i r.step 2 0x14 0x16 0 0)
        | none, none, some w => .next (if code = 0 then s.now_ .cstabLoad { id := id, flag := true } else s.waitFault w 2 0x14 0x16 0 0)
        | none, none, none => .next s

/-! ### Invalidations (R279) -/

namespace State

/-- The last invalidation of a die covers the addresses [a, a + n) of an ASID (R279). -/
def invCovers (k : Die) (asid a n : Nat) : Bool :=
  asid = k.htAsid && (k.htAll || (a < (k.htPage + 1) * 2 ^ 18 && k.htPage * 2 ^ 18 < a + n))
/-- The last invalidation of a die, or one written before it that has not completed, covers an address (R279). -/
def invOpen (k : Die) (asid a : Nat) : Bool :=
  invCovers k asid a 1 || k.htOpen.any (fun o => invCovers { k with htAsid := o.1, htAll := o.2.1, htPage := o.2.2 } asid a 1)
/-- The invalidation under way on a die may complete: with those before it that had not (R279). -/
def invDue (s : State) (d : Nat) : Bool :=
  match (s.die d).htBusy with
  | none => false
  | some ws => ws.all (fun w => !(s.die d).walkers.contains w) && !s.grantOut (invOpen (s.die d))

end State

/-- HTINV: n, the die; v, the value written: cached translations go; the invalidation completes when the walks and grants of now
are over (R279). -/
def execHtinv (s : State) : Out :=
  let (d, v) := (s.arg.n, s.arg.v)
  if 9 ≤ d then .next s
  else .next (s.modDie d (fun k =>
    let open_ := if k.htBusy.isSome then k.htOpen ++ [(k.htAsid, k.htAll, k.htPage)] else []
    let k := { k with htAsid := fld v 0 16, htAll := bit v 16, htPage := fld v 18 46, htDone := false, htOpen := open_,
                      htBusy := some ((k.htBusy.getD []).filter k.walkers.contains ++ k.walkers) }
    { k with tc := k.tc.filter (fun t => !State.invCovers k t.1 t.2.1 t.2.2.1), wc := k.wc.filter (fun w => w.1 != k.htAsid) }))

/-- HTINV_COMPLETE: n, the die (R279). -/
def execHtinvComplete (s : State) : Out :=
  if s.invDue s.arg.n then .next (s.modDie s.arg.n (fun k => { k with htBusy := none, htOpen := [], htDone := true })) else .next s

/-! ### Page moves (R449) -/

namespace State

/-- One line moved with what its home keeps of it; under a key slot the bytes are encrypted anew for their new place (R286,
R449). -/
def moveLine (s : State) (key l m : Nat) : State :=
  let info := s.line (128 * l)
  let s := (s.ckCopy (128 * m)).lineWrite key m (s.lineRead key l)
  s.modLine (128 * m) (fun _ => info)
/-- The new place of a byte of the moved frame. -/
def movedPlace (v m n p : Nat) : Nat := if v ≤ p && p < v + n then p - v + m else p

end State

/-- PAGE_MOVE: v, the old frame; m, the new one; n, its bytes; id, the key slot of its range. The move begins only after the
invalidation that marked the page has completed, and waits for room in a checkpoint's reserve (R406, R449). -/
def execPageMove (s : State) : Out :=
  let (v, m, n, key) := (s.arg.v / 128 * 128, s.arg.m / 128 * 128, s.arg.n, s.arg.id)
  if Config.ppaLimit < v + n || Config.ppaLimit < m + n then .fault (.noMemory (max v m))
  else if (s.die (v / 2 ^ 37)).htBusy.isSome || s.ckStuck m n then .next (s.sched_ (s.pcyc + 1) 0 .pageMove s.arg)
  else
    let s := (List.range (n / 128)).foldl (fun (s : State) i => s.moveLine key (v / 128 + i) (m / 128 + i)) s
    let mv := State.movedPlace v m n
    let gone (p : Nat) : Bool := (v ≤ p && p < v + n) || (m ≤ p && p < m + n)
    .next { s with
      upds := s.upds.map (fun (u : Upd) => { u with p := mv u.p }),
      reqs := s.reqs.map (fun (r : Req) => { r with p := r.p.map mv }),
      hearth := s.hearth.filter (fun l => !gone l.va),
      clus := s.clus.map (fun (k : Nat × Clus) => (k.1, { k.2 with l2 := k.2.l2.map (fun (l : CLine) => { l with home := l.home.map mv }) })) }

/-! ### Link receive queues and registers (R9) -/

/-- LRQ_CLOSE: n, the queue: every message it holds is discarded, and requests for room are refused; room promised to messages on
their way is freed as they arrive (R397, R398). -/
def execLrqClose (s : State) : Out :=
  let q := s.lrq s.arg.n
  if !q.en then .next s
  else
    let held := (q.msgs.map (fun m => units m.bytes.length)).foldl (· + ·) 0
    let s := s.modLrq s.arg.n (fun q => { q with en := false, msgs := [], room := [], used := q.used - held })
    .next (q.room.foldl (fun (s : State) r => s.toPort (.roomRep r.1 r.2.1 false)) s)

/-- REGISTER_WRITE: reg, the register; v, the value (R9). -/
def execRegisterWrite (s : State) : Out :=
  let v := s.arg.v
  match s.arg.reg with
  | none => .next s
  | some r => match r with
    | .htbase d => .next (if d < 9 then s.modDie d (fun k => { k with htbase := v % 2 ^ 64 }) else s)
    | .bellows d => .next (if d < 8 then (s.modDie d (fun k => { k with bud := fld v 0 16, tlim := fld v 16 8 })).regrant d else s)
    | .lrq q => .next (if 64 ≤ q then s else if bit v 0 then s.modLrq q (fun u => { u with en := true }) else s.now_ .lrqClose { n := q })
    | .keySlot n k1 k2 => .next (if 1 ≤ n && n < 64 then { s with mg := { s.mg with keys := tset s.mg.keys n (k1, k2) } } else s)
    | .lqstat q => .next (if q < 32 && bit v 66 then s.modLq q (fun u => { u with ovr := false }) else s)
    | .lqch q =>
      if 32 ≤ q then .next s
      else
        let s := s.modLq q (fun u => { u with crhead := BitVec.ofNat 32 v })
        .next (if (s.lqueue q).crwait.isEmpty then s else s.now_ .completionRecordWrite { n := q })
    | .slotmap c => .next (s.modCore c (fun k => { k with slotmap := BitVec.ofNat 5 v }))
    | .pmctl c =>
      let w (k : Core) : Nat := fld v 0 6 + Bool.code (k.pmctl.getLsbD 7) * 2 ^ 7 + Bool.code (k.pmctl.getLsbD 8) * 2 ^ 8 + pmArea v
      .next (s.modCore c (fun k => { k with pmctl := BitVec.ofNat 64 (w k) }))
    | .retireBank c b => .next (if b < 32 then s.retireBank c b else s)
    | .saveArea => .next { s with mg := { s.mg with areas := s.mg.areas ++ [pmArea v] } }
    | .freeFrame d => .next (if d < 8 then s.modDie d (fun k => { k with frames := k.frames ++ [v / 4096 * 4096] }) else s)
    | .ftRemove asid => .next { s with ftdir := s.ftdir.filter (fun p => !(p.1 = asid && p.2.1 = v / 4096)) }

/-- LQSTAT (R67). -/
def LQueue.stat (u : LQueue) : Nat :=
  u.head.toNat + u.tail.toNat * 2 ^ 32 + Bool.code u.stale * 2 ^ 64 + Bool.code u.fwait * 2 ^ 65 + Bool.code u.ovr * 2 ^ 66
    + Bool.code ((u.tail - u.head).toNat = 2 ^ u.lg) * 2 ^ 67
/-- An entry of a promotion log (R348). -/
def PLog.word (e : PLog) : Nat :=
  let r (i : Nat) : Nat × Nat := e.ranges.getD i (0, 0)
  1 + e.st * 2 + e.ctx * 2 ^ 3 + Bool.code e.clus * 2 ^ 6 + e.ranges.length * 2 ^ 7 + e.asid * 2 ^ 16 + (e.seq.getD 0) * 2 ^ 32
    + e.sn % 2 ^ 32 * 2 ^ 64 + e.sync * 2 ^ 96 + (r 0).1 * 2 ^ 160 + (r 0).2 * 2 ^ 224 + (r 1).1 * 2 ^ 288 + (r 1).2 * 2 ^ 352
/-- LINKSTAT (R395). -/
def Link.stat (l : Link) : Nat :=
  let retr := l.retr.toNat
  l.tx.toNat + l.rx.toNat * 2 ^ 8 + ((retr % 2 ^ 8) ||| (retr / 2 ^ 8)) * 2 ^ 16 + Bool.code l.down * 2 ^ 24 + min l.rpl (2 ^ 31 - 1) * 2 ^ 25

/-- A read of a register by the host or the management core: a field marked w and a reserved bit read as zero, any other field
as it stands; a read changes nothing (R9). -/
def State.hostRead (s : State) (r : HostReg) : Nat :=
  match r with
  | .lqcfg q =>
    let u := s.lqueue q
    Bool.code u.en + Bool.code u.dev * 2 + u.lg * 2 ^ 2 + u.base / 4096 * 2 ^ 12
  | .lqdb _ | .lqcanset | .lqcanclr | .fqres => 0
  | .lqstat q => (s.lqueue q).stat
  | .lqcr q =>
    let u := s.lqueue q
    Bool.code u.cren + u.crlg * 2 + u.crbase / 4096 * 2 ^ 12
  | .lqch q => (s.lqueue q).crhead.toNat + (s.lqueue q).crtail.toNat * 2 ^ 32
  | .mgstat => Bool.code s.mg.ready + Bool.code s.mg.fail * 2 + s.mg.step * 2 ^ 2 + s.mg.why_ * 2 ^ 8
  | .htbase d => (s.die d).htbase
  | .htinv d => Bool.code (s.die d).htDone * 2 ^ 17
  | .keyval => bits ((List.range 64).map (fun n => n != 0 && s.mg.keys.any (fun k => k.1 = n)))
  | .plog c n => match (s.core c).plog.find? (fun e => e.no = n) with | some e => e.word | none => 0
  | .linkstat n => (s.link n).stat
  | .lrq q =>
    let u := s.lrq q
    Bool.code u.en + u.used * 2 + u.msgs.length * 2 ^ 16 + min u.drop (2 ^ 32 - 1) * 2 ^ 32
  | .pmctl c => (s.core c).pmctl.toNat
  -- a write that has yet to take effect is the last value written (R9, R393)
  | .rt chip => (tget s.fab.routeNew chip (tget s.fab.route chip 0#32)).toNat
  | .bellows d => (s.die d).bud + (s.die d).tlim * 2 ^ 16 + (s.die d).temp * 2 ^ 24 + Bool.code ((s.die d).thr != 0) * 2 ^ 32
  | .dietopo d => (s.die d).topo.toNat
  | .diecore d => (s.die d).cores.toNat

/-! ### The host port (R70, R282) -/

namespace State

/-- Bytes l from place p on, which lie in one line, written by the host port: a write of the line (R282). A partial write of a
line with an uncorrectable error leaves it as it is (R411). -/
def hostWrite (s : State) (p : Nat) (l : List Byte) : State :=
  if (s.line p).err && l.length < 128 then s
  else (s.homeWrite 0 p l.length (ofBytes l) (2 ^ l.length - 1) 0 false).patchPinned p (ofBytes l) (2 ^ l.length - 1)

/-- Bytes from place p on, line by line, in at most n lines. -/
def hostLines (s : State) (p : Nat) (l : List Byte) : Nat → State
  | 0 => s
  | n + 1 =>
    if l.isEmpty then s
    else
      let k := 128 - p % 128
      (s.hostWrite p (l.take k)).hostLines (p + k) (l.drop k) n

end State

/-- What the host writes, none of which passes a write posted before it (R70). -/
def hostPosted : Instr → Bool
  | .hostPortMemoryWrite | .launchQueueNotify | .launchQueueEnable | .launchQueueDisable | .completionRingEnable
  | .lqcanset | .lqcanclr | .fqres | .registerWrite => true
  | _ => false
/-- The host's writes still to be made in this clock follow one that waits (R70). -/
def State.deferPosted (s : State) : State :=
  let late (t : Task) : Bool := match t with
    | .ev i _ => hostPosted i
    | _ => false
  (s.agenda.filter late).foldl (fun (s : State) t => match t with
    | .ev i a => s.sched_ (s.pcyc + 1) 0 i a
    | _ => s) { s with agenda := s.agenda.filter (fun t => !late t) }

/-- HOST_PORT_MEMORY_WRITE: v, the package physical address; bytes (R70, R267). -/
def execHostPortMemoryWrite (s : State) : Out :=
  let (p, l) := (s.arg.v, s.arg.bytes)
  if Config.ppaLimit < p + l.length then .fault (.noMemory p)
  -- a line that a tile not yet compared names keeps the write waiting (R284), and so does a full checkpoint reserve (R406)
  else if s.ckStuck p l.length || (List.range ((p + l.length + 127) / 128 - p / 128)).any (fun i => (s.pinnedBy ((p / 128 + i) * 128)).isSome) then
    .next (s.sched_ (s.pcyc + 1) 0 .hostPortMemoryWrite s.arg).deferPosted
  else .next (s.hostLines p l (l.length / 128 + 2))

/-! ### The checkpoint drain (R405 to R407) -/

namespace State

/-- Units of a stack that are drained. -/
def drainedOf (s : State) (st : Nat) : Nat := (s.ck.drained.filter (fun u => u / 1048576 = st)).length
/-- Grants that waited for a unit, of those that `of` picks, ask again. -/
def ckRetry (s : State) (of : Nat × Nat → Bool) : State :=
  let go := s.ck.waits.filter of
  go.foldl (fun (s : State) w => s.sched_ (s.pcyc + 1) 0 .homeRequest { id := w.1, flag := true })
    { s with ck := { s.ck with waits := s.ck.waits.filter (fun w => !of w) } }
/-- The unit that is streamed next: each stack in rising PPA, the stacks in turn (R407). -/
def ckNext (s : State) : Option Nat :=
  let st := (List.range 16).foldl (fun b t => if s.drainedOf t < s.drainedOf b then t else b) 0
  let k := s.drainedOf st
  if k < 1048576 - 52428 then some (st * 1048576 + k) else none

end State

/-- CHECKPOINT_DRAIN_OPEN: n, the safe tier: a chip id, or 2^18 for the host (R405, R407). -/
def execCheckpointDrainOpen (s : State) : Out :=
  if s.ck.open_ then .next s
  else
    let s := s.upds.foldl (fun (s : State) u => s.mergeUpds u.p u.w) s
    .next { s with ck := { open_ := true, tier := some s.arg.n } }

/-- CHECKPOINT_UNIT_DRAINED: the safe tier has acknowledged the unit whose turn it is; it holds the bytes of the opening clock
(R405 to R407). -/
def execCheckpointUnitDrained (s : State) : Out :=
  if !s.ck.open_ || s.ck.stopped then .next s
  else match s.ckNext with
    | none => .next s
    | some u =>
      let bytes := match s.ck.copies.find? (fun k => k.1 = u) with
        | some k => k.2
        | none => s.mem.filter (fun c => c.1 / 65536 = u)
      let s : State := { s with ck := { s.ck with drained := s.ck.drained ++ [u], copies := s.ck.copies.filter (fun k => k.1 != u),
                                                  image := s.ck.image ++ [(u, bytes)] } }
      let s := s.ckRetry (fun w => w.2 = u)
      .next (if s.ckNext.isNone then s.now_ .checkpointDrainClose {} else s)

/-- CHECKPOINT_DRAIN_CLOSE: no unit is undrained, or the management core closes the drain (R407). The image stays with the safe
tier. -/
def execCheckpointDrainClose (s : State) : Out :=
  if !s.ck.open_ then .next s
  else .next (State.ckRetry { s with ck := { s.ck with open_ := false, drained := [], copies := [], stopped := false } } (fun _ => true))

/-- SAFE_TIER_FAULT: the drain stops, every unit not yet drained stays so, and the management core has a report (R407). The spec gives
this report no sub code: it is free (R410). -/
def execSafeTierFault (s : State) : Out :=
  if !s.ck.open_ then .next s
  else
    let (n, s) := s.choose 256
    .next (State.post { s with ck := { s.ck with stopped := true } } { cls := 5, cause := 0, sub := n })

end Sys2Proof.Machine
end

