-- ==== Sys2Proof/Machine/Vector.lean ====
section
/-! DEFINITION. Vector, mask, reduction, conversion and Billet instructions (R180 to R208). -/

namespace Sys2Proof.Machine

/-! ### Shared forms -/

/-- An instruction of fixed distance that writes a vector or mask register (R140, R182). -/
def vecOp (i : Instr) (okTy : Bool) (dist : Nat) (w : State → RegWrite) (s : State) : Out :=
  perform i (need okTy formatFault) .go (fun s => s.result dist (w s)) s

/-- Value of element i of vA, flushed in exposed mode (R186). -/
def State.va (s : State) (o : VOp) (i : Nat) : Num := operand o.ty s.exposed (s.ea o i)
/-- Value of element i of B (R183, R186). -/
def State.vb (s : State) (o : VOp) (b : BSrc) (i : Nat) : Num := operand o.ty s.exposed (s.bsrc b o.ty.width i)
/-- Value of element i of vC (R186). -/
def State.vc (s : State) (o : VOp) (c : VReg) (i : Nat) : Num := operand o.ty s.exposed (elem o.ty.width (s.rv c).toNat i)
/-- Rounded, saturated and flushed (R186). -/
def State.fin (s : State) (o : VOp) (rm : Rm) (sat : Bool) (x : Num) : Nat := finish o.ty (s.rm rm) sat s.exposed x
/-- Integer of element i of vA (R191). -/
def State.ia (s : State) (o : VOp) (i : Nat) : Int := intValue o.ty (s.ea o i)
/-- Integer of element i of B (R191). -/
def State.ib (s : State) (o : VOp) (b : BSrc) (i : Nat) : Int := intValue o.ty (s.bsrc b o.ty.width i)

/-- Clocks within which VDIV and VSQRT land (R453). -/
def vdivRange : Ty → Nat × Nat
  | .f64 => (24, 96)
  | .f32 => (16, 64)
  | _ => (12, 48)

/-- VDIV and VSQRT (R54, R187): the whole destination is pending until every element has landed. Between the format fault and the mode
trap of one bundle the spec gives no order: the model takes the format fault (DESIGN CHOICE, log 110). -/
def vecVar (i : Instr) (ty : Ty) (okB : Bool) (w : State → RegWrite) (s : State) : Out :=
  perform i (if !isFP ty || !okB then some formatFault else need (!s.exposed) modeTrap) .go
    (fun s => s.varRange (vdivRange ty).1 (vdivRange ty).2 (w s)) s

/-! ### Floating point (R186 to R190) -/

/-- VADD (R186). -/
def execVadd (o : VOp) (b : BSrc) (rm : Rm) (sat : Bool) (s : State) : Out :=
  vecOp (.vadd o b rm sat) (isFP o.ty && bsrcOk o.ty b) 6
    (fun s => s.vwrite o (fun i => s.fin o rm sat (sumOf [s.va o i, s.vb o b i] (s.rm rm)))) s

/-- VSUB (R186). -/
def execVsub (o : VOp) (b : BSrc) (rm : Rm) (sat : Bool) (s : State) : Out :=
  vecOp (.vsub o b rm sat) (isFP o.ty && bsrcOk o.ty b) 6
    (fun s => s.vwrite o (fun i => s.fin o rm sat (sumOf [s.va o i, (s.vb o b i).neg] (s.rm rm)))) s

/-- VMUL (R186). -/
def execVmul (o : VOp) (b : BSrc) (rm : Rm) (sat : Bool) (s : State) : Out :=
  vecOp (.vmul o b rm sat) (isFP o.ty && bsrcOk o.ty b) 6
    (fun s => s.vwrite o (fun i => s.fin o rm sat ((s.va o i).mul (s.vb o b i)))) s

/-- VFMA (R186). -/
def execVfma (o : VOp) (b : BSrc) (c : VReg) (rm : Rm) (sat : Bool) (s : State) : Out :=
  vecOp (.vfma o b c rm sat) (isFP o.ty && bsrcOk o.ty b) 6
    (fun s => s.vwrite o (fun i => s.fin o rm sat
      (sumOf [(s.va o i).mul (s.vb o b i), s.vc o c i] (s.rm rm)))) s

/-- VFMS (R186). -/
def execVfms (o : VOp) (b : BSrc) (c : VReg) (rm : Rm) (sat : Bool) (s : State) : Out :=
  vecOp (.vfms o b c rm sat) (isFP o.ty && bsrcOk o.ty b) 6
    (fun s => s.vwrite o (fun i => s.fin o rm sat
      (sumOf [(s.va o i).mul (s.vb o b i), (s.vc o c i).neg] (s.rm rm)))) s

/-- VFNMA (R186). -/
def execVfnma (o : VOp) (b : BSrc) (c : VReg) (rm : Rm) (sat : Bool) (s : State) : Out :=
  vecOp (.vfnma o b c rm sat) (isFP o.ty && bsrcOk o.ty b) 6
    (fun s => s.vwrite o (fun i => s.fin o rm sat
      (sumOf [s.vc o c i, ((s.va o i).mul (s.vb o b i)).neg] (s.rm rm)))) s

/-- VDIV (R186, R187). -/
def execVdiv (o : VOp) (b : BSrc) (rm : Rm) (sat : Bool) (s : State) : Out :=
  vecVar (.vdiv o b rm sat) o.ty (bsrcOk o.ty b)
    (fun s => s.vwrite o (fun i => s.fin o rm sat ((s.va o i).div (s.vb o b i)))) s

/-- VSQRT (R186, R187). -/
def execVsqrt (o : VOp) (rm : Rm) (sat : Bool) (s : State) : Out :=
  vecVar (.vsqrt o rm sat) o.ty true (fun s => s.vwrite o (fun i => s.fin o rm sat (s.va o i).sqrt)) s

/-- VMIN (R188). -/
def execVmin (o : VOp) (b : BSrc) (sat : Bool) (s : State) : Out :=
  vecOp (.vmin o b sat) (isFP o.ty && bsrcOk o.ty b) 2
    (fun s => s.vwrite o (fun i => encodeF o.ty (satF o.ty sat (minMax false (s.va o i) (s.vb o b i))))) s

/-- VMAX (R188). -/
def execVmax (o : VOp) (b : BSrc) (sat : Bool) (s : State) : Out :=
  vecOp (.vmax o b sat) (isFP o.ty && bsrcOk o.ty b) 2
    (fun s => s.vwrite o (fun i => encodeF o.ty (satF o.ty sat (minMax true (s.va o i) (s.vb o b i))))) s

/-- VABS (R188). -/
def execVabs (o : VOp) (sat : Bool) (s : State) : Out :=
  vecOp (.vabs o sat) (isFP o.ty) 2 (fun s => s.vwrite o (fun i => encodeF o.ty (satF o.ty sat (s.va o i).abs))) s

/-- VNEG (R188). -/
def execVneg (o : VOp) (sat : Bool) (s : State) : Out :=
  vecOp (.vneg o sat) (isFP o.ty) 2 (fun s => s.vwrite o (fun i => encodeF o.ty (satF o.ty sat (s.va o i).neg))) s

/-- The signed integer of width w that VSCALB reads (R189). -/
def signedOf (w x : Nat) : Int := if 2 ^ (w - 1) ≤ x then (x : Int) - 2 ^ w else x

/-- VSCALB (R189). -/
def execVscalb (o : VOp) (b : BSrc) (rm : Rm) (sat : Bool) (s : State) : Out :=
  vecOp (.vscalb o b rm sat) (isFP o.ty && bsrcOk o.ty b) 6
    (fun s => s.vwrite o (fun i => s.fin o rm sat
      ((s.va o i).scalb (signedOf o.ty.width (s.bsrc b o.ty.width i))))) s

/-- VRCP (R190). -/
def execVrcp (o : VOp) (rm : Rm) (sat : Bool) (s : State) : Out :=
  vecOp (.vrcp o rm sat) (isFP o.ty) 12 (fun s => s.vwrite o (fun i => s.fin o rm sat (s.va o i).rcp)) s

/-- VRSQ (R190). -/
def execVrsq (o : VOp) (rm : Rm) (sat : Bool) (s : State) : Out :=
  vecOp (.vrsq o rm sat) (isFP o.ty) 12 (fun s => s.vwrite o (fun i => s.fin o rm sat (s.va o i).rsq)) s

/-- VEXP2 (R190). -/
def execVexp2 (o : VOp) (rm : Rm) (sat : Bool) (s : State) : Out :=
  vecOp (.vexp2 o rm sat) (isFP o.ty) 12 (fun s => s.vwrite o (fun i => s.fin o rm sat (s.va o i).exp2)) s

/-- VLOG2 (R190). -/
def execVlog2 (o : VOp) (rm : Rm) (sat : Bool) (s : State) : Out :=
  vecOp (.vlog2 o rm sat) (isFP o.ty) 12 (fun s => s.vwrite o (fun i => s.fin o rm sat (s.va o i).log2)) s

/-! ### Integer (R191, R192) -/

/-- VIADD (R191). -/
def execViadd (o : VOp) (b : BSrc) (sat : Bool) (s : State) : Out :=
  vecOp (.viadd o b sat) (isInt o.ty) 3 (fun s => s.vwrite o (fun i => wrapInt o.ty sat (s.ia o i + s.ib o b i))) s

/-- VISUB (R191). -/
def execVisub (o : VOp) (b : BSrc) (sat : Bool) (s : State) : Out :=
  vecOp (.visub o b sat) (isInt o.ty) 3 (fun s => s.vwrite o (fun i => wrapInt o.ty sat (s.ia o i - s.ib o b i))) s

/-- VIMUL (R191). -/
def execVimul (o : VOp) (b : BSrc) (sat : Bool) (s : State) : Out :=
  vecOp (.vimul o b sat) (isInt o.ty) 5 (fun s => s.vwrite o (fun i => wrapInt o.ty sat (s.ia o i * s.ib o b i))) s

/-- VIMAD (R191). -/
def execVimad (o : VOp) (b : BSrc) (c : VReg) (sat : Bool) (s : State) : Out :=
  vecOp (.vimad o b c sat) (isInt o.ty) 5
    (fun s => s.vwrite o (fun i =>
      wrapInt o.ty sat (s.ia o i * s.ib o b i + intValue o.ty (elem o.ty.width (s.rv c).toNat i)))) s

/-- VIMIN (R191). -/
def execVimin (o : VOp) (b : BSrc) (s : State) : Out :=
  vecOp (.vimin o b) (isInt o.ty) 3 (fun s => s.vwrite o (fun i => wrapInt o.ty false (min (s.ia o i) (s.ib o b i)))) s

/-- VIMAX (R191). -/
def execVimax (o : VOp) (b : BSrc) (s : State) : Out :=
  vecOp (.vimax o b) (isInt o.ty) 3 (fun s => s.vwrite o (fun i => wrapInt o.ty false (max (s.ia o i) (s.ib o b i)))) s

/-- VAND (R191): bitwise on the encodings, every ty. -/
def execVand (o : VOp) (b : BSrc) (s : State) : Out :=
  vecOp (.vand o b) true 3 (fun s => s.vwrite o (fun i => s.ea o i &&& s.bsrc b o.ty.width i)) s

/-- VOR (R191): bitwise on the encodings, every ty. -/
def execVor (o : VOp) (b : BSrc) (s : State) : Out :=
  vecOp (.vor o b) true 3 (fun s => s.vwrite o (fun i => s.ea o i ||| s.bsrc b o.ty.width i)) s

/-- VXOR (R191): bitwise on the encodings, every ty. -/
def execVxor (o : VOp) (b : BSrc) (s : State) : Out :=
  vecOp (.vxor o b) true 3 (fun s => s.vwrite o (fun i => s.ea o i ^^^ s.bsrc b o.ty.width i)) s

/-- VPOPC (R191). -/
def execVpopc (o : VOp) (s : State) : Out :=
  vecOp (.vpopc o) (isInt o.ty) 3 (fun s => s.vwrite o (fun i => popcount (s.ea o i) o.ty.width)) s

/-- VIABS (R191). -/
def execViabs (o : VOp) (sat : Bool) (s : State) : Out :=
  vecOp (.viabs o sat) (isInt o.ty) 3 (fun s => s.vwrite o (fun i => wrapInt o.ty sat (s.ia o i).natAbs)) s

/-- The shift amount min(B[i], w) (R192). -/
def State.shAmt (s : State) (o : VOp) (b : BSrc) (i : Nat) : Nat := min (s.bsrc b o.ty.width i) o.ty.width

/-- VSHL (R192). -/
def execVshl (o : VOp) (b : BSrc) (sat : Bool) (s : State) : Out :=
  vecOp (.vshl o b sat) (isInt o.ty) 3
    (fun s => s.vwrite o (fun i => wrapInt o.ty sat (s.ia o i * 2 ^ s.shAmt o b i))) s

/-- VSHR: a is read unsigned (R192). -/
def execVshr (o : VOp) (b : BSrc) (s : State) : Out :=
  vecOp (.vshr o b) (isInt o.ty) 3 (fun s => s.vwrite o (fun i => s.ea o i / 2 ^ s.shAmt o b i)) s

/-- VSRA: a is read signed (R192). -/
def execVsra (o : VOp) (b : BSrc) (s : State) : Out :=
  vecOp (.vsra o b) (isInt o.ty) 3
    (fun s => s.vwrite o (fun i => wrapInt o.ty false (signedOf o.ty.width (s.ea o i) / 2 ^ s.shAmt o b i))) s

/-! ### Compares and masks (R193 to R196) -/

/-- The mask written lane by lane from a predicate on elements (R193). -/
def maskWrite (d : KReg) (w : Nat) (k : KWord) (z any : Bool) (p : Nat → Bool) : RegWrite :=
  let act : Nat → Bool := fun l => k.getLsbD (if w = 64 then 2 * (l / 2) else l)
  let per := 32 / w
  let q : Nat → Bool := fun l =>
    if w = 64 then p (l / 2)
    else
      let es := (List.range (max per 1)).map (fun j => p (l * max per 1 + j))
      if any then es.any id else es.all id
  .k d (BitVec.ofNat 512 (pack 1 (fun l => Bool.code (act l && q l)) 512 0))
    (BitVec.ofNat 512 (pack 1 (fun l => Bool.code (act l || z)) 512 0))

/-- VCMP (R193). -/
def execVcmp (ty : Ty) (d : KReg) (a : VReg) (b : BSrc) (k : KReg) (z : Bool) (p : Fin 8) (any : Bool) (s : State) : Out :=
  vecOp (.vcmp ty d a b k z p any) (bsrcOk ty b) 3
    (fun s => maskWrite d ty.width (s.rk k) z any (fun i =>
      predicate p.val (operand ty s.exposed (elem ty.width (s.rv a).toNat i))
        (operand ty s.exposed (s.bsrc b ty.width i)))) s

/-- VCLASS (R194). -/
def execVclass (ty : Ty) (d : KReg) (a : VReg) (k : KReg) (z : Bool) (set : BitVec 9) (any : Bool) (s : State) : Out :=
  vecOp (.vclass ty d a k z set any) (isFloat ty) 3
    (fun s => maskWrite d ty.width (s.rk k) z any (fun i => set.getLsbD (classOf ty (elem ty.width (s.rv a).toNat i)))) s

/-- KAND (R195). -/
def execKand (d a b : KReg) (s : State) : Out :=
  vecOp (.kand d a b) true 1 (fun s => .k d (s.rk a &&& s.rk b) (BitVec.allOnes 512)) s

/-- KOR (R195). -/
def execKor (d a b : KReg) (s : State) : Out :=
  vecOp (.kor d a b) true 1 (fun s => .k d (s.rk a ||| s.rk b) (BitVec.allOnes 512)) s

/-- KXOR (R195). -/
def execKxor (d a b : KReg) (s : State) : Out :=
  vecOp (.kxor d a b) true 1 (fun s => .k d (s.rk a ^^^ s.rk b) (BitVec.allOnes 512)) s

/-- KNOT (R195). -/
def execKnot (d a : KReg) (s : State) : Out :=
  vecOp (.knot d a) true 1 (fun s => .k d (~~~s.rk a) (BitVec.allOnes 512)) s

/-- KPOPC (R195). -/
def execKpopc (n : SReg) (a : KReg) (s : State) : Out :=
  vecOp (.kpopc n a) true 1 (fun s => .s n (BitVec.ofNat 64 (popcount (s.rk a).toNat 512))) s

/-- KMOV (R196). -/
def execKmov (f : KMov) (s : State) : Out :=
  vecOp (.kmov f) true 1
    (fun s => match f with
      | .mask d a => .k d (s.rk a) (BitVec.allOnes 512)
      | .toChunk d j n => .k d (BitVec.ofNat 512 ((s.rs n).toNat * 2 ^ (64 * j.val)))
          (BitVec.ofNat 512 ((2 ^ 64 - 1) * 2 ^ (64 * j.val)))
      | .fromChunk n a j => .s n (BitVec.ofNat 64 ((s.rk a).toNat / 2 ^ (64 * j.val)))) s

/-! ### Moves and permutes (R197 to R200) -/

/-- VMOV (R197). -/
def execVmov (o : VOp) (s : State) : Out := vecOp (.vmov o) true 2 (fun s => s.vwrite o (fun i => s.ea o i)) s

/-- VSEL (R197). -/
def execVsel (o : VOp) (b : VReg) (c : KReg) (s : State) : Out :=
  vecOp (.vsel o b c) true 2
    (fun s => s.vwrite o (fun i =>
      if active (s.rk c) i o.ty.width then s.ea o i else elem o.ty.width (s.rv b).toNat i)) s

/-- VBCAST (R198). -/
def execVbcast (ty : Ty) (d : VReg) (k : KReg) (z : Bool) (src : BcSrc) (s : State) : Out :=
  vecOp (.vbcast ty d k z src) (match src with | .imm _ => isInt ty | _ => true) 2
    (fun s =>
      let x := match src with
        | .elem a idx => elem ty.width (s.rv a).toNat idx.toNat
        | .scal n => (s.rs n).toNat % 2 ^ ty.width
        | .imm v => (v.toInt % (2 ^ ty.width : Int)).toNat
      maskedWrite d ty.width ty.count (fun i => active (s.rk k) i ty.width) z (fun _ => x)) s

/-- VIOTA (R198). -/
def execViota (ty : Ty) (d : VReg) (k : KReg) (z : Bool) (base : BitVec 16) (stride : BitVec 12) (s : State) : Out :=
  vecOp (.viota ty d k z base stride) (isInt ty) 2
    (fun s => maskedWrite d ty.width ty.count (fun i => active (s.rk k) i ty.width) z
      (fun i => ((base.toInt + i * stride.toInt) % (2 ^ ty.width : Int)).toNat)) s

/-- VPERM (R199). -/
def execVperm (o : VOp) (b : VReg) (zero : Bool) (s : State) : Out :=
  vecOp (.vperm o b zero) (16 ≤ o.ty.width) 4
    (fun s => s.vwrite o (fun i =>
      let x := elem o.ty.width (s.rv b).toNat i
      if x < o.ty.count then s.ea o x else if zero then 0 else s.ea o (x % o.ty.count))) s

/-- VROT (R199). -/
def execVrot (o : VOp) (r : BitVec 11) (s : State) : Out :=
  vecOp (.vrot o r) true 4
    (fun s => s.vwrite o (fun i => s.ea o ((i + o.ty.count - r.toNat % o.ty.count) % o.ty.count))) s

/-- The element number of VEXTR and VINS (R200). -/
def State.elemNo (s : State) (ty : Ty) (i : SReg) (off : BitVec 11) : Nat := ((s.rs i).toNat + off.toNat) % ty.count

/-- VEXTR (R200). -/
def execVextr (ty : Ty) (n : SReg) (a : VReg) (i : SReg) (off : BitVec 11) (s : State) : Out :=
  vecOp (.vextr ty n a i off) true 4
    (fun s => .s n (extend64 ty (elem ty.width (s.rv a).toNat (s.elemNo ty i off)))) s

/-- VINS (R200). -/
def execVins (ty : Ty) (d : VReg) (n i : SReg) (off : BitVec 11) (s : State) : Out :=
  vecOp (.vins ty d n i off) true 4
    (fun s => maskedWrite d ty.width ty.count (fun j => j = s.elemNo ty i off) false (fun _ => (s.rs n).toNat)) s

/-! ### Reductions (R201, R202) -/

/-- The active elements of vA (R201). -/
def State.members (s : State) (ty : Ty) (a : VReg) (k : KReg) : List Nat :=
  ((List.range ty.count).filter (fun i => active (s.rk k) i ty.width)).map (fun i => elem ty.width (s.rv a).toNat i)

/-- Element 0 := y and every other bit zero (R201). -/
def reduced (d : VReg) (y : Nat) : RegWrite := .v d (BitVec.ofNat 16384 y) (BitVec.allOnes 16384)

/-- VRSUM (R201). -/
def execVrsum (ty : Ty) (d a : VReg) (k : KReg) (rm : Rm) (sat : Bool) (s : State) : Out :=
  vecOp (.vrsum ty d a k rm sat) (isFP ty) 10
    (fun s =>
      let l := s.members ty a k
      reduced d (if l.isEmpty then 0
        else finish ty (s.rm rm) sat s.exposed (sumOf (l.map (operand ty s.exposed)) (s.rm rm)))) s

/-- The largest or smallest member (R201). -/
def State.extreme (s : State) (larger : Bool) (ty : Ty) (a : VReg) (k : KReg) (sat : Bool) : Nat :=
  let l := s.members ty a k
  if isFloat ty then
    encodeF ty (satF ty sat ((l.map (operand ty s.exposed)).foldl (minMax larger) (.inf larger)))
  else
    let r := intRange ty
    wrapInt ty false ((l.map (intValue ty)).foldl (fun x y => if larger then max x y else min x y)
      (if larger then r.1 else r.2))

/-- VRMAX (R201). -/
def execVrmax (ty : Ty) (d a : VReg) (k : KReg) (sat : Bool) (s : State) : Out :=
  vecOp (.vrmax ty d a k sat) (isFP ty || isInt ty) 10 (fun s => reduced d (s.extreme true ty a k sat)) s

/-- VRMIN (R201). -/
def execVrmin (ty : Ty) (d a : VReg) (k : KReg) (sat : Bool) (s : State) : Out :=
  vecOp (.vrmin ty d a k sat) (isFP ty || isInt ty) 10 (fun s => reduced d (s.extreme false ty a k sat)) s

/-- VIRSUM (R202). -/
def execVirsum (ty : Ty) (d a : VReg) (k : KReg) (sat : Bool) (s : State) : Out :=
  vecOp (.virsum ty d a k sat) (isInt ty) 10
    (fun s => reduced d (wrapInt (if isSigned ty then .i64 else .n64) sat
      (((s.members ty a k).map (intValue ty)).foldl (· + ·) 0))) s

/-! ### Conversions (R203 to R206) -/

/-- Operations of a conversion (R203). -/
def convN (ws wd : Nat) : Nat := 16384 / max ws wd
/-- Source element of operation i (R203). -/
def convSrc (ws wd p i : Nat) : Nat := if ws < wd then p * convN ws wd + i else i
/-- First destination element of the part (R203). -/
def convBase (ws wd p : Nat) : Nat := if wd < ws then p * convN ws wd else 0

/-- The write of a conversion: operation i to destination element base + i, inactive ones as z says, elements outside the
part not at all (R203). -/
def convWrite (d : VReg) (wd base n : Nat) (act : Nat → Bool) (z : Bool) (f : Nat → Nat) : RegWrite :=
  let inPart : Nat → Bool := fun j => base ≤ j && j < base + n
  .v d (BitVec.ofNat 16384 (pack wd (fun j => if inPart j && act (j - base) then f (j - base) else 0) (16384 / wd) 0))
    (BitVec.ofNat 16384 (pack wd (fun j => if inPart j && (act (j - base) || z) then 2 ^ wd - 1 else 0) (16384 / wd) 0))

/-- VCVT (R203, R204). -/
def execVcvt (o : VOp) (dst : Ty) (p : Fin 8) (rm : Rm) (sat : Bool) (s : State) : Out :=
  let ws := o.ty.width
  let wd := dst.width
  vecOp (.vcvt o dst p rm sat) true 6
    (fun s => convWrite o.d wd (convBase ws wd p.val) (convN ws wd) (fun i => active (s.rk o.k) i (max ws wd)) o.z
      (fun i => convert o.ty dst (s.rm rm) sat s.exposed (s.ea o (convSrc ws wd p.val i)))) s

/-- The generators as the bundle's earlier slots leave them (R61). -/
def State.gens (s : State) : Vector Word32 512 :=
  s.iss.effects.foldl (fun g e => match e with | .gens g' => g' | _ => g) s.cx.r.gens

/-- The operations of VCVTSR in order: each active finite one steps its lane's generator (R60, R205). -/
def stochRun (src dst : Ty) (sat exposed : Bool) (base : Nat) (act : Nat → Bool) (x : Nat → Nat) :
    Nat → Nat → Vector Word32 512 → List (Nat × Nat) → Vector Word32 512 × List (Nat × Nat)
  | 0, _, g, acc => (g, acc)
  | n + 1, i, g, acc =>
    if act i then
      let j := base + i
      let l := if dst.width = 64 then 2 * j else j * dst.width / 32
      let st := genStep (g.getD l 1#32)
      match stochastic src dst sat exposed (x i) st.toNat with
      | some v => stochRun src dst sat exposed base act x n (i + 1) (g.setIfInBounds l st) ((i, v) :: acc)
      | none => stochRun src dst sat exposed base act x n (i + 1) g ((i, reconvert src dst .rne sat exposed (x i)) :: acc)
    else stochRun src dst sat exposed base act x n (i + 1) g acc

/-- VCVTSR (R60, R61, R205). -/
def execVcvtsr (o : VOp) (dst : Ty) (p : Fin 8) (sat : Bool) (s : State) : Out :=
  let ws := o.ty.width
  let wd := dst.width
  perform (.vcvtsr o dst p sat) none .go
    (fun s =>
      let base := convBase ws wd p.val
      let act : Nat → Bool := fun i => active (s.rk o.k) i (max ws wd)
      let r := stochRun o.ty dst sat s.exposed base act (fun i => s.ea o (convSrc ws wd p.val i)) (convN ws wd) 0 s.gens []
      let vals := r.2.reverse
      (s.result 6 (convWrite o.d wd base (convN ws wd) act o.z
        (fun i => ((vals.find? (fun q => q.1 = i)).map (·.2)).getD 0))).effect (.gens r.1)) s

/-- The integer format of half, or of twice, the width, of the same signedness (R206). -/
def halfTy : Ty → Ty
  | .i64 => .i32 | .i32 => .i16 | .i16 => .i8 | .n64 => .n32 | .n32 => .n16 | .n16 => .n8
  | t => t
/-- As `halfTy`, twice the width (R206). -/
def doubleTy : Ty → Ty
  | .i8 => .i16 | .i16 => .i32 | .i32 => .i64 | .n8 => .n16 | .n16 => .n32 | .n32 => .n64
  | t => t

/-- VPACK (R206). -/
def execVpack (o : VOp) (b : VReg) (sat : Bool) (s : State) : Out :=
  let h := halfTy o.ty
  vecOp (.vpack o b sat) (isInt o.ty && h != o.ty) 6
    (fun s => maskedWrite o.d h.width h.count (fun i => active (s.rk o.k) i h.width) o.z
      (fun i => wrapInt h sat (intValue o.ty
        (if i < o.ty.count then s.ea o i else elem o.ty.width (s.rv b).toNat (i - o.ty.count))))) s

/-- VUNPK (R206). -/
def execVunpk (o : VOp) (p : Bool) (s : State) : Out :=
  let w2 := doubleTy o.ty
  vecOp (.vunpk o p) (isInt o.ty && w2 != o.ty) 6
    (fun s => maskedWrite o.d w2.width w2.count (fun i => active (s.rk o.k) i w2.width) o.z
      (fun i => wrapInt w2 false (intValue o.ty (s.ea o (Bool.code p * w2.count + i))))) s

/-! ### Billet (R207, R208) -/

/-- VQBLK (R65, R208). -/
def execVqblk (ty : Ty) (d a : VReg) (rm : Rm) (sat : Bool) (blk : BlkImm) (s : State) : Out :=
  vecOp (.vqblk ty d a rm sat blk) (isFP ty && blk.fmt.val != 3) 12
    (fun s =>
      let r := 8 * recordBytes blk.fmt.val
      let n := blk.bc.val + 1
      let at0 := 128 * blk.o.toNat
      let recs := pack r (fun j => quantise blk.fmt.val ty (s.rm rm) sat
        ((List.range 128).map (fun e =>
          operand ty s.exposed (elem ty.width (s.rv a).toNat (128 * (blk.j0.val + j) + e))))) n 0
      .v d (BitVec.ofNat 16384 (recs * 2 ^ at0)) (BitVec.ofNat 16384 ((2 ^ (r * n) - 1) * 2 ^ at0))) s

/-- Record j of vA (R207). -/
def State.record (s : State) (a : VReg) (blk : BlkImm) (j : Nat) : Nat :=
  (s.rv a).toNat / 2 ^ (128 * blk.o.toNat + 8 * recordBytes blk.fmt.val * j) % 2 ^ (8 * recordBytes blk.fmt.val)

/-- VDQBLK (R64, R208). -/
def execVdqblk (o : VOp) (rm : Rm) (sat : Bool) (blk : BlkImm) (s : State) : Out :=
  vecOp (.vdqblk o rm sat blk)
    (isFP o.ty && blk.fmt.val != 3 && (List.range (blk.bc.val + 1)).all (fun j => blkZeroOk (s.record o.a blk j))) 12
    (fun s =>
      let base := 128 * blk.j0.val
      convWrite o.d o.ty.width base (128 * (blk.bc.val + 1)) (fun i => active (s.rk o.k) (base + i) o.ty.width) o.z
        (fun i => s.fin o rm sat (blkElem blk.fmt.val (s.record o.a blk (i / 128)) (i % 128)))) s

end Sys2Proof.Machine
end

