-- ==== Sys2Proof/Machine/Dispatch.lean ====
section
/-! DEFINITION. The meaning of every step of the table: one arm per constructor. -/

namespace Sys2Proof.Machine

/-- The meaning of each step of the table. -/
def exec (i : Instr) (s : State) : Host.Outcome State Fault Refusal :=
  match i with
  | .nop => Sys2Proof.Machine.execNop s
  | .br off => Sys2Proof.Machine.execBr off s
  | .brc cond a b off => Sys2Proof.Machine.execBrc cond a b off s
  | .call a off => Sys2Proof.Machine.execCall a off s
  | .ret a => Sys2Proof.Machine.execRet a s
  | .jmpi a imm => Sys2Proof.Machine.execJmpi a imm s
  | .loop a b len md sk => Sys2Proof.Machine.execLoop a b len md sk s
  | .loopi cimm b len md sk => Sys2Proof.Machine.execLoopi cimm b len md sk s
  | .lexit => Sys2Proof.Machine.execLexit s
  | .lidx d n => Sys2Proof.Machine.execLidx d n s
  | .trap code => Sys2Proof.Machine.execTrap code s
  | .sysrd d sysreg => Sys2Proof.Machine.execSysrd d sysreg s
  | .syswr a sysreg => Sys2Proof.Machine.execSyswr a sysreg s
  | .fpmode d rm mode => Sys2Proof.Machine.execFpmode d rm mode s
  | .cyc d => Sys2Proof.Machine.execCyc d s
  | .add d a b => Sys2Proof.Machine.execAdd d a b s
  | .sub d a b => Sys2Proof.Machine.execSub d a b s
  | .addi d a imm => Sys2Proof.Machine.execAddi d a imm s
  | .and d a b => Sys2Proof.Machine.execAnd d a b s
  | .or d a b => Sys2Proof.Machine.execOr d a b s
  | .xor d a b => Sys2Proof.Machine.execXor d a b s
  | .andi d a imm => Sys2Proof.Machine.execAndi d a imm s
  | .ori d a imm => Sys2Proof.Machine.execOri d a imm s
  | .xori d a imm => Sys2Proof.Machine.execXori d a imm s
  | .shl d a b => Sys2Proof.Machine.execShl d a b s
  | .shr d a b => Sys2Proof.Machine.execShr d a b s
  | .sra d a b => Sys2Proof.Machine.execSra d a b s
  | .shli d a n => Sys2Proof.Machine.execShli d a n s
  | .shri d a n => Sys2Proof.Machine.execShri d a n s
  | .srai d a n => Sys2Proof.Machine.execSrai d a n s
  | .mul d a b => Sys2Proof.Machine.execMul d a b s
  | .mulh d a b => Sys2Proof.Machine.execMulh d a b s
  | .mulhu d a b => Sys2Proof.Machine.execMulhu d a b s
  | .div d a b => Sys2Proof.Machine.execDiv d a b s
  | .divu d a b => Sys2Proof.Machine.execDivu d a b s
  | .rem d a b => Sys2Proof.Machine.execRem d a b s
  | .remu d a b => Sys2Proof.Machine.execRemu d a b s
  | .min d a b => Sys2Proof.Machine.execMin d a b s
  | .max d a b => Sys2Proof.Machine.execMax d a b s
  | .minu d a b => Sys2Proof.Machine.execMinu d a b s
  | .maxu d a b => Sys2Proof.Machine.execMaxu d a b s
  | .seq d a b => Sys2Proof.Machine.execSeq d a b s
  | .slt d a b => Sys2Proof.Machine.execSlt d a b s
  | .sltu d a b => Sys2Proof.Machine.execSltu d a b s
  | .sel d a b => Sys2Proof.Machine.execSel d a b s
  | .clz d a => Sys2Proof.Machine.execClz d a s
  | .ctz d a => Sys2Proof.Machine.execCtz d a s
  | .popc d a => Sys2Proof.Machine.execPopc d a s
  | .li d imm sh => Sys2Proof.Machine.execLi d imm sh s
  | .bfx d a p w sx => Sys2Proof.Machine.execBfx d a p w sx s
  | .bfi d a p w => Sys2Proof.Machine.execBfi d a p w s
  | .fadd ty d a b rm sat => Sys2Proof.Machine.execFadd ty d a b rm sat s
  | .fsub ty d a b rm sat => Sys2Proof.Machine.execFsub ty d a b rm sat s
  | .fmul ty d a b rm sat => Sys2Proof.Machine.execFmul ty d a b rm sat s
  | .ffma ty d a b c rm sat => Sys2Proof.Machine.execFfma ty d a b c rm sat s
  | .fdiv ty d a b rm sat => Sys2Proof.Machine.execFdiv ty d a b rm sat s
  | .fsqrt ty d a rm sat => Sys2Proof.Machine.execFsqrt ty d a rm sat s
  | .fmin ty d a b rm sat => Sys2Proof.Machine.execFmin ty d a b rm sat s
  | .fmax ty d a b rm sat => Sys2Proof.Machine.execFmax ty d a b rm sat s
  | .fcmp ty d a b pred => Sys2Proof.Machine.execFcmp ty d a b pred s
  | .fcvt ty ty2 d a rm sat => Sys2Proof.Machine.execFcvt ty ty2 d a rm sat s
  | .hset h a => Sys2Proof.Machine.execHset h a s
  | .hadvf h a imm => Sys2Proof.Machine.execHadvf h a imm s
  | .hadvc h a imm => Sys2Proof.Machine.execHadvc h a imm s
  | .hqry d h sel => Sys2Proof.Machine.execHqry d h sel s
  | .hwait h a n free => Sys2Proof.Machine.execHwait h a n free s
  | .vadd o b rm sat => Sys2Proof.Machine.execVadd o b rm sat s
  | .vsub o b rm sat => Sys2Proof.Machine.execVsub o b rm sat s
  | .vmul o b rm sat => Sys2Proof.Machine.execVmul o b rm sat s
  | .vfma o b c rm sat => Sys2Proof.Machine.execVfma o b c rm sat s
  | .vfms o b c rm sat => Sys2Proof.Machine.execVfms o b c rm sat s
  | .vfnma o b c rm sat => Sys2Proof.Machine.execVfnma o b c rm sat s
  | .vdiv o b rm sat => Sys2Proof.Machine.execVdiv o b rm sat s
  | .vsqrt o rm sat => Sys2Proof.Machine.execVsqrt o rm sat s
  | .vmin o b sat => Sys2Proof.Machine.execVmin o b sat s
  | .vmax o b sat => Sys2Proof.Machine.execVmax o b sat s
  | .vabs o sat => Sys2Proof.Machine.execVabs o sat s
  | .vneg o sat => Sys2Proof.Machine.execVneg o sat s
  | .vscalb o b rm sat => Sys2Proof.Machine.execVscalb o b rm sat s
  | .vrcp o rm sat => Sys2Proof.Machine.execVrcp o rm sat s
  | .vrsq o rm sat => Sys2Proof.Machine.execVrsq o rm sat s
  | .vexp2 o rm sat => Sys2Proof.Machine.execVexp2 o rm sat s
  | .vlog2 o rm sat => Sys2Proof.Machine.execVlog2 o rm sat s
  | .viadd o b sat => Sys2Proof.Machine.execViadd o b sat s
  | .visub o b sat => Sys2Proof.Machine.execVisub o b sat s
  | .vimul o b sat => Sys2Proof.Machine.execVimul o b sat s
  | .vimad o b c sat => Sys2Proof.Machine.execVimad o b c sat s
  | .vimin o b => Sys2Proof.Machine.execVimin o b s
  | .vimax o b => Sys2Proof.Machine.execVimax o b s
  | .vand o b => Sys2Proof.Machine.execVand o b s
  | .vor o b => Sys2Proof.Machine.execVor o b s
  | .vxor o b => Sys2Proof.Machine.execVxor o b s
  | .vpopc o => Sys2Proof.Machine.execVpopc o s
  | .viabs o sat => Sys2Proof.Machine.execViabs o sat s
  | .vshl o b sat => Sys2Proof.Machine.execVshl o b sat s
  | .vshr o b => Sys2Proof.Machine.execVshr o b s
  | .vsra o b => Sys2Proof.Machine.execVsra o b s
  | .vcmp ty d a b k z pred any => Sys2Proof.Machine.execVcmp ty d a b k z pred any s
  | .vclass ty d a k z set any => Sys2Proof.Machine.execVclass ty d a k z set any s
  | .kand d a b => Sys2Proof.Machine.execKand d a b s
  | .kor d a b => Sys2Proof.Machine.execKor d a b s
  | .kxor d a b => Sys2Proof.Machine.execKxor d a b s
  | .knot d a => Sys2Proof.Machine.execKnot d a s
  | .kpopc n a => Sys2Proof.Machine.execKpopc n a s
  | .kmov f => Sys2Proof.Machine.execKmov f s
  | .vmov o => Sys2Proof.Machine.execVmov o s
  | .vsel o b c => Sys2Proof.Machine.execVsel o b c s
  | .vbcast ty d k z src => Sys2Proof.Machine.execVbcast ty d k z src s
  | .viota ty d k z base stride => Sys2Proof.Machine.execViota ty d k z base stride s
  | .vperm o b zero => Sys2Proof.Machine.execVperm o b zero s
  | .vrot o r => Sys2Proof.Machine.execVrot o r s
  | .vextr ty n a ix off => Sys2Proof.Machine.execVextr ty n a ix off s
  | .vins ty d n ix off => Sys2Proof.Machine.execVins ty d n ix off s
  | .vrsum ty d a k rm sat => Sys2Proof.Machine.execVrsum ty d a k rm sat s
  | .vrmax ty d a k sat => Sys2Proof.Machine.execVrmax ty d a k sat s
  | .vrmin ty d a k sat => Sys2Proof.Machine.execVrmin ty d a k sat s
  | .virsum ty d a k sat => Sys2Proof.Machine.execVirsum ty d a k sat s
  | .vcvt o dst part rm sat => Sys2Proof.Machine.execVcvt o dst part rm sat s
  | .vcvtsr o dst part sat => Sys2Proof.Machine.execVcvtsr o dst part sat s
  | .vqblk ty d a rm sat blk => Sys2Proof.Machine.execVqblk ty d a rm sat blk s
  | .vdqblk o rm sat blk => Sys2Proof.Machine.execVdqblk o rm sat blk s
  | .vpack o b sat => Sys2Proof.Machine.execVpack o b sat s
  | .vunpk o p => Sys2Proof.Machine.execVunpk o p s
  | .sld d a sz imm => Sys2Proof.Machine.execSld d a sz imm s
  | .sst d a sz imm => Sys2Proof.Machine.execSst d a sz imm s
  | .vsld d a k imm => Sys2Proof.Machine.execVsld d a k imm s
  | .vsst d a k imm => Sys2Proof.Machine.execVsst d a k imm s
  | .vslds d a b k imm => Sys2Proof.Machine.execVslds d a b k imm s
  | .vssts d a b k imm => Sys2Proof.Machine.execVssts d a b k imm s
  | .vsgath d a b k imm => Sys2Proof.Machine.execVsgath d a b k imm s
  | .vsscat d a b k imm => Sys2Proof.Machine.execVsscat d a b k imm s
  | .vhld d h k off => Sys2Proof.Machine.execVhld d h k off s
  | .vhst d h k off => Sys2Proof.Machine.execVhst d h k off s
  | .ldf d a sc imm => Sys2Proof.Machine.execLdf d a sc imm s
  | .ldfe d a sc imm => Sys2Proof.Machine.execLdfe d a sc imm s
  | .ste d a sc imm => Sys2Proof.Machine.execSte d a sc imm s
  | .stf d a sc imm => Sys2Proof.Machine.execStf d a sc imm s
  | .tagrd d a imm => Sys2Proof.Machine.execTagrd d a imm s
  | .tagwr d a imm => Sys2Proof.Machine.execTagwr d a imm s
  | .rsst d a sz pl off => Sys2Proof.Machine.execRsst d a sz pl off s
  | .rvst d a k pl off => Sys2Proof.Machine.execRvst d a k pl off s
  | .mvst d a k die clus set off => Sys2Proof.Machine.execMvst d a k die clus set off s
  | .rste d a sc pl off => Sys2Proof.Machine.execRste d a sc pl off s
  | .gld d a sz hint imm => Sys2Proof.Machine.execGld d a sz hint imm s
  | .gst d a sz hint imm => Sys2Proof.Machine.execGst d a sz hint imm s
  | .vgld d a k hint imm => Sys2Proof.Machine.execVgld d a k hint imm s
  | .vgst d a k hint imm => Sys2Proof.Machine.execVgst d a k hint imm s
  | .vggath d a b k hint imm => Sys2Proof.Machine.execVggath d a b k hint imm s
  | .vgscat d a b k hint imm => Sys2Proof.Machine.execVgscat d a b k hint imm s
  | .amo d a b sz hint sc op => Sys2Proof.Machine.execAmo d a b sz hint sc op s
  | .cas d a b sz hint sc => Sys2Proof.Machine.execCas d a b sz hint sc s
  | .red d a sz hint op => Sys2Proof.Machine.execRed d a sz hint op s
  | .fred d a hint ty => Sys2Proof.Machine.execFred d a hint ty s
  | .samo d a b sz sc op => Sys2Proof.Machine.execSamo d a b sz sc op s
  | .gpf a l2 hint imm => Sys2Proof.Machine.execGpf a l2 hint imm s
  | .pin a b hint imm => Sys2Proof.Machine.execPin a b hint imm s
  | .unpin a b hint imm => Sys2Proof.Machine.execUnpin a b hint imm s
  | .gwb a b hint sc imm => Sys2Proof.Machine.execGwb a b hint sc imm s
  | .ginv a b hint sc imm => Sys2Proof.Machine.execGinv a b hint sc imm s
  | .wload w h off => Sys2Proof.Machine.execWload w h off s
  | .wloadNxt w h off => Sys2Proof.Machine.execWloadNxt w h off s
  | .wloadTongs w => Sys2Proof.Machine.execWloadTongs w s
  | .wloadNxtTongs w => Sys2Proof.Machine.execWloadNxtTongs w s
  | .afeed h off => Sys2Proof.Machine.execAfeed h off s
  | .accum a => Sys2Proof.Machine.execAccum a s
  | .accumSet a => Sys2Proof.Machine.execAccumSet a s
  | .drain a => Sys2Proof.Machine.execDrain a s
  | .drainClr a => Sys2Proof.Machine.execDrainClr a s
  | .tswap => Sys2Proof.Machine.execTswap s
  | .tzero a n => Sys2Proof.Machine.execTzero a n s
  | .tclose => Sys2Proof.Machine.execTclose s
  | .cpy d a b c sc eng tl => Sys2Proof.Machine.execCpy d a b c sc eng tl s
  | .cpyx d a b c sc eng tl => Sys2Proof.Machine.execCpyx d a b c sc eng tl s
  | .cpq d eng sel => Sys2Proof.Machine.execCpq d eng sel s
  | .tlrd d tl sel => Sys2Proof.Machine.execTlrd d tl sel s
  | .tlwait a sc tl => Sys2Proof.Machine.execTlwait a sc tl s
  | .tladv a set tl => Sys2Proof.Machine.execTladv a set tl s
  | .fence sc => Sys2Proof.Machine.execFence sc s
  | .acq n b sc cmp => Sys2Proof.Machine.execAcq n b sc cmp s
  | .rel n b sc => Sys2Proof.Machine.execRel n b sc s
  | .acqp d n b sc cmp => Sys2Proof.Machine.execAcqp d n b sc cmp s
  | .bind n a b c => Sys2Proof.Machine.execBind n a b c s
  | .unbind n => Sys2Proof.Machine.execUnbind n s
  | .wack => Sys2Proof.Machine.execWack s
  | .bara k => Sys2Proof.Machine.execBara k s
  | .barw k => Sys2Proof.Machine.execBarw k s
  | .bar k => Sys2Proof.Machine.execBar k s
  | .mregw shadow reg a => Sys2Proof.Machine.execMregw shadow reg a s
  | .mregr d shadow reg => Sys2Proof.Machine.execMregr d shadow reg s
  | .send a b c sc tl => Sys2Proof.Machine.execSend a b c sc tl s
  | .recv d a c sc q => Sys2Proof.Machine.execRecv d a c sc q s
  | .coll a sc tab tl => Sys2Proof.Machine.execColl a sc tab tl s
  | .cstab a c tab => Sys2Proof.Machine.execCstab a c tab s
  | .launch a q => Sys2Proof.Machine.execLaunch a q s
  | .cancel a => Sys2Proof.Machine.execCancel a s
  | .bown a => Sys2Proof.Machine.execBown a s
  | .brel a => Sys2Proof.Machine.execBrel a s
  | .pwrq d a other sel => Sys2Proof.Machine.execPwrq d a other sel s
  | .restartMark => Sys2Proof.Machine.execRestartMark s
  | .yield => Sys2Proof.Machine.execYield s
  | .quenchPoint => Sys2Proof.Machine.execQuenchPoint s
  | .endOfTask => Sys2Proof.Machine.execEndOfTask s
  | .bundleDecode => Sys2Proof.Machine.execBundleDecode s
  | .indexLineFill => Sys2Proof.Machine.execIndexLineFill s
  | .dictionaryReread => Sys2Proof.Machine.execDictionaryReread s
  | .splitBundleSecondCycle => Sys2Proof.Machine.execSplitBundleSecondCycle s
  | .contextPark => Sys2Proof.Machine.execContextPark s
  | .contextUnpark => Sys2Proof.Machine.execContextUnpark s
  | .resultLand => Sys2Proof.Machine.execResultLand s
  | .variableResultLand => Sys2Proof.Machine.execVariableResultLand s
  | .engineProducerPublish => Sys2Proof.Machine.execEngineProducerPublish s
  | .correctionFreezeEnd => Sys2Proof.Machine.execCorrectionFreezeEnd s
  | .lockstepMismatch => Sys2Proof.Machine.execLockstepMismatch s
  | .residueMismatch => Sys2Proof.Machine.execResidueMismatch s
  | .rollbackFetchResume => Sys2Proof.Machine.execRollbackFetchResume s
  | .markEstablished => Sys2Proof.Machine.execMarkEstablished s
  | .taskEnd => Sys2Proof.Machine.execTaskEnd s
  | .commitDrain => Sys2Proof.Machine.execCommitDrain s
  | .scratchpadDrainWrite => Sys2Proof.Machine.execScratchpadDrainWrite s
  | .parityDeltaApply => Sys2Proof.Machine.execParityDeltaApply s
  | .bankSleep => Sys2Proof.Machine.execBankSleep s
  | .bankWake => Sys2Proof.Machine.execBankWake s
  | .parityRebuildRow => Sys2Proof.Machine.execParityRebuildRow s
  | .tileComparison => Sys2Proof.Machine.execTileComparison s
  | .hardyDecision => Sys2Proof.Machine.execHardyDecision s
  | .remoteStoreArrival => Sys2Proof.Machine.execRemoteStoreArrival s
  | .rsteArrival => Sys2Proof.Machine.execRsteArrival s
  | .homeRequest => Sys2Proof.Machine.execHomeRequest s
  | .translationWalk => Sys2Proof.Machine.execTranslationWalk s
  | .firstTouchAssign => Sys2Proof.Machine.execFirstTouchAssign s
  | .homeWriteApply => Sys2Proof.Machine.execHomeWriteApply s
  | .reductionApply => Sys2Proof.Machine.execReductionApply s
  | .writeGrantReturn => Sys2Proof.Machine.execWriteGrantReturn s
  | .refusalArrival => Sys2Proof.Machine.execRefusalArrival s
  | .migrationRerun => Sys2Proof.Machine.execMigrationRerun s
  | .ackArrival => Sys2Proof.Machine.execAckArrival s
  | .spillQueueReturn => Sys2Proof.Machine.execSpillQueueReturn s
  | .syncWordWrite => Sys2Proof.Machine.execSyncWordWrite s
  | .promotionRequest => Sys2Proof.Machine.execPromotionRequest s
  | .promotionReply => Sys2Proof.Machine.execPromotionReply s
  | .barrierComplete => Sys2Proof.Machine.execBarrierComplete s
  | .ltTick => Sys2Proof.Machine.execLtTick s
  | .timestampRebase => Sys2Proof.Machine.execTimestampRebase s
  | .copyAccept => Sys2Proof.Machine.execCopyAccept s
  | .copyStart => Sys2Proof.Machine.execCopyStart s
  | .copyPieceRetry => Sys2Proof.Machine.execCopyPieceRetry s
  | .copyVerify => Sys2Proof.Machine.execCopyVerify s
  | .copyComplete => Sys2Proof.Machine.execCopyComplete s
  | .sendDrain => Sys2Proof.Machine.execSendDrain s
  | .lrqRoomGrant => Sys2Proof.Machine.execLrqRoomGrant s
  | .messageAccept => Sys2Proof.Machine.execMessageAccept s
  | .packetReceive => Sys2Proof.Machine.execPacketReceive s
  | .wavelengthRetrain => Sys2Proof.Machine.execWavelengthRetrain s
  | .wavelengthRetrainEnd => Sys2Proof.Machine.execWavelengthRetrainEnd s
  | .wavelengthPark => Sys2Proof.Machine.execWavelengthPark s
  | .linkDown => Sys2Proof.Machine.execLinkDown s
  | .linkReturn => Sys2Proof.Machine.execLinkReturn s
  | .routeTableWrite => Sys2Proof.Machine.execRouteTableWrite s
  | .routeEntryEffect => Sys2Proof.Machine.execRouteEntryEffect s
  | .cancelTokenArrival => Sys2Proof.Machine.execCancelTokenArrival s
  | .cstabLoad => Sys2Proof.Machine.execCstabLoad s
  | .collAccept => Sys2Proof.Machine.execCollAccept s
  | .collStepStart => Sys2Proof.Machine.execCollStepStart s
  | .collMessageArrival => Sys2Proof.Machine.execCollMessageArrival s
  | .collStepComplete => Sys2Proof.Machine.execCollStepComplete s
  | .deviceLaunchWrite => Sys2Proof.Machine.execDeviceLaunchWrite s
  | .queueHeadFetch => Sys2Proof.Machine.execQueueHeadFetch s
  | .queueHeadReread => Sys2Proof.Machine.execQueueHeadReread s
  | .launchQueueService => Sys2Proof.Machine.execLaunchQueueService s
  | .portionHandout => Sys2Proof.Machine.execPortionHandout s
  | .placeTask => Sys2Proof.Machine.execPlaceTask s
  | .preloadWrite => Sys2Proof.Machine.execPreloadWrite s
  | .taskStart => Sys2Proof.Machine.execTaskStart s
  | .powerWindow => Sys2Proof.Machine.execPowerWindow s
  | .grantRecompute => Sys2Proof.Machine.execGrantRecompute s
  | .permitAudit => Sys2Proof.Machine.execPermitAudit s
  | .permitAuditEnd => Sys2Proof.Machine.execPermitAuditEnd s
  | .launchComplete => Sys2Proof.Machine.execLaunchComplete s
  | .completionRecordWrite => Sys2Proof.Machine.execCompletionRecordWrite s
  | .faultRecordRemove => Sys2Proof.Machine.execFaultRecordRemove s
  | .preemptRequest => Sys2Proof.Machine.execPreemptRequest s
  | .debugHalt => Sys2Proof.Machine.execDebugHalt s
  | .resume => Sys2Proof.Machine.execResume s
  | .preemptWindowExpiry => Sys2Proof.Machine.execPreemptWindowExpiry s
  | .preemptSave => Sys2Proof.Machine.execPreemptSave s
  | .launchMove => Sys2Proof.Machine.execLaunchMove s
  | .containmentReset => Sys2Proof.Machine.execContainmentReset s
  | .spareClusterEnable => Sys2Proof.Machine.execSpareClusterEnable s
  | .pageMove => Sys2Proof.Machine.execPageMove s
  | .checkpointDrainOpen => Sys2Proof.Machine.execCheckpointDrainOpen s
  | .checkpointUnitDrained => Sys2Proof.Machine.execCheckpointUnitDrained s
  | .checkpointDrainClose => Sys2Proof.Machine.execCheckpointDrainClose s
  | .safeTierFault => Sys2Proof.Machine.execSafeTierFault s
  | .packagePowerOnReset => Sys2Proof.Machine.execPackagePowerOnReset s
  | .launchQueueEnable => Sys2Proof.Machine.execLaunchQueueEnable s
  | .launchQueueDisable => Sys2Proof.Machine.execLaunchQueueDisable s
  | .launchQueueNotify => Sys2Proof.Machine.execLaunchQueueNotify s
  | .lqcanset => Sys2Proof.Machine.execLqcanset s
  | .lqcanclr => Sys2Proof.Machine.execLqcanclr s
  | .fqres => Sys2Proof.Machine.execFqres s
  | .htinv => Sys2Proof.Machine.execHtinv s
  | .htinvComplete => Sys2Proof.Machine.execHtinvComplete s
  | .completionRingEnable => Sys2Proof.Machine.execCompletionRingEnable s
  | .lrqClose => Sys2Proof.Machine.execLrqClose s
  | .registerWrite => Sys2Proof.Machine.execRegisterWrite s
  | .hostPortMemoryWrite => Sys2Proof.Machine.execHostPortMemoryWrite s

end Sys2Proof.Machine
end

