-- ==== Sys2Proof/Machine/Run.lean ====
section
/-! DEFINITION. What one clock does: the issue of a bundle and its checks, merging, the end of a clock, and which steps of the
table fall due (R25, R94 to R96, R132 to R150, R153 to R156, R253, R365). -/

namespace Sys2Proof.Machine

/-! ### Runs of meanings -/

/-- A state, or the outcome that stopped the machine. -/
abbrev Run (α : Type) := Except Out α

/-- The next state of an outcome. -/
def Run.of (o : Out) : Run State := match o with
  | .next s => .ok s
  | o => .error o
/-- The outcome of a run. -/
def Run.out (r : Run State) : Out := match r with
  | .ok s => .next s
  | .error o => o

namespace State

/-- A step of the table with its argument. -/
def event (s : State) (i : Instr) (a : Arg) : Run State := .of (exec i { s with arg := a })
/-- Steps of the table in turn. -/
def events (s : State) : List (Instr × Arg) → Run State
  | [] => .ok s
  | p :: ps => do (← s.event p.1 p.2).events ps

/-! ### Power (R95, R96) -/

/-- Cost of an instruction: in checked mode, or in split mode (R95). -/
def cost (split : Bool) (i : Instr) : Nat :=
  match i with
  | .afeed _ _ => if split then 4 else 8
  | .wload _ _ _ | .wloadNxt _ _ _ | .wloadTongs _ | .wloadNxtTongs _ | .accum _ | .accumSet _ | .drain _ | .drainClr _ =>
    if split then 1 else 2
  | .tzero _ _ => 1
  | .kand _ _ _ | .kor _ _ _ | .kxor _ _ _ | .knot _ _ | .kpopc _ _ | .kmov _ | .vmov _ | .vsel _ _ _ | .vbcast _ _ _ _ _
  | .viota _ _ _ _ _ _ | .vperm _ _ _ | .vrot _ _ | .vextr _ _ _ _ _ | .vins _ _ _ _ _ => 1
  | .vadd _ _ _ _ | .vsub _ _ _ _ | .vmul _ _ _ _ | .vfma _ _ _ _ _ | .vfms _ _ _ _ _ | .vfnma _ _ _ _ _ | .vdiv _ _ _ _
  | .vsqrt _ _ _ | .vmin _ _ _ | .vmax _ _ _ | .vabs _ _ | .vneg _ _ | .vscalb _ _ _ _ | .vrcp _ _ _ | .vrsq _ _ _ | .vexp2 _ _ _
  | .vlog2 _ _ _ | .viadd _ _ _ | .visub _ _ _ | .vimul _ _ _ | .vimad _ _ _ _ | .vimin _ _ | .vimax _ _ | .vand _ _ | .vor _ _
  | .vxor _ _ | .vpopc _ | .viabs _ _ | .vshl _ _ _ | .vshr _ _ | .vsra _ _ | .vcmp _ _ _ _ _ _ _ _ | .vclass _ _ _ _ _ _ _
  | .vrsum _ _ _ _ _ _ | .vrmax _ _ _ _ _ | .vrmin _ _ _ _ _ | .virsum _ _ _ _ _ | .vcvt _ _ _ _ _ | .vcvtsr _ _ _ _
  | .vqblk _ _ _ _ _ _ | .vdqblk _ _ _ _ | .vpack _ _ _ | .vunpk _ _ => 2
  | .vsld _ _ _ _ | .vsst _ _ _ _ | .vslds _ _ _ _ _ | .vssts _ _ _ _ _ | .vsgath _ _ _ _ _ | .vsscat _ _ _ _ _ | .vhld _ _ _ _
  | .vhst _ _ _ _ | .vgld _ _ _ _ _ | .vgst _ _ _ _ _ | .vggath _ _ _ _ _ _ | .vgscat _ _ _ _ _ _ => 1
  | _ => 0
/-- Cost of the bundle in the latch. -/
def bundleCost (s : State) : Nat := (s.iss.slots.map (fun p => cost s.cc.split p.2)).foldl (· + ·) 0
/-- A cost fits the window (R96). -/
def fits (s : State) (c h n : Nat) : Bool :=
  let p := (s.core c).pow h
  p.spent = 0 || p.spent + n ≤ p.grant
/-- Tokens charged. -/
def charge (s : State) (c h n : Nat) : State := s.modCore c (fun k => k.modPow h (fun p => { p with spent := p.spent + n }))

/-! ### Checks on registers (R139, R141) -/

/-- The instruction's results have variable latency (R141). -/
def varLatency (i : Instr) : Bool :=
  match i with
  | .gld _ _ _ _ _ | .vgld _ _ _ _ _ | .vggath _ _ _ _ _ _ | .ldf _ _ _ _ | .ldfe _ _ _ _ | .tagrd _ _ _ | .amo _ _ _ _ _ _ _
  | .cas _ _ _ _ _ _ | .samo _ _ _ _ _ _ | .mregr _ _ _ | .tlrd _ _ _ | .pwrq _ _ _ _ | .acqp _ _ _ _ _ | .cpq _ _ _
  | .recv _ _ _ _ _ | .vdiv _ _ _ _ | .vsqrt _ _ _ | .fdiv _ _ _ _ _ _ | .fsqrt _ _ _ _ _ => true
  | _ => false
/-- Results of fixed latency that an instruction adds; an AFEED adds its row. -/
def fixedResults (i : Instr) : Nat :=
  match i with
  | .afeed _ _ => 1
  | i => if varLatency i then 0 else i.dests.length
/-- A register of the instruction waits for a result of fixed latency, in interlocked mode (R139). -/
def interlocked (k : Ctx) (i : Instr) : Bool :=
  k.r.ilk && (regsRead i ++ i.dests).any (fun r => !r.isNull && k.r.flight.any (fun f => f.w.ref = r))
/-- Results of a context in flight, rows of its AFEEDs included (R139). -/
def inFlight (s : State) (c x : Nat) : Nat :=
  let k := s.ctx c x
  k.r.flight.length + k.split.length + (((s.core c).eng (s.half c x)).rows.filter (fun r => r.ctx = x)).length

/-! ### The slots of a bundle (R136, R146, R365) -/

/-- An implicit quench point (R256, R365, R366). -/
def quenches (i : Instr) : Bool :=
  match i with
  | .ldfe _ _ _ _ | .ste _ _ _ _ | .stf _ _ _ _ | .tagwr _ _ _ | .amo _ _ _ _ _ _ _ | .cas _ _ _ _ _ _ | .samo _ _ _ _ _ _
  | .rste _ _ _ _ _ | .fence _ | .rel _ _ _ | .wack | .bara _ | .bar _ | .recv _ _ _ _ _ | .tladv _ _ _ | .cancel _ | .brel _ => true
  | _ => false
/-- What lower slots of the bundle have added keeps an implicit quench point of it for the bundle's completion (R365): entries,
or, for a FENCE, reads. -/
def lateSlot (t : State) (i : Instr) : Bool :=
  quenches i && (t.cc.cb.any (fun e => e.ctx = t.iss.ctx && e.serial = t.iss.serial)
    || (match i with
      | .fence _ => t.iss.slots.any (fun p => p.1 = 2)
          && (t.cx.pend.any (fun p => p.2.1 = t.iss.serial) || (t.cx.r.ilk && t.iss.slots.any (fun p => p.1 = 2 && !p.2.dests.isEmpty)))
      | _ => false))
/-- What is waited for as the bundle issues: the whole of it, but of a BAR that waits for its bundle's entries its arrival. -/
def lateCheck (i : Instr) : Instr := match i with | .bar k => .bara k | i => i
/-- One slot tried. -/
def trySlot (s : State) (n : Nat) (i : Instr) (stop : Option Stop) : Run State :=
  .of (exec i { s with iss := { s.iss with slot := n, stop := stop } })

/-- An instruction that sees the engine's registers and tiles as of its bundle's issue (R116, R378, R379). -/
def seesEngine (i : Instr) : Bool := match i with | .mregr _ _ _ | .mregw _ _ _ => true | _ => false
/-- State t with the engines of the issuing core as in b. -/
def withEngines (t b : State) : State := t.modCc (fun k => { k with eng0 := b.cc.eng0, eng1 := b.cc.eng1 })

/-- The slots in turn on a trial state: it with the effects of those that may act, and what stops the others. -/
def trySlots (b : State) : List (Nat × Instr) → State → Run (State × List (Nat × Instr × Stop))
  | [], t => .ok (t, [])
  | (n, i) :: ps, t => do
    if lateSlot t i then
      let u ← b.trySlot n (lateCheck i) none
      match u.iss.stop with
      | some e => let (t, l) ← b.trySlots ps t; .ok (t, (n, lateCheck i, e) :: l)
      | none => b.trySlots ps (t.modCx (fun k => { k with comps := k.comps ++ [.instr i n], lateRegs := some (k.r, t.iss.pos, t.iss.next) }))
    else
      let u ← (if seesEngine i then t.withEngines b else t).trySlot n i none
      match u.iss.stop with
      | some e => let (t, l) ← b.trySlots ps t; .ok (t, (n, i, e) :: l)
      | none => b.trySlots ps (if seesEngine i then u.withEngines t else u)

/-- The first trap among the stops. -/
def firstStop : List (Nat × Instr × Stop) → Option Trap
  | [] => none
  | (n, _, .trap t) :: _ => some { t with slot := if t.slot = 0 then n else t.slot }
  | _ :: l => firstStop l
/-- What the waiting slots do while they wait, on the state before the bundle. -/
def waitSlots (s : State) : List (Nat × Instr × Stop) → Option Stop → Run State
  | [], _ => .ok s
  | (n, i, _) :: l, before => do
    let u ← s.trySlot n i before
    match u.iss.stop with
    | some .hold => u.waitSlots l (some .hold)
    | _ => s.waitSlots l (some .hold)

/-! ### The sequencer (R133, R153 to R159) -/

/-- What the sequencer finds: the loop stack and the next position, whether a boundary was crossed, the skip-map words read so
far, their uses, and a word in a bank that is not the launch's. -/
structure Seq where
  ls    : List LoopEntry
  next  : Int
  cross : Bool := false
  words : Nat := 0
  uses  : List Use := []
  reads : List (Nat × Nat) := []
  bad   : Option Nat := none
  deriving DecidableEq, Repr

/-- The skip-map word at a as it stands at clock u of the core for a scan of the bundle `serial` of context x, whose own stores it
does not see (R156). -/
def mapWord (s : State) (c x serial a u : Nat) : Nat :=
  s.chunk c x (a / 64 * 64) u (fun e => decide (e.serial < serial)) / 2 ^ (8 * (a % 64)) % 2 ^ 64
/-- Words read of a skip map from iteration idx on: those numbered m to n − 1 of the bundle, read from clock t + 2 on (R156). -/
def Seq.read (q : Seq) (s : State) (c x t map idx m n : Nat) : Seq :=
  let js := (List.range (n - m)).map (· + m)
  let addr (j : Nat) : Nat := map + 8 * (idx / 64 + (j - m))
  { q with words := n, reads := q.reads ++ js.map (fun j => (addr j, t + 2 + j)),
           uses := q.uses ++ js.map (fun j => { bank := bankOf (addr j), row := rowOf (addr j), clk := t + 2 + j, read := true }),
           bad := q.bad.orElse (fun _ => (js.find? (fun j => !s.bankOk c (s.ctx c x).launch (bankOf (addr j)))).map addr) }

/-- The boundary tests of R133 on a loop stack (R156), for a bundle of clock t; rd j a is the j-th word that it reads, at a. -/
def boundaries (s : State) (c x t : Nat) (rd : Nat → Nat → Nat) : List LoopEntry → Seq → Seq
  | [], q => { q with ls := [] }
  | e :: rest, q =>
    if q.next != e.stop then { q with ls := e :: rest }
    else
      let idx := e.idx + 1
      let (idx', n) := if e.sk then scanMap rd e.map e.cnt (Config.spadBytes / 8 + 1) idx q.words else (idx, q.words)
      let q := Seq.read { q with cross := true } s c x t e.map idx q.words n
      if idx' < e.cnt then { q with ls := { e with idx := idx' } :: rest, next := e.start }
      else s.boundaries c x t rd rest q

/-- What the sequencer does on the words that its scans have read so far, and on the others as the banks stand (R156). -/
def scanOut (s : State) (c x : Nat) (sc : Scan) : Seq :=
  let rd (j a : Nat) : Nat := sc.words.getD j (s.mapWord c x sc.serial a (sc.at_ + 2 + j))
  let q : Seq := { ls := sc.ls, next := sc.next }
  let q := match sc.entry with
    | none => q
    | some e =>
      let (idx, n) := scanMap rd e.map e.cnt (Config.spadBytes / 8 + 1) 0 0
      let q := q.read s c x sc.at_ e.map 0 0 n
      if e.cnt ≤ idx then { q with next := e.stop } else { q with ls := { e with idx := idx } :: q.ls }
  s.boundaries c x sc.at_ rd q.ls q

/-- Changes of the registers by the effects of the bundle, in slot order (R145, R161, R163, R175, R176, R372). -/
def applyEffect (r : Regs) (e : Effect) : Regs :=
  let on (h : HReg) (f : Ring → Ring) : Regs := { r with h := r.h.set h.val (f r.h[h.val]) h.isLt }
  match e with
  | .ring h fill cp eng => on h (fun g => { g with fill := (g.fill + fill).toNat, cp := ((g.cp + cp) % g.c).toNat, eng := (g.eng + eng).toNat })
  | .ringSet h g => on h (fun _ => g)
  | .bind n b => { r with b := r.b.set n.val b n.isLt }
  | .fpctl rm ilk => { r with rm := rm, ilk := ilk }
  | .gens g => { r with gens := g }
  | .reseed v => { r with srseed := v, gens := genAll v }
  | _ => r
/-- The generators that an instruction advanced come before a reseed of the same bundle (R61, R161). -/
def effectOrder (l : List Effect) : List Effect :=
  let seed (e : Effect) : Bool := match e with | .reseed _ => true | _ => false
  l.filter (fun e => !seed e) ++ l.filter seed
/-- The branch of a bundle: target and delay. -/
def branchOf (l : List Effect) : Option (Int × Nat) := l.findSome? (fun e => match e with | .branch t d => some (t, d) | _ => none)
/-- The loop stack before the boundary tests. -/
def stackOf (l : List Effect) (ls : List LoopEntry) : List LoopEntry :=
  l.foldl (fun ls e => match e with | .push n => n :: ls | .pop => ls.drop 1 | _ => ls) ls

/-- The sequencer's work for the bundle in the latch of t, of which b is the state before it: a scan sees the stores that precede
the bundle (R133, R156). -/
def sequencer (t b : State) : Seq :=
  let es := t.iss.effects
  let q : Seq := { ls := stackOf es t.cx.r.ls, next := match branchOf es with | some (n, _) => n | none => t.iss.next,
                   words := if t.iss.extra = 0 then 0 else t.iss.extra - 3 }
  let (c, x, now) := (t.iss.core, t.iss.ctx, t.now t.iss.core)
  if t.iss.fnd then q else b.boundaries c x now (fun j a => b.mapWord c x t.iss.serial a (now + 2 + j)) q.ls q

/-- The issuing bundle's registers, position and timing after it (R133, R145, R153 to R156). -/
def advanceCtx (t : State) (q : Seq) : State :=
  let es := t.iss.effects
  let now := t.now t.iss.core
  let delay := match branchOf es with | some (_, d) => d | none => 1
  let extra := if q.words = 0 then t.iss.extra else max t.iss.extra (q.words + 3)
  let target := (branchOf es).map (·.1)
  let least := now + max delay (if t.iss.split then 2 else 1)
  let base : Scan := { at_ := now, serial := t.iss.serial, pos := t.iss.pos, least := least, entry := t.iss.loop,
                       ls := if t.iss.loop.isSome then t.cx.r.ls else stackOf es t.cx.r.ls,
                       target := if t.iss.loop.isSome then none else target,
                       next := if t.iss.loop.isSome then t.iss.next else target.getD t.iss.next }
  let t := es.foldl (fun (t : State) e => match e with
    | .mreg _ shadow reg v =>
      let h := t.half t.iss.core t.iss.ctx
      t.modCc (fun k => { k with mregs := k.mregs ++ [(h, shadow != (k.eng h).sel, reg, v)] })
    | _ => t) t
  t.modCx (fun k =>
    { k with r := { (effectOrder es).foldl applyEffect k.r with
                      ls := q.ls, pc := q.next, brFrom := if target = some q.next then some t.iss.pos else none },
             serial := k.serial + 1, status := .ready, waitClk := 0, ackWait := false, boundary := q.cross,
             splitOn := t.iss.split, splitAt := now + 1, scan := if extra = 0 || t.iss.fnd then none else some base,
             nextAt := max (now + extra) least })
/-- The skip-map word that a context's scan reads in this clock (R156): the loop stack, the position and the clock of the next bundle
follow what it holds. A word beyond those declared takes its cell now. -/
def scanRead (s : State) (c x : Nat) : State :=
  let k := s.ctx c x
  match k.scan with
  | none => s
  | some sc =>
    let (j, u) := (sc.words.length, s.now c)
    let q0 := s.scanOut c x sc
    match q0.reads[j]? with
    | none => s.modCtx c x (fun k => { k with scan := none })
    | some (a, _) =>
      if u != sc.at_ + 2 + j then s
      else
        let s := s.markRead c x (a / 64 * 64) (beAt a 8) u (fun e => decide (e.serial < sc.serial))
        let sc := { sc with words := sc.words ++ [s.mapWord c x sc.serial a u] }
        let q := s.scanOut c x sc
        let target := match sc.entry with | some e => some (e.stop : Int) | none => sc.target
        let s := s.modSp c (fun sp => { sp with cells := sp.cells ++ (q.uses.drop q0.words).map (fun p =>
          { bank := p.bank, clk := p.clk, row := p.row, ctx := x }) })
        let s := s.modCtx c x (fun k =>
          { k with r := { k.r with ls := q.ls, pc := q.next, brFrom := if target = some q.next && (sc.entry.isNone || q.ls.length ≤ sc.ls.length) then some sc.pos
                                          else none },
                   boundary := q.cross, nextAt := max sc.least (sc.at_ + q.words + 3),
                   scan := if q.words ≤ sc.words.length then none else some sc })
        match q.bad with
        | some b => s.programError c x (bankTrap b) sc.pos
        | none => s
/-- The skip-map words read in this clock by the contexts of a core. -/
def scanReads (s : State) (c : Nat) : State := (List.range 8).foldl (fun (s : State) x => s.scanRead c x) s
/-- The engine's writes of this clock are made, seen from the next clock on (R378); each goes to the set it named. -/
def applyMregs (s : State) (c : Nat) : State :=
  s.modCore c (fun k => { k.mregs.foldl (fun (k : Core) p => k.modEng p.1 (fun g =>
    if p.2.1 != g.sel then { g with shadow := g.shadow.write p.2.2.1 p.2.2.2 }
    else { g with active := g.active.write p.2.2.1 p.2.2.2 })) k with mregs := [] })
/-- The banks that BREL has passed in this clock change owner (R388). -/
def applyPasses (s : State) (c : Nat) : State :=
  let own (o : List (Nat × Nat)) (p : Nat × Nat) : List (Nat × Nat) := if p.2 = 0 then tdel o p.1 else tset o p.1 p.2
  s.modCore c (fun k => { k with passes := [], sp := { k.sp with owner := k.passes.foldl own k.sp.owner } })

/-! ### One bundle (R146) -/

/-- What becomes of a context's next bundle. -/
inductive Attempt where
  /-- It may issue, power apart: the state after it. `base` is the state if it does not. -/
  | acts (s base : State)
  /-- A wait condition holds it (R136). -/
  | waits (s : State)
  /-- Something else holds it. -/
  | holds (s : State)
  | trapped (s : State)
  deriving DecidableEq, Repr

/-- A bundle of context x has been held by the table, or not (R147). -/
def heldByTable (s : State) (c x : Nat) (held : Bool) : State :=
  let now := s.now c
  s.modSp c (fun sp =>
    let (n, t) := tget sp.heldBy x (0, 0)
    { sp with heldBy := if held then tset sp.heldBy x (if t + 1 = now then n + 1 else 1, now) else tdel sp.heldBy x })
/-- Header flags of a bundle whose slots have acted (R106, R134, R137, R228, R253, R413). -/
def headerActs (t : State) : Run State := do
  let go (s : State) : State := { s with iss := { s.iss with slot := 0, go := true, stop := none } }
  let t ← if t.iss.fmk then .of (exec .restartMark (go t)) else .ok t
  let t ← if t.iss.fqp then .of (exec .quenchPoint (go t)) else .ok t
  let t ← if t.iss.fyd then .of (exec .yield (go t)) else .ok t
  .ok (if t.iss.fmk || t.iss.fqp || t.iss.fnd then t.quenchTiles t.iss.core t.iss.ctx else t)
/-- The bundle has issued: sequencer, header flags, the step of an exposed context, the end of the task (R133, R139, R426). -/
def finishBundle (t : State) (q : Seq) : Run State := do
  let (c, x) := (t.iss.core, t.iss.ctx)
  let t ← (t.advanceCtx q).headerActs
  let t ← if t.exposed then
      (t.modCc (fun k => { k with stepped := k.stepped ++ [x] })).event .resultLand { core := c, ctx := x } else .ok t
  let t := match t.cx.step with
    | some a => (t.pmBegin c (t.core c).pmctl.toNat false).modCx (fun k =>
        { k with step := none, pre := some { area := a, debug := true, deadline := t.pcyc } })
    | none => t
  if t.iss.fnd then .of (exec .endOfTask { t with iss := { t.iss with slot := 0, go := false, stop := none } }) else .ok t

/-- The restart mark's own checks (R413). -/
def markStop (b : State) : Run (List (Nat × Instr × Stop)) := do
  if b.iss.fmk then
    let u ← b.trySlot 0 .restartMark none
    match u.iss.stop with
    | some e => .ok [(0, .restartMark, e)]
    | none => .ok []
  else .ok []
/-- An MREGW and a TSWAP in one bundle (R378). -/
def swapClash (l : List (Nat × Instr)) : Bool :=
  l.any (fun p => match p.2 with | .mregw _ _ _ => true | _ => false) && l.any (fun p => p.2 = .tswap)

/-- The checks of R146 for the bundle in the latch of state b, and its effects. -/
def tryBundle (b : State) : Run Attempt := do
  let (c, x) := (b.iss.core, b.iss.ctx)
  let k := b.cx
  let is := b.iss.slots.map (·.2)
  let b0 := b
  let b := b.heldByTable c x false
  if is.any (interlocked k) then .ok (.holds b)
  else if is.any k.blocked then .ok (.waits b)
  else
    let b : State := { b with iss := { b.iss with clear := true } }
    let n := (is.map fixedResults).foldl (· + ·) 0
    if 0 < n && Config.inFlightMax < b.inFlight c x + n then
      .ok (if b.exposed then .trapped (State.trap { b with iss := { b.iss with slot := 0 } } modeTrap) else .holds b)
    else
      let m ← b.markStop
      let (t, l) ← b.trySlots b.iss.slots b
      let stops := m ++ l
      let stops := if swapClash b.iss.slots && (firstStop stops).isNone then stops ++ [(6, .nop, .trap (b.mxTrap 0x0D))] else stops
      match firstStop stops with
      | some e => .ok (.trapped (b.trap e))
      | none =>
        if !stops.isEmpty then do .ok (.waits (← b.waitSlots stops none))
        else
          let q := t.sequencer b
          match q.bad with
          | some a => .ok (.trapped (b.trap (bankTrap a)))
          | none =>
            let uses := t.iss.uses ++ q.uses
            match (b.core c).sp.grantUses uses [] [] with
            | none =>
              let b := b0.modSp c (fun sp => sp.rouseUses (b.now c) uses)
              .ok (.holds (b.heldByTable c x true))
            | some cells =>
              -- a read of a sleeping bank that reconstruction serves starts its wake as well (R263)
              let t := t.modSp c (fun sp => sp.rouseUses (b.now c) uses)
              let t := t.modSp c (fun sp => cells.foldl (fun sp p => sp.touch p.2.1 p.1)
                { sp with cells := sp.cells ++ cells.map (fun p => { bank := p.1, clk := p.2.1, row := p.2.2, ctx := x }) })
              .ok (.acts (← t.finishBundle q) b)

/-- A context's next bundle fetched, decoded and tried (R146). -/
def attempt (s : State) (c x : Nat) : Run Attempt := do
  let b ← s.event .bundleDecode { core := c, ctx := x }
  if b.iss.valid then b.tryBundle
  else .ok (match b.iss.stop with | some (.trap _) => .trapped b | _ => .holds b)

/-! ### Waiting (R136) -/

/-- One clock of a wait; at the 65th the context parks. -/
def countWait (s : State) (c x : Nat) : Run State := do
  let s := s.modCtx c x (fun k => { k with status := .waiting, waitClk := k.waitClk + 1 })
  if Config.parkAfter < (s.ctx c x).waitClk then s.event .contextPark { core := c, ctx := x } else .ok s

/-! ### One issue opportunity (R137, R138, R148) -/

/-- The context may be tried for issue. -/
def canTry (s : State) (c x : Nat) : Bool :=
  let k := s.ctx c x
  k.isReady && k.comps.isEmpty && !k.fetchWait && !k.splitOn && k.nextAt ≤ s.now c
/-- Contexts of a half. -/
def halfCtxs (s : State) (c h : Nat) : List Nat := if (s.core c).split then (List.range 4).map (4 * h + ·) else List.range 8
/-- The secondary (R138). -/
def secondary (s : State) (c h : Nat) : Option Nat :=
  (s.halfCtxs c h).find? (fun x => x != (s.core c).primary h && (s.ctx c x).isReady)
/-- The primary is chosen anew while it is not ready (R99, R137). -/
def choosePrimary (s : State) (c h : Nat) : State :=
  if (s.ctx c ((s.core c).primary h)).isReady then s else s.yieldPrimary c ((s.core c).primary h)
/-- A slot is used by both bundles. -/
def clash (a b : List (Nat × Instr)) : Bool := a.any (fun p => b.any (fun q => p.1 = q.1))

/-- The secondary alone (R138). -/
def issueSecond (s : State) (c h : Nat) (x : Option Nat) : Run State := do
  match x with
  | none => .ok s
  | some x =>
    if !s.canTry c x then .ok s
    else match ← s.attempt c x with
      | .acts t b => .ok (if s.fits c h t.bundleCost then t.charge c h t.bundleCost else b)
      | .waits b => b.countWait c x
      | .holds b | .trapped b => .ok b

/-- The secondary beside the primary's bundle, of which t is the state after it (R138). -/
def issueBeside (t : State) (c h : Nat) (x : Option Nat) : Run State := do
  let n := t.bundleCost
  let alone := t.charge c h n
  match x with
  | none => .ok alone
  | some x =>
    if t.iss.split || !t.canTry c x then .ok alone
    else match ← t.attempt c x with
      | .acts u b =>
        let p := (t.core c).pow h
        .ok (if u.iss.split || clash t.iss.slots u.iss.slots || p.grant < p.spent + n + u.bundleCost then b.charge c h n
          else u.charge c h (n + u.bundleCost))
      | .waits b => (b.charge c h n).countWait c x
      | .holds b | .trapped b => .ok (b.charge c h n)

/-- Before the next bundle of a context: a cancel trap acts, or a save begins; a request whose task is over is dropped (R78,
R134, R417). What reached the context earlier in the clock, refusals and mismatches among it, has acted (R416). -/
def beforeBundle (s : State) (c x : Nat) : State :=
  let k := s.ctx c x
  if k.cancelDue then s.cancelTrap c x
  else if k.pre.isSome && s.ctxOver c x then (s.modCtx c x (fun k => { k with pre := none })).pmEnd c (s.pmSaved c)
  else if s.preDue c x then s.beginSave c x
  else s
/-- One issue opportunity of a core, or of a half-core in split mode. The second cycle of a split bundle takes it whole. -/
def issueHalf (s : State) (c h : Nat) : Run State := do
  let s := (s.halfCtxs c h).foldl (fun s x => s.beforeBundle c x) s
  if (s.halfCtxs c h).any (fun x => (s.ctx c x).splitOn) then .ok s
  else
    let s := s.choosePrimary c h
    let s := s.modCore c (fun k => if h = 1 then { k with lead1 := k.prim1 } else { k with lead0 := k.prim0 })
    let p := (s.core c).primary h
    let x := s.secondary c h
    if !s.canTry c p then s.issueSecond c h x
    else match ← s.attempt c p with
      | .acts t b => if s.fits c h t.bundleCost then t.issueBeside c h x else b.issueSecond c h x
      | .waits b => (← b.countWait c p).issueSecond c h x
      | .holds b | .trapped b => b.issueSecond c h x

/-! ### The end of a clock for a core -/

/-- A context's results advance on every clock (R139): it is interlocked, and neither rolled back nor being saved. -/
def stepsAlways (k : Ctx) : Bool :=
  k.status != .free && k.r.ilk && (match k.why with | .none | .resolve _ true | .ended => true | _ => false)
/-- The second cycle of a split bundle, or one step of an interlocked context (R94, R139). -/
def stepCtx (s : State) (c x : Nat) : Run State :=
  let k := s.ctx c x
  if k.splitOn && k.splitAt ≤ s.now c then s.event .splitBundleSecondCycle { core := c, ctx := x }
  else if stepsAlways k then s.event .resultLand { core := c, ctx := x } else .ok s
/-- Weight rows of an engine that no context uses any more (R216). -/
def stepIdle (s : State) (c h : Nat) : State :=
  let e := (s.core c).eng h
  let idle := match e.owner.orElse (fun _ => e.lastUser) with
    | some x => (s.ctx c x).status = .free
    | none => true
  if idle && (!e.bank0.late.isEmpty || !e.bank1.late.isEmpty) then s.modCore c (fun k => k.modEng h Engine.stepBanks) else s
/-- The shadow of a mark, as the bundle after it would see it: once the bundle's second cycle and its scans are over (R413). -/
def takeShadow (s : State) (c x : Nat) : State :=
  s.modCtx c x (fun k => match k.markAt with
    | some n => if k.splitOn || k.scan.isSome then k else { k with mark2 := some (n, k.r), markAt := none }
    | none => k)
/-- A parked context re-enters ready within 16 clocks, a free choice (R136). -/
def unparkSoon (s : State) (c x : Nat) : State :=
  let (n, s) := s.choose Config.unparkWithin
  s.sched_ (s.pcyc + 1 + n) 0 .contextUnpark { core := c, ctx := x }
/-- The implicit quench point of a bundle that waits for the bundle's own entries: its wait, and its effect once they have
drained (R136, R365). -/
def lateRun (s : State) (c x : Nat) : Run State := do
  let k := s.ctx c x
  let saved : Bool := match k.why with | .saving _ _ | .debug _ => true | _ => false
  match k.comps.head?, (if saved then none else k.lateRegs) with
  | some (.instr i n), some (r, pos, next) => do
    let b : State := { s with iss := { core := c, ctx := x, serial := k.serial, pos := pos, next := next, slot := n, late := true } }
    let u ← .of (exec i (b.modCx (fun k => { k with r := { r with flight := k.r.flight } })))
    let back (k' : Ctx) : Ctx :=
      { k' with r := { k.r with flight := k'.r.flight },
                pend := k'.pend.map (fun p => if p.2.1 = k.serial then (p.1, k.serial - 1, p.2.2) else p) }
    match u.iss.stop with
    | none =>
      let u := u.modCx (fun k' => { back k' with comps := k'.comps.filter (· != .instr i n), lateRegs := none,
                                                 waitClk := 0, ackWait := false, status := if k'.status = .waiting then .ready else k'.status })
      .ok (if (u.ctx c x).status = .parked then u.unparkSoon c x else u)
    | some .hold =>
      -- its wait is one of R136: it counts, and parks
      let u := u.modCx (fun k' => { k' with r := k.r })
      if k.status = .ready || k.status = .waiting then u.countWait c x else .ok u
    | some (.trap _) => .ok (u.modCx (fun k' => { k' with r := k.r, comps := [], lateRegs := none }))
  | _, _ => .ok s
/-- A parked context is tried; once its condition holds it re-enters ready (R136). -/
def tryParked (s : State) (c x : Nat) : Run State := do
  let k := s.ctx c x
  if k.status != .parked || k.fetchWait || !k.comps.isEmpty || s.sched.any (fun e => e.ev = .contextUnpark && e.arg.core = c && e.arg.ctx = x) then .ok s
  else match ← s.attempt c x with
    | .waits b => .ok b
    | .holds b => .ok (if (b.ctx c x).fetchWait then b else s.unparkSoon c x)
    | _ => .ok (s.unparkSoon c x)
/-- Something done for every context of a core in turn. -/
def eachCtx (s : State) (f : State → Nat → Run State) : List Nat → Run State
  | [] => .ok s
  | x :: l => do (← f s x).eachCtx f l

/-- Accesses made in this clock, and parity (R249, R250, R263). -/
def accessesDue (s : State) (c : Nat) : List (Instr × Arg) :=
  let sp := (s.core c).sp
  let now := s.now c
  (sp.wr.filter (fun w => w.clk = now)).map (fun w => (.scratchpadDrainWrite, { core := c, id := w.id }))
    ++ ((sp.stripes.filter (fun t => t.parity = some now)).map (fun t => (.scratchpadDrainWrite, { core := c, n := t.row, flag := true })))
    ++ ((sp.deltas.filter (fun d => d.apply = some now)).map (fun d => (.parityDeltaApply, { core := c, id := d.wid })))
    ++ ((sp.reb.filter (fun g => g.2 ≤ now)).map
      (fun g => (.parityRebuildRow, { core := c, n := g.1, m := (now - g.2) / 2, flag := (now - g.2) % 2 = 0 })))
/-- Banks whose wake ends, or that go to sleep (R263). -/
def powerDue (s : State) (c : Nat) : List (Instr × Arg) :=
  let sp := (s.core c).sp
  let now := s.now c
  (List.range 32).filterMap (fun b => match sp.powerOf b with
    | .waking t _ => if t ≤ now + 1 then some (.bankWake, { core := c, n := b }) else none
    | .on => if tget sp.last b 0 + 4096 ≤ now then some (.bankSleep, { core := c, n := b }) else none
    | _ => none)
/-- Results, publications and comparisons of this clock (R144, R216, R228, R453). -/
def resultsDue (s : State) (c : Nat) : List (Instr × Arg) :=
  let now := s.now c
  (s.vres.filter (fun v => v.core = c && (match v.clk with | some t => t ≤ now | none => false))).map
    (fun v => (.variableResultLand, { id := v.id, flag := true }))
/-- The publications of DRAINs whose clock has come. -/
def pubsDue (s : State) (c : Nat) : State × List (Instr × Arg) :=
  let now := s.now c
  let due := (s.core c).pubs.filter (fun p => p.1 ≤ now)
  let s := due.foldl (fun (s : State) p => s.arrived c p.2.1 p.2.2.2) s
  (s.modCore c (fun k => { k with pubs := k.pubs.filter (fun p => now < p.1) }),
    due.map (fun p => (.engineProducerPublish, { core := c, ctx := p.2.1, n := p.2.2.1 })))
/-- Comparisons whose clock has come: every DRAIN of the tile has been published, the last of them 2 clocks ago (R228). -/
def comparesDue (s : State) (c : Nat) : List (Instr × Arg) :=
  let now := s.now c
  ((s.core c).eng0.closed.filter (fun t => !t.failed && t.unpub.isEmpty && (t.lastPub = 0 || t.lastPub + 2 ≤ now)
      && (match t.due with | some d => d ≤ now | none => false))).map
    (fun t => (.tileComparison, { core := c, id := t.id }))

/-- A DRAIN's steps are those of its context (R216): where the context makes none in this clock, what is still to come of its
DRAINs comes one clock later. A context in exposed mode that waits, has ended or is being saved issues nothing, and its
DRAINs go on (DEDUCED, log 77). -/
def holdDrains (s : State) (c : Nat) : State :=
  let now := s.now c
  let still (x : Nat) : Bool :=
    let k := s.ctx c x
    k.why = .none && (if k.r.ilk then k.splitOn && k.splitAt ≤ now else k.status = .ready && !(s.core c).stepped.contains x)
  s.modCore c (fun k => { k with
    stepped := [],
    pubs := k.pubs.map (fun p => if now ≤ p.1 && still p.2.1 then (p.1 + 1, p.2) else p),
    cb := k.cb.map (fun e => match e.kind with
      | .drain a d be g t f => if now ≤ f && still e.ctx then { e with kind := .drain a d be g t (f + 1) } else e
      | _ => e) })

/-- The end of a clock of a core: the accesses made, drains and claims, results, publications, comparisons, marks and
completions. -/
def endClock (s : State) (c : Nat) : Run State := do
  let xs := List.range 8
  let s := ((s.holdDrains c).scanReads c).eccScan c
  let s := ((← s.events (s.accessesDue c)).flushPosted c).emptiedDue c
  let s ← s.event .commitDrain { core := c }
  let s := (s.claimAgents c).claimApplies c
  let s ← s.events (s.powerDue c)
  let s ← s.events (s.resultsDue c)
  let s ← s.eachCtx (fun s x => s.stepCtx c x) xs
  let s := (s.stepIdle c 0).stepIdle c 1
  let (s, l) := s.pubsDue c
  let s ← s.events l
  let s ← s.events (s.comparesDue c)
  let s := xs.foldl (fun (s : State) x => s.takeShadow c x) s
  let s ← s.eachCtx (fun s x => s.lateRun c x) xs
  let s ← s.eachCtx (fun s x => s.tryParked c x) xs
  .ok (s.modSp c (fun sp => { sp with cells := sp.cells.filter (fun k => s.now c < k.clk) }))

/-! ### What falls due in a clock -/

/-- Steps made at fixed clocks (R74, R95, R97, R338, R341, R412, R425). -/
def periodic (s : State) : State × List (Instr × Arg) :=
  let t := s.pcyc
  let (take, s) := if t % 64 = 0 && !s.fq.ring.isEmpty then s.choose 2 else (0, s)
  let late := s.cores.any (fun k => 2 ^ 47 ≤ s.ltBase + max k.2.lt0 k.2.lt1) || s.lines.any (fun l => 2 ^ 47 ≤ max l.2.wts l.2.rts)
  (s, (if late then [(.timestampRebase, ({} : Arg))] else [])
    ++ (if t % 16 = 0 then [(.powerWindow, ({} : Arg)), (.launchQueueService, ({} : Arg))] else [])
    ++ (if t % 1024 = 0 then (.ltTick, ({} : Arg)) :: (List.range 8).map (fun d => (.grantRecompute, { n := d, flag := true })) else [])
    ++ ((List.range 8).filterMap (fun d => if t % 2 ^ 27 = 65536 * d then some (.permitAudit, { n := d }) else none))
    ++ (if take = 1 then [(.faultRecordRemove, ({} : Arg))] else []))

/-- A step is scheduled for a thing. -/
def dated (s : State) (i : Instr) (id : Nat) : Bool := s.sched.any (fun e => e.ev = i && e.arg.id = id)
/-- What copies, messages and the collective engine can do (R326, R330, R380, R382, R383, R399, R401). -/
def enginesDue (s : State) : List (Instr × Arg) :=
  let stuck (id : Nat) : Bool := s.fq.waits.any (fun w => w.2.2.2 = some id) || s.dated .cstabLoad id || s.dated .collAccept id
  let start (k e : Nat) : Option (Instr × Arg) := match s.copyHead k e with
    | some r => if r.cmd.time ≤ s.pcyc && s.pathFree k e ≤ s.pcyc then some (.copyStart, { n := k, m := e }) else none
    | none => none
  (match s.nextStep with | some (id, n) => [(.collStepStart, { id := id, n := n })] | none => [])
    ++ ((s.coll.waits.filter (fun w => s.waitFirst w && !stuck w.id)).map (fun w =>
      (if w.coll then .collAccept else .cstabLoad, { id := w.id })))
    ++ ((s.coll.runs.filter (fun r => r.phase = .queue)).map (fun r => (.collStepComplete, { id := r.id })))
    ++ ((s.fab.sends.filter (fun r => r.phase = 0 && s.sendReleased r)).map (fun r => (.sendDrain, { id := r.id })))
    ++ (((s.copies.map (·.clus)).eraseDups).flatMap (fun k => [0, 1].filterMap (start k)))
    ++ ((s.copies.filter (fun r => r.phase = .rel && s.copyReleased r)).map (fun r => (.copyPieceRetry, { id := r.id })))
/-- What the distributor, the placers and the homes can do (R72, R73, R82, R86, R279, R427). -/
def placingDue (s : State) : List (Instr × Arg) :=
  ((s.dist.lentries.filter (fun e => e.parts.length = 4)).map (fun e => (.deviceLaunchWrite, { id := e.id })))
    ++ ((List.range 32).filterMap (fun q => if s.fetchDue q then some (.queueHeadFetch, { n := q }) else none))
    ++ (if s.handoutDue then [(.portionHandout, ({} : Arg))] else [])
    ++ ((List.range 8).filterMap (fun d => if (s.die d).pending.isEmpty then none else some (.placeTask, { n := d })))
    ++ ((s.dist.launches.filter (fun l => s.completeDue l)).map (fun l => (.launchComplete, { id := l.id })))
    ++ ((List.range 9).filterMap (fun d => if s.invDue d then some (.htinvComplete, { n := d }) else none))
/-- What falls due on a core beside its issue (R42, R103, R131, R150, R413, R417, R418, R426). -/
def coreDue (s : State) (c : Nat) : List (Instr × Arg) :=
  let k := s.core c
  let at_ (x : Nat) : Arg := { core := c, ctx := x }
  let setups := (((k.starts.map (·.2.1)).eraseDups).filter (fun l => !s.prepared c l)).map (fun l =>
    (if k.setup.any (fun p => p.1 = l && p.2.1 = 2) then .preloadWrite else .placeTask, { core := c, id := l, flag := true }))
  let starts := (k.starts.filter (fun p => s.startReady c p || (s.launch p.2.1).cancelled)).map (fun p => (.taskStart, at_ p.1))
  let expired (x : Nat) : Bool := match (s.ctx c x).pre with
    | some p => !p.debug && p.deadline ≤ s.pcyc && (s.ctx c x).status != .halted
    | none => false
  (if k.freeze != 0 && k.freeze ≤ s.pcyc then [(.correctionFreezeEnd, { core := c })] else []) ++ setups ++ starts
    ++ ((k.ctxs.map (·.1)).flatMap (fun x =>
      (if s.endDue c x then [(.taskEnd, at_ x)] else []) ++ (if s.markDue c x then [(.markEstablished, at_ x)] else [])
        ++ (if expired x then [(.preemptWindowExpiry, at_ x)] else []) ++ (if s.saveDue c x then [(.preemptSave, at_ x)] else [])))

/-- Saved tasks of cancelled launches are never resumed. -/
def dropSaves (s : State) : State :=
  let gone := s.saves.filter (fun w => (s.launch w.launch).cancelled)
  let s : State := { s with saves := s.saves.filter (fun w => !gone.contains w) }
  gone.foldl (fun (s : State) w => (s.modLaunch w.launch (fun l => { l with halted := l.halted + 1 })).leaveCore w.core w.launch) s
/-- The core stands still in this clock (R150). -/
def frozen (s : State) (c : Nat) : Bool := s.pcyc < (s.core c).freeze
/-- The tasks of a core in a clock; half-core 0 is first where PCYC is even (R148). -/
def issueTasks (s : State) (c : Nat) : List Task :=
  if !(s.core c).split then [.issue c false] else if s.pcyc % 2 = 0 then [.issue c false, .issue c true] else [.issue c true, .issue c false]

/-- A soft error strikes a core, an entry of its dictionary store, a line of memory, the permits of a link, or an array
(R104, R229, R258, R411, R425). -/
def strike (s : State) : Upset → State
  | .spad c e => if s.cores.any (fun k => k.1 = c) && !(s.core c).sp.errs.contains e then
      s.modSp c (fun sp => { sp with errs := sp.errs ++ [e] }) else s
  | .dict c e u => if s.cores.any (fun k => k.1 = c) && !(s.core c).dictErr.contains (e, u) then
      s.modCore c (fun k => { k with dictErr := k.dictErr ++ [(e, u)] }) else s
  | .line p => s.modLine p (fun l => { l with err := true })
  | .permit d n k => s.modDie d (fun q => { q with permits := tset q.permits n (tget q.permits n 0 + k) })
  | .digit c h w r k x => if s.cores.any (fun q => q.1 = c) then
      s.modCore c (fun q => q.modEng h (fun e => { e with stuck := e.stuck ++ [(w, r, k, x)] })) else s
/-- The soft errors whose clock has come. -/
def strikes (s : State) : State :=
  (s.upsets.filter (fun u => u.1 ≤ s.pcyc)).foldl (fun (s : State) u => s.strike u.2)
    { s with upsets := s.upsets.filter (fun u => s.pcyc < u.1) }

/-- Rank of an event that reaches a context, among those of one clock (R416). -/
def rank (s : State) (i : Instr) (a : Arg) : Nat :=
  match i with
  | .containmentReset => 1
  | .refusalArrival => if (s.reqs.find? (fun r => r.id = a.id)).any (fun r => r.code = 5 || r.code = 6) then 2 else 4
  | .lockstepMismatch | .residueMismatch => 3
  | .hardyDecision => 4
  | _ => 5
/-- Events of one clock in the order in which they act on a context (R416); events of one rank keep theirs. -/
def ranked (s : State) (l : List (Instr × Arg)) : List (Instr × Arg) :=
  [1, 2, 3, 4, 5].flatMap (fun n => l.filter (fun p => s.rank p.1 p.2 = n))

/-! ### The slices between clocks (R273, R275) -/

/-- An answer that reaches a slice from outside in this clock joins its input buffer or its spill queue, or waits outside (R275). -/
def arrivals (s : State) (l : List (Instr × Arg)) : State × List (Instr × Arg) :=
  let go (a : State × List (Instr × Arg)) (e : Instr × Arg) : State × List (Instr × Arg) :=
    let mine := if e.1 = .ackArrival || e.1 = .variableResultLand then
        (if e.2.flag then none else (a.1.req? e.2.id).bind (fun r => r.slice.map (fun k => (k, r)))) else none
    match mine with
    | none => (a.1, a.2 ++ [e])
    | some (k, r) => match a.1.enterSlice k r.id with
      | some t => (t, a.2)
      | none => (a.1.sched_ (a.1.pcyc + 1) (lineRoute r.who r.g.va 1) e.1 e.2, a.2)
  l.foldl go (s, [])
/-- A slice serves what its input buffer holds: of each bank as many as the ports that no core of the cluster uses in this clock
(R275). Beside it the steps that this comes to; what the spill queue holds returns behind it. -/
def serveSlice (s : State) (k : Nat) : State × List (Instr × Arg) :=
  let busy (b : Nat) : Nat := ((List.range 4).filter (fun i => s.pcyc < tget (s.core (4 * k + i)).l2Next b 0)).length
  let go (a : List Nat × List Nat × List (Instr × Arg)) (id : Nat) : List Nat × List Nat × List (Instr × Arg) :=
    match s.req? id with
    | none => a
    | some r =>
      let b := sliceBank r.g.va
      if !r.served || 4 ≤ busy b + (a.2.1.filter (· = b)).length then (a.1 ++ [id], a.2)
      else (a.1, a.2.1 ++ [b], a.2.2 ++ [(r.answerEv, { id := id, v := r.data, n := r.wts })])
  let (rest, _, evs) := (s.clu k).inbuf.foldl go ([], [], [])
  let s := s.modClu k (fun u => { u with inbuf := rest })
  (s, evs ++ (if (s.clu k).spill.isEmpty then [] else [(.spillQueueReturn, { n := k })]))
/-- Every slice that holds anything serves. -/
def serveSlices (s : State) : State × List (Instr × Arg) :=
  ((s.clus.map (·.1)).filter (fun k => !(s.clu k).inbuf.isEmpty || !(s.clu k).spill.isEmpty)).foldl (fun (a : State × List (Instr × Arg)) k =>
    let (s, l) := a.1.serveSlice k; (s, a.2 ++ l)) (s, [])
/-- A line may leave a cache at any time: whether one does in a clock, and which, are free choices, since the spec gives no
replacement rule (R273, R443; log 5). -/
def evictions (s : State) : State :=
  let s := (s.clus.map (·.1)).foldl (fun (s : State) k =>
    let free := (s.clu k).l2.filter (fun l => l.pins = 0 && l.wpend = 0)
    if free.isEmpty then s
    else
      let (n, s) := s.choose (free.length + 1)
      match free[n]? with
      | none => s
      | some v =>
        let s := s.modClu k (fun u => { u with l2 := dropLine u.l2 v.asid v.va })
        if v.dirty = 0#128 then s else s.writeBack (.evict (4 * k)) v.launch 0 0 v.ent v.va v.data.toNat v.valid.toNat) s
  (s.cores.map (·.1)).foldl (fun (s : State) c =>
    let free := (s.core c).l1.filter (fun l => !s.l1Stays c l)
    if free.isEmpty then s
    else
      let (n, s) := s.choose (free.length + 1)
      match free[n]? with
      | none => s
      | some v =>
        let s := s.modCore c (fun q => { q with l1 := dropLine q.l1 v.asid v.va })
        if v.dirty = 0#128 then s else s.toSlice c v) s

/-- A new clock: PCYC advances, the same on every die (R25: at most 1 apart; DESIGN CHOICE, log 84), a frozen core loses the
clock, entries are released, and what falls due is lined up (R150, R253). -/
def tick (s : State) : State :=
  let (s, served) := s.serveSlices
  let s := State.evictions (State.strikes { s with pcyc := s.pcyc + 1 })
  let all := s.cores.map (·.1)
  let s := all.foldl (fun (s : State) c => (s.applyMregs c).applyPasses c) s
  let s := all.foldl (fun (s : State) c => if s.frozen c then s.modCore c (fun k => { k with lost := k.lost + 1 }) else s) s
  let live := all.filter (fun c => !s.frozen c)
  let ins := s.inputs.filter (fun i => i.1 ≤ s.pcyc)
  let due := s.sched.filter (fun e => e.due ≤ s.pcyc)
  let s : State := { s with inputs := s.inputs.filter (fun i => s.pcyc < i.1), sched := s.sched.filter (fun e => s.pcyc < e.due) }
  let s := live.foldl (fun (s : State) c => (s.tongsReads c).releaseCore c) s
  let s := all.foldl (fun (s : State) c => s.stepPromo c) (s.servePort.grantInbox.stepRels.dropSaves)
  let (s, per) := s.periodic
  let evs := per ++ s.enginesDue ++ s.placingDue ++ all.flatMap (fun c => s.coreDue c)
  let (s, due) := s.arrivals (due.map (fun e => (e.ev, e.arg)))
  { s with agenda := s.agenda ++ (s.ranked (served ++ due ++ ins.map (fun i => i.2))).map (fun p => .ev p.1 p.2)
      ++ evs.map (fun p => .ev p.1 p.2) ++ live.flatMap (fun c => s.issueTasks c) ++ live.map (fun c => .endClock c) }

/-- One thing of the agenda done. -/
def runTask (s : State) (t : Task) : Out :=
  match t with
  | .ev i a => exec i { s with arg := a }
  | .issue c h => (s.issueHalf c (Bool.code h)).out
  | .endClock c => (s.endClock c).out

/-- What moves next: the head of the agenda, or, when it is empty, the next clock. -/
def moveNext (s : State) : Out :=
  match s.agenda with
  | t :: rest => State.runTask { s with agenda := rest } t
  | [] => .next s.tick

/-! ### A word placed where the next step fetches (log 7) -/

/-- The slot that a word of the opcode table is read in: as `decodeTableWord`. -/
def tableSlot (nbits w : Nat) : Nat :=
  let l := if nbits ≤ 32 then [5] else if nbits ≤ 48 then [0, 1, 6] else [2, 3]
  (l.find? (fun n => (decodeSlot n w).toOption.isSome)).getD (l.headD 0)
/-- The bundle whose one slot in use holds the word. -/
def tableBundle (nbits w : Nat) : Nat := let n := tableSlot nbits w; fld w 0 (slotBits n).2 * 2 ^ (slotBits n).1
/-- The launch of one task whose index stream is one escape with its bundle at address 0, with every bank and matrix state. -/
def tableLaunch (id : Nat) : Launch where
  id := id
  q := 0
  hdr := BitVec.ofNat 2048 (2 ^ 44 + (2 ^ 32 - 1) * 2 ^ 256)
  dir := BitVec.ofNat 512 (25 * 2 ^ 192)
  lrt := []
  started := 1
  total := 1
/-- The word alone in a bundle at address 0, and context 0 of core 0 about to issue it as a fresh task: what a launch, its
placement and the fetch of its index line come to. -/
def placeWord (s : State) (nbits w : Nat) : State :=
  let id := s.dist.popNo + 1
  let l := tableLaunch id
  let s : State := { s with
    nextId := s.nextId + 1, mem := mwrite s.mem 0 50 (0xFFFF + 2 ^ 16 * tableBundle nbits w),
    dist := { s.dist with popNo := id, launches := l :: s.dist.launches }, agenda := .issue 0 false :: s.agenda }
  let s := s.modCore 0 (fun k => { k with icache := if k.icache.contains 0 then k.icache else 0 :: k.icache, prim0 := 0,
                                          sp := { k.sp with owner := (List.range 32).map (fun b => (b, id)) } })
  s.modCtx 0 0 (fun _ => { status := .ready, mark := some {}, launch := id, task := s.nextId - 1, nextAt := s.now 0 })

end State

end Sys2Proof.Machine
end

