-- ==== Sys2Proof/Machine/Step.lean ====
section
/-! DEFINITION. One step of the package: what moves next, and a word placed where it is the next thing to run. -/

namespace Sys2Proof.Machine

/-- One step (log 6). -/
def step (s : State) : Host.Outcome State Fault Refusal := State.moveNext s

/-- s with the instruction of the word as the one thing the next step runs (log 7). -/
def State.withFetchWord (s : State) (nbits w : Nat) : State := State.placeWord s nbits w

end Sys2Proof.Machine
end

