-- ==== Sys2Proof/Safety.lean ====
section
/-! DEFINITION. What counts as a safe step and a safe state, and the terms in which claims about instructions are made. -/

namespace Sys2Proof

/-- The instructions that write a scratchpad word at t + 2 as they issue (R256). -/
def Instr.writesWord : Instr → Bool
  | .ldfe .. | .ste .. | .stf .. | .samo .. => true
  | _ => false

end Sys2Proof

namespace Sys2Proof.Machine

/-- A step that neither faults nor is refused. -/
def Safe (s : State) : Prop := ∃ t, step s = .next t

/-- Both memories of the package are in canonical form. -/
def State.MemOk (s : State) : Prop := Memory.wf s.mem = true ∧ Memory.wf s.host = true

/-- No pending register keeps a slot's instruction from acting: its header flags act (R413), the pending bits of the bundle
have been looked at, or no register the instruction reads or writes is pending (R136, R146). -/
def State.Issues (s : State) (i : Instr) : Prop := s.iss.go = true ∨ s.stalled i = false

/-- The same while the instruction's own checks and waits still count. -/
def State.Tried (s : State) (i : Instr) : Prop := s.iss.go = false ∧ s.stalled i = false

/-- The instruction completes with one scalar result at a distance. -/
def GivesS (s : State) (i : Instr) (dist : Nat) (d : SReg) (v : Dword) : Prop :=
  s.Issues i → exec i s = .next (s.resS dist d v)

/-- The same for a result of any register file. -/
def Gives (s : State) (i : Instr) (dist : Nat) (w : RegWrite) : Prop :=
  s.Issues i → exec i s = .next (s.result dist w)

/-- The instruction completes in the state t. -/
def Does (s : State) (i : Instr) (t : State) : Prop := s.Issues i → exec i s = .next t

/-- The instruction, tried for issue, takes the trap. -/
def Traps (s : State) (i : Instr) (t : Trap) : Prop := s.Tried i → exec i s = .next (s.trap t)

/-- The instruction, tried for issue, holds its bundle for this clock. -/
def Holds (s : State) (i : Instr) : Prop := s.Tried i → exec i s = .next s.hold

/-- k is the multiple of the quantum that a rounding mode picks for a magnitude of x quanta, of a value with that sign (R49). -/
def Picks (rm : Rm) (neg : Bool) (x : ℚ) (k : Nat) : Prop :=
  match rm with
  | .rne | .ctx => |x - k| ≤ 1 / 2 ∧ (|x - k| = 1 / 2 → k % 2 = 0)
  | .rna => |x - k| ≤ 1 / 2 ∧ (|x - k| = 1 / 2 → x < k)
  | .rtz => k ≤ x ∧ x < k + 1
  | .rup => if neg then k ≤ x ∧ x < k + 1 else x ≤ k ∧ k < x + 1
  | .rdn => if neg then x ≤ k ∧ k < x + 1 else k ≤ x ∧ x < k + 1

/-- The infinity of a sign as a format gives it: E4M3 has none and gives a NaN (R51). -/
def infOf (t : Ty) (sat neg : Bool) : Num := if sat then maxNum t neg else if t = .e4m3 then .nan else .inf neg

/-- y encodes the value of sign neg and magnitude x, x > 0, as R50 rounds it to the format, with the overflow of its table, and R51
saturates it. -/
def Rounds (t : Ty) (rm : Rm) (sat neg : Bool) (x : ℚ) (y : Nat) : Prop :=
  ∃ (l : ℤ) (k : Nat), (2 : ℚ) ^ l ≤ x ∧ x < 2 ^ (l + 1) ∧
    let q : ℤ := max l (emin t) - fracBits t
    Picks rm neg (x / 2 ^ q) k
    ∧ ((k : ℚ) * 2 ^ q ≤ maxM t * 2 ^ maxQ t → ∃ m e, value t y = .fin neg m e ∧ (m : ℚ) * 2 ^ e = k * 2 ^ q)
    ∧ ((maxM t : ℚ) * 2 ^ maxQ t < k * 2 ^ q →
        value t y = if rm = .rtz ∨ (rm = .rup ∧ neg = true) ∨ (rm = .rdn ∧ neg = false) then maxNum t neg else infOf t sat neg)

/-- A finite value as a rational number. -/
def ratOf (neg : Bool) (m : Nat) (e : ℤ) : ℚ := (if neg then -1 else 1) * m * 2 ^ e

/-- A step of the table with an argument takes s to t. -/
def Ev (s : State) (i : Instr) (a : Arg) (t : State) : Prop := exec i { s with arg := a } = .next t

/-- Nothing of memory has changed: the package's memory, the host's, and every scratchpad. -/
def State.SameMemory (s t : State) : Prop :=
  (∀ a, mget t.mem a = mget s.mem a) ∧ (∀ a, mget t.host a = mget s.host a) ∧
    ∀ c a, mget (t.core c).sp.data a = mget (s.core c).sp.data a

/-- Everything of a context but its results in flight is as before: the registers, handles, bindings, position, loop stack,
mode, rounding and generators, mark, numbers and waits. -/
def Ctx.SameButFlight (k l : Ctx) : Prop :=
  l = { k with r := { k.r with flight := l.r.flight }, split := l.split }

/-- A result in flight but for the value of a vector register. -/
def InFlight.blur (f : InFlight) : InFlight :=
  { f with w := match f.w with | .v d _ en => .v d 0#16384 en | w => w }
/-- The registers, with the values of vector registers in flight left out. -/
def Regs.blur (r : Regs) : Regs := { r with flight := r.flight.map (·.blur) }
/-- A context, with the values of its vector registers in flight left out. -/
def Ctx.blur (k : Ctx) : Ctx :=
  { k with r := k.r.blur, mark := k.mark.map (·.blur), mark2 := k.mark2.map (fun m => (m.1, m.2.blur)), split := k.split.map (·.blur) }
/-- Everything of the package but the issuing context is as before. -/
def State.SameElsewhere (s t : State) : Prop :=
  t = { s with cores := t.cores } ∧ (∀ c, c ≠ s.iss.core → t.core c = s.core c) ∧
    t.core s.iss.core = { s.core s.iss.core with ctxs := (t.core s.iss.core).ctxs } ∧
    ∀ x, x ≠ s.iss.ctx → t.ctx s.iss.core x = s.ctx s.iss.core x

end Sys2Proof.Machine
end

