-- ==== Sys2Proof/Certificates/Slice0/Obligations.lean ====
section
/-! DEFINITION. What is claimed of the package, one proposition each. `GivesS`, `Gives`, `Does`, `Traps` and `Holds` are
completions: of an instruction that no pending register keeps from acting they say which next state `exec` answers. -/

open Sys2Proof Sys2Proof.Machine

/-! ### Encodings -/

/-- R107, R108, R117: every control and scalar instruction is read back from its encoding in each slot it may stand in. R111,
R112, R120, R121: every matrix beat and every engine instruction is read back from its encoding. -/
def Obligations.DecodeEncodeScalarEngine : Prop :=
  (∀ (i : Instr) (w : Nat), i.wellFormed = true →
    (encode i = some (.c, w) → w < 2 ^ 48 ∧ decodeSlot 0 w = .ok i)
    ∧ (encode i = some (.s, w) → w < 2 ^ 48 ∧ decodeSlot 1 w = .ok i)
    ∧ (encode i = some (.cs, w) → w < 2 ^ 48 ∧ decodeSlot 0 w = .ok i ∧ decodeSlot 1 w = .ok i))
  ∧ (∀ (i : Instr) (w : Nat), i.wellFormed = true →
    (encode i = some (.t, w) → w < 2 ^ 32 ∧ decodeSlot 5 w = .ok i)
    ∧ (encode i = some (.e, w) → w < 2 ^ 48 ∧ decodeSlot 6 w = .ok i))

/-- R109, R119: every vector instruction is read back from its encoding in both vector slots. R110, R118: every memory
instruction is read back from its encoding. -/
def Obligations.DecodeEncodeVectorMemory : Prop :=
  (∀ (i : Instr) (w : Nat), i.wellFormed = true → encode i = some (.v, w) →
    w < 2 ^ 64 ∧ decodeSlot 3 w = .ok i ∧ decodeSlot 4 w = .ok i)
  ∧ (∀ (i : Instr) (w : Nat), i.wellFormed = true → encode i = some (.m, w) → w < 2 ^ 64 ∧ decodeSlot 2 w = .ok i)

/-- Words that the spec writes out, and the instructions they stand for (R155, R163, R168, R449). R106, R107, R116, R123: a
bundle with a nonzero reserved header bit is refused with slot number 7; a bundle that decodes gives its four flags and
exactly the slots that hold something else than a NOP, each read from its own bits, and no two of them name one destination
other than s0 and k0; where two slots do, the bundle is refused with the number of the later one. -/
def Obligations.WordsAndBundles : Prop :=
  (decodeSlot 0 0x0000008A1206 = .ok (.loop 4 10 2#16 false true)
  ∧ decodeSlot 0 0x00000110050D = .ok (.fpmode 5 .rtz .interlocked)
  ∧ decodeSlot 1 0xB7AB6FBBC541 = .ok (.li 5 0xDEADBEEF#32 2)
  ∧ decodeSlot 2 0x0000000FD9250A30 = .ok (.amo 5 10 9 .d none .pkg .swap)
  ∧ decodeSlot 2 0x0000000FC00BB611 = .ok (.ldfe 27 23 .pkg 0#24)
  ∧ decodeSlot 3 0x00001FF000013145 = .ok (.vrot ⟨.f32, 3, 1, 0, false⟩ 511#11)
  ∧ decodeSlot 6 0x01000000001A = .ok (.bar 1))
  ∧ (∀ (b : Bundle),
    (fld b.toNat 4 12 ≠ 0 → decodeBundle b = .error (.reservedField, 7))
    ∧ (∀ f l, decodeBundle b = .ok (f, l) →
        fld b.toNat 4 12 = 0 ∧ f = ⟨bit b.toNat 0, bit b.toNat 1, bit b.toNat 2, bit b.toNat 3⟩
        ∧ (∀ n i, (n, i) ∈ l ↔ n < 7 ∧ i ≠ .nop ∧ decodeSlot n (slotWord b.toNat n) = .ok i)
        ∧ ∀ m n i j r, (m, i) ∈ l → (n, j) ∈ l → m ≠ n → r ∈ i.dests → r ∈ j.dests → r.isNull = true)
    ∧ (∀ n e, fld b.toNat 4 12 = 0 → n < 7 → (∀ m < n, ∃ i, decodeSlot m (slotWord b.toNat m) = .ok i) →
        decodeSlot n (slotWord b.toNat n) = .error e → decodeBundle b = .error (e, n))
    ∧ (∀ m n i j r, fld b.toNat 4 12 = 0 → (∀ k < 7, ∃ g, decodeSlot k (slotWord b.toNat k) = .ok g) → m < n → n < 7 →
        decodeSlot m (slotWord b.toNat m) = .ok i → decodeSlot n (slotWord b.toNat n) = .ok j →
        r ∈ i.dests → r ∈ j.dests → r.isNull = false →
        (∀ m' n' i' j' r', m' < n' → n' < n → decodeSlot m' (slotWord b.toNat m') = .ok i' →
          decodeSlot n' (slotWord b.toNat n') = .ok j' → r' ∈ i'.dests → r' ∈ j'.dests → r'.isNull = true) →
        decodeBundle b = .error (.reservedField, n))
    ∧ decodeBundle 0#384 = .ok (⟨false, false, false, false⟩, []))

/-! ### Steps -/

/-- The model's agenda (log 6): an event at its head is run with its argument. R25: where nothing is left to do in a clock the
next clock begins, and PCYC advances by one. -/
def Obligations.StepRunsEvent : Prop :=
  (∀ (s : State) (i : Instr) (a : Arg) (rest : List Task), s.agenda = .ev i a :: rest →
    step s = exec i { s with agenda := rest, arg := a })
  ∧ (∀ (s : State), s.agenda = [] → ∃ t, step s = .next t ∧ t.pcyc = s.pcyc + 1)

/-- R133, R136, R146 (log 6): when the one ready context of a core in checked mode has a bundle with one slot in use, no cancel
trap or save comes before it (R78, R417), and the instruction of that slot meets the checks of R146 and acts, then the step is
that instruction's effect, followed by the sequencer's and the header flags' work, and its power is charged. An MREGR or MREGW
sees the engine as of issue (R116, R378). -/
def Obligations.StepRunsBundle : Prop :=
  ∀ (s : State) (c : Nat) (rest : List Task) (bundle : Bundle) (next n : Nat) (i : Instr) (f : Flags) (u v : State)
    (cells : List (Nat × Nat × Nat)),
    let x := (s.core c).prim0
    let k := s.ctx c x
    let s0 : State := State.modCore { s with agenda := rest } c (fun k => { k with lead0 := k.prim0 })
    s.agenda = .issue c false :: rest → (s.core c).split = false → (∀ y < 8, (s.ctx c y).splitOn = false ∧ (s.ctx c y).cancelDue = false ∧ (s.ctx c y).pre = none) → k.isReady = true →
    s.canTry c x = true → (∀ y < 8, y ≠ x → (s.ctx c y).isReady = false) → s.fetch c x = .bundle bundle next →
    decodeBundle bundle = .ok (f, [(n, i)]) → f.fmk = false → State.interlocked k i = false → k.blocked i = false →
    (State.fixedResults i = 0 ∨ s.inFlight c x + State.fixedResults i ≤ 64) →
    let b := State.heldByTable { s0 with
      arg := { core := c, ctx := x },
      iss := { core := c, ctx := x, serial := k.serial, pos := k.r.pc.toNat, next := next, slots := [(n, i)], fmk := false,
               fyd := f.fyd, fqp := f.fqp, fnd := f.fnd, split := false, valid := true, clear := true } } c x false
    let engines (t : State) : State := if State.seesEngine i then t.withEngines b else t
    State.lateSlot b i = false → exec i { engines b with iss := { b.iss with slot := n } } = .next u → u.iss.stop = none →
    let q := (engines u).sequencer b
    q.bad = none → (b.core c).sp.grantUses (u.iss.uses ++ q.uses) [] [] = some cells →
    State.finishBundle (((engines u).modSp c (fun sp => sp.rouseUses (b.now c) (u.iss.uses ++ q.uses))).modSp c (fun sp =>
        cells.foldl (fun sp p => sp.touch p.2.1 p.1)
          { sp with cells := sp.cells ++ cells.map (fun p => { bank := p.1, clk := p.2.1, row := p.2.2, ctx := x }) })) q = .ok v →
    s.fits c 0 v.bundleCost = true → step s = .next (v.charge c 0 v.bundleCost)

/-- Every step keeps both memories in canonical form: no listed byte equals what an unlisted one reads as, and addresses rise. -/
def Obligations.MemoryStaysCanonical : Prop :=
  ∀ (s t : State), s.MemOk → step s = .next t → t.MemOk

/-- R9, R25, R83, R113, R425: the state right after power-on reset: PCYC is 0, no launch, nothing listed in memory, the queues
off, and no context in use; a context that has not been placed holds the handles, bindings and loop stack unset. The
canonical form holds right after power-on reset. -/
def Obligations.ResetState : Prop :=
  (let s := State.reset
  s.pcyc = 0 ∧ s.mem = [] ∧ s.host = [] ∧ s.dist.launches = [] ∧ s.agenda = [.ev .packagePowerOnReset {}] ∧ s.reqs = [] ∧ s.copies = [] ∧ s.fq.ring = []
  ∧ (∀ q < 32, (s.lqueue q).en = false) ∧ (∀ c x, (s.ctx c x).status = .free)
  ∧ (∀ c x, (s.ctx c x).r.ls = [] ∧ (∀ h : HReg, (s.ctx c x).r.h[h.val].v = false) ∧ ∀ b : BReg, (s.ctx c x).r.b[b.val].v = false))
  ∧ (State.reset.MemOk)

/-- No instruction and no event is refused: whatever a step of the table meets, the spec gives it an effect, but for a fault at
an address where there is no memory. Every slot instruction and header flag answers a next state in every state: it acts,
waits or takes its trap. -/
def Obligations.EveryInstructionAnswers : Prop :=
  (∀ (i : Instr) (s : State) (r : Refusal), exec i s ≠ .refused r)
  ∧ (∀ (i : Instr) (s : State), ((encode i).isSome = true ∨ i ∈ [.restartMark, .yield, .quenchPoint, .endOfTask]) →
    ∃ t, exec i s = .next t)

/-! ### Registers, results and the sequencer -/

/-- R113: s0 reads zero and k0 all ones; writes to them are discarded. R139: a result at distance d is written by the d-th step
of its context and not before; of two that land together the later in program order is kept. -/
def Obligations.RegistersAndResults : Prop :=
  (∀ (r : Regs) (v : Dword) (m en : KWord),
    r.sreg 0 = 0#64 ∧ r.kreg 0 = BitVec.allOnes 512 ∧ r.write (.s 0 v) = r ∧ r.write (.k 0 m en) = r
    ∧ (∀ d : SReg, d ≠ 0 → (r.write (.s d v)).sreg d = v) ∧ (∀ d e : SReg, e ≠ d → (r.write (.s d v)).sreg e = r.sreg e)
    ∧ (∀ d : KReg, d ≠ 0 → (r.write (.k d m en)).kreg d = (m &&& en) ||| (r.kreg d &&& ~~~en))
    ∧ (∀ d e : KReg, e ≠ d → (r.write (.k d m en)).kreg e = r.kreg e))
  ∧ (∀ (r : Regs) (w : RegWrite) (ld : Bool) (d : Nat), 1 ≤ d → ∀ (n : Nat) (l : List (Nat × Nat × Nat)), r.flight = [⟨d, w, ld, n, l⟩] →
    (∀ j < d, Regs.stepFlight^[j] r = { r with flight := [⟨d - j, w, ld, n, l⟩] })
    ∧ Regs.stepFlight^[d] r = { r.write w with flight := [] }
    ∧ (∀ w', ({ r with flight := [⟨1, w, ld, n, l⟩, ⟨1, w', ld, n, l⟩] } : Regs).stepFlight = { (r.write w).write w' with flight := [] }))

/-- R133, R152, R155: the next position of a bundle that is no end of a loop body: its branch's target, else the position after
it. R133: at the end of a loop body without a skip map the innermost entry counts on and the body starts again, or the entry
is popped and the test is made for the one below it. R145, R161, R163, R175, R372: how the effects of a bundle change the
registers for later bundles. -/
def Obligations.SequencerAndEffects : Prop :=
  (∀ (t b : State), t.iss.fnd = false →
    let ls := State.stackOf t.iss.effects t.cx.r.ls
    let next : Int := match State.branchOf t.iss.effects with | some (a, _) => a | none => t.iss.next
    (∀ e rest, ls = e :: rest → next ≠ e.stop) → (t.sequencer b).next = next ∧ (t.sequencer b).ls = ls ∧ (t.sequencer b).cross = false)
  ∧ (∀ (s : State) (c x t : Nat) (rd : Nat → Nat → Nat) (e : LoopEntry) (rest : List LoopEntry) (q : State.Seq), q.next = e.stop → e.sk = false →
    (e.idx + 1 < e.cnt → (s.boundaries c x t rd (e :: rest) q).next = e.start
      ∧ (s.boundaries c x t rd (e :: rest) q).ls = { e with idx := e.idx + 1 } :: rest ∧ (s.boundaries c x t rd (e :: rest) q).cross = true)
    ∧ (e.cnt ≤ e.idx + 1 → (rest = [] ∨ ∃ g l, rest = g :: l ∧ q.next ≠ g.stop) →
        (s.boundaries c x t rd (e :: rest) q).next = e.stop ∧ (s.boundaries c x t rd (e :: rest) q).ls = rest
        ∧ (s.boundaries c x t rd (e :: rest) q).cross = true))
  ∧ (∀ (r : Regs) (h : HReg) (fill cp eng : Int) (g : Ring) (n : BReg) (b : Binding) (rm : Rm) (ilk : Bool) (v : Word32),
    (State.applyEffect r (.ringSet h g)).h[h.val] = g
    ∧ (State.applyEffect r (.ring h fill cp eng)).h[h.val].fill = (r.h[h.val].fill + fill).toNat
    ∧ (State.applyEffect r (.ring h fill cp eng)).h[h.val].cp = ((r.h[h.val].cp + cp) % (r.h[h.val].cnt + 1 : Nat)).toNat
    ∧ (State.applyEffect r (.bind n b)).b[n.val] = b
    ∧ (State.applyEffect r (.fpctl rm ilk)).rm = rm ∧ (State.applyEffect r (.fpctl rm ilk)).ilk = ilk
    ∧ (State.applyEffect r (.reseed v)).srseed = v ∧ (State.applyEffect r (.reseed v)).gens = genAll v
    ∧ (∀ e : Effect, (State.applyEffect r e).s = r.s ∧ (State.applyEffect r e).v = r.v ∧ (State.applyEffect r e).k = r.k))

/-! ### Control and scalar instructions -/

/-- R165: the arithmetic and logical operations, their encodings, results and distance 1 (R140). -/
def Obligations.ScalarArithmetic : Prop :=
  ∀ (s : State) (d a b : SReg) (imm : BitVec 28) (n : Fin 64),
    (GivesS s (.add d a b) 1 d (s.rs a + s.rs b) ∧ GivesS s (.sub d a b) 1 d (s.rs a - s.rs b)
      ∧ GivesS s (.addi d a imm) 1 d (s.rs a + imm.signExtend 64))
    ∧ (GivesS s (.and d a b) 1 d (s.rs a &&& s.rs b) ∧ GivesS s (.or d a b) 1 d (s.rs a ||| s.rs b)
      ∧ GivesS s (.xor d a b) 1 d (s.rs a ^^^ s.rs b))
    ∧ (GivesS s (.andi d a imm) 1 d (s.rs a &&& imm.signExtend 64) ∧ GivesS s (.ori d a imm) 1 d (s.rs a ||| imm.signExtend 64)
      ∧ GivesS s (.xori d a imm) 1 d (s.rs a ^^^ imm.signExtend 64))
    ∧ (GivesS s (.shl d a b) 1 d (s.rs a <<< ((s.rs b).toNat % 64)) ∧ GivesS s (.shr d a b) 1 d (s.rs a >>> ((s.rs b).toNat % 64))
      ∧ GivesS s (.sra d a b) 1 d ((s.rs a).sshiftRight ((s.rs b).toNat % 64)))
    ∧ (GivesS s (.shli d a n) 1 d (s.rs a <<< n.val) ∧ GivesS s (.shri d a n) 1 d (s.rs a >>> n.val)
      ∧ GivesS s (.srai d a n) 1 d ((s.rs a).sshiftRight n.val))
    ∧ (encode (.add d a b) = some (.cs, encRR 0x20 d a b) ∧ encode (.sub d a b) = some (.cs, encRR 0x21 d a b)
      ∧ encode (.addi d a imm) = some (.cs, encRI 0x22 d a imm.toNat) ∧ encode (.and d a b) = some (.cs, encRR 0x23 d a b)
      ∧ encode (.or d a b) = some (.cs, encRR 0x24 d a b) ∧ encode (.xor d a b) = some (.cs, encRR 0x25 d a b)
      ∧ encode (.andi d a imm) = some (.cs, encRI 0x26 d a imm.toNat) ∧ encode (.ori d a imm) = some (.cs, encRI 0x27 d a imm.toNat)
      ∧ encode (.xori d a imm) = some (.cs, encRI 0x28 d a imm.toNat) ∧ encode (.shl d a b) = some (.cs, encRR 0x29 d a b)
      ∧ encode (.shr d a b) = some (.cs, encRR 0x2A d a b) ∧ encode (.sra d a b) = some (.cs, encRR 0x2B d a b)
      ∧ encode (.shli d a n) = some (.cs, encRI 0x2C d a n.val) ∧ encode (.shri d a n) = some (.cs, encRI 0x2D d a n.val)
      ∧ encode (.srai d a n) = some (.cs, encRI 0x2E d a n.val))

/-- R166: multiplication and division, with the corner cases of the table, at distances 3 and 12 (R140). The products and
quotients are those of Lean's own bit vectors, not of the model's integer arithmetic. -/
def Obligations.ScalarMultiplyDivide : Prop :=
  ∀ (s : State) (d a b : SReg),
    GivesS s (.mul d a b) 3 d (s.rs a * s.rs b)
    ∧ GivesS s (.mulh d a b) 3 d (((s.rs a).signExtend 128 * (s.rs b).signExtend 128).extractLsb' 64 64)
    ∧ GivesS s (.mulhu d a b) 3 d (((s.rs a).setWidth 128 * (s.rs b).setWidth 128).extractLsb' 64 64)
    ∧ GivesS s (.div d a b) 12 d (if s.rs b = 0#64 then -1#64 else (s.rs a).sdiv (s.rs b))
    ∧ GivesS s (.divu d a b) 12 d (if s.rs b = 0#64 then BitVec.allOnes 64 else s.rs a / s.rs b)
    ∧ GivesS s (.rem d a b) 12 d (if s.rs b = 0#64 then s.rs a else (s.rs a).srem (s.rs b))
    ∧ GivesS s (.remu d a b) 12 d (if s.rs b = 0#64 then s.rs a else s.rs a % s.rs b)
    ∧ (s.rs a = BitVec.intMin 64 → s.rs b = -1#64 →
        GivesS s (.div d a b) 12 d (BitVec.intMin 64) ∧ GivesS s (.rem d a b) 12 d 0#64)
    ∧ (encode (.mul d a b) = some (.cs, encRR 0x2F d a b) ∧ encode (.mulh d a b) = some (.cs, encRR 0x30 d a b)
      ∧ encode (.mulhu d a b) = some (.cs, encRR 0x31 d a b) ∧ encode (.div d a b) = some (.cs, encRR 0x32 d a b)
      ∧ encode (.divu d a b) = some (.cs, encRR 0x33 d a b) ∧ encode (.rem d a b) = some (.cs, encRR 0x34 d a b)
      ∧ encode (.remu d a b) = some (.cs, encRR 0x35 d a b))

/-- R167: comparison and selection. SEL reads its destination as the condition. -/
def Obligations.ScalarCompareSelect : Prop :=
  ∀ (s : State) (d a b : SReg),
    GivesS s (.min d a b) 1 d (if (s.rs a).toInt ≤ (s.rs b).toInt then s.rs a else s.rs b)
    ∧ GivesS s (.max d a b) 1 d (if (s.rs a).toInt ≤ (s.rs b).toInt then s.rs b else s.rs a)
    ∧ GivesS s (.minu d a b) 1 d (if (s.rs a).toNat ≤ (s.rs b).toNat then s.rs a else s.rs b)
    ∧ GivesS s (.maxu d a b) 1 d (if (s.rs a).toNat ≤ (s.rs b).toNat then s.rs b else s.rs a)
    ∧ GivesS s (.seq d a b) 1 d (if s.rs a = s.rs b then 1#64 else 0#64)
    ∧ GivesS s (.slt d a b) 1 d (if (s.rs a).toInt < (s.rs b).toInt then 1#64 else 0#64)
    ∧ GivesS s (.sltu d a b) 1 d (if (s.rs a).toNat < (s.rs b).toNat then 1#64 else 0#64)
    ∧ GivesS s (.sel d a b) 1 d (if s.rs d ≠ 0#64 then s.rs a else s.rs b)
    ∧ (∀ (r : Regs) (v : Dword), r.write (.s 0 v) = r)
    ∧ (encode (.min d a b) = some (.cs, encRR 0x36 d a b) ∧ encode (.max d a b) = some (.cs, encRR 0x37 d a b)
      ∧ encode (.minu d a b) = some (.cs, encRR 0x38 d a b) ∧ encode (.maxu d a b) = some (.cs, encRR 0x39 d a b)
      ∧ encode (.seq d a b) = some (.cs, encRR 0x3A d a b) ∧ encode (.slt d a b) = some (.cs, encRR 0x3B d a b)
      ∧ encode (.sltu d a b) = some (.cs, encRR 0x3C d a b) ∧ encode (.sel d a b) = some (.cs, encRR 0x3D d a b))

/-- R168 and R169: counts of bits, the immediate load and the bit fields, each told by the bits of its result. -/
def Obligations.ScalarBits : Prop :=
  ∀ (s : State) (d a : SReg) (imm : BitVec 32) (sh : Fin 4) (p : Fin 64) (w : BitVec 7),
    (∃ n ≤ 64, (∀ i < n, (s.rs a).getLsbD (63 - i) = false) ∧ (n < 64 → (s.rs a).getLsbD (63 - n) = true) ∧
      GivesS s (.clz d a) 1 d (BitVec.ofNat 64 n))
    ∧ (∃ n ≤ 64, (∀ i < n, (s.rs a).getLsbD i = false) ∧ (n < 64 → (s.rs a).getLsbD n = true) ∧
      GivesS s (.ctz d a) 1 d (BitVec.ofNat 64 n))
    ∧ GivesS s (.popc d a) 1 d (BitVec.ofNat 64 ((List.range 64).countP (fun i => (s.rs a).getLsbD i)))
    ∧ GivesS s (.li d imm sh) 1 d (imm.setWidth 64 <<< (16 * sh.val))
    ∧ (bitfieldOk p w = true →
        GivesS s (.bfx d a p w false) 1 d (((s.rs a).extractLsb' p.val w.toNat).setWidth 64)
        ∧ GivesS s (.bfx d a p w true) 1 d (((s.rs a).extractLsb' p.val w.toNat).signExtend 64)
        ∧ ∃ v : Dword, (∀ i < 64, v.getLsbD i =
              if p.val ≤ i ∧ i < p.val + w.toNat then (s.rs a).getLsbD (i - p.val) else (s.rs d).getLsbD i) ∧
            GivesS s (.bfi d a p w) 1 d v)

/-- R152 to R154: the branches; that RET and JMPI read their register unsigned and do not wrap is the model's reading (log 11). What a
branch does to the position is `SequencerAndEffects`. R157, R158: LEXIT pops the innermost
entry and traps when there is none; LIDX reads an index. -/
def Obligations.BranchesAndLoopExit : Prop :=
  (∀ (s : State) (c : Cond) (a b : SReg) (off : BitVec 24) (imm : BitVec 28),
    let there : Effect := .branch (s.iss.pos + off.toInt) 2
    Does s (.br off) (s.effect there)
    ∧ ((match c with
        | .eq => s.rs a = s.rs b
        | .ne => s.rs a ≠ s.rs b
        | .lt => (s.rs a).toInt < (s.rs b).toInt
        | .ge => (s.rs b).toInt ≤ (s.rs a).toInt
        | .ltu => (s.rs a).toNat < (s.rs b).toNat
        | .geu => (s.rs b).toNat ≤ (s.rs a).toNat) → Does s (.brc c a b off) (s.effect there))
    ∧ (¬ (match c with
        | .eq => s.rs a = s.rs b
        | .ne => s.rs a ≠ s.rs b
        | .lt => (s.rs a).toInt < (s.rs b).toInt
        | .ge => (s.rs b).toInt ≤ (s.rs a).toInt
        | .ltu => (s.rs a).toNat < (s.rs b).toNat
        | .geu => (s.rs b).toNat ≤ (s.rs a).toNat) → Does s (.brc c a b off) s)
    ∧ Does s (.call a off) ((s.resS 1 a (BitVec.ofNat 64 s.iss.next)).effect there)
    ∧ Does s (.ret a) (s.effect (.branch (s.rs a).toNat 3))
    ∧ Does s (.jmpi a imm) (s.effect (.branch ((s.rs a).toNat + imm.toInt) 3)))
  ∧ (∀ (s : State) (d : SReg) (n : Fin 6),
    (s.cx.r.ls = [] → Traps s .lexit { cause := 0x0C }) ∧ (s.cx.r.ls ≠ [] → Does s .lexit (s.effect .pop))
    ∧ (s.cx.r.ls.length ≤ n.val → GivesS s (.lidx d n) 1 d 0#64)
    ∧ (∀ e, s.cx.r.ls[n.val]? = some e →
        GivesS s (.lidx d n) 1 d (BitVec.ofNat 64 (if e.md then e.cnt - 1 - e.idx else e.idx))))

/-- R155: LOOP and LOOPI with no skip map push an entry, or with a count of 0 branch past the body; a full stack traps. With a
skip map they take the mode trap in exposed mode and the alignment trap on a map out of place. R156: a scan of a skip map
stops at the first iteration whose bit is clear, bits at or above 2^22 being clear. That a word at or above 2^22 is no further word of
the scan is the model's choice (log 95), and so is what becomes of a word that is written while the scan runs (log 58). -/
def Obligations.LoopsAndSkipMaps : Prop :=
  (∀ (s : State) (a b : SReg) (n : BitVec 10) (len : BitVec 16) (md sk : Bool),
    let enters (i : Instr) (cnt : Nat) : Prop :=
      (s.cx.r.ls.length = 6 → Traps s i { cause := 0x0C })
      ∧ (s.cx.r.ls.length ≠ 6 → sk = false →
          Does s i (s.effect (if cnt = 0 then .branch (s.iss.next + len.toNat) 1
            else .push { idx := 0, cnt := cnt, start := s.iss.next, stop := s.iss.next + len.toNat, md := md, sk := false, map := 0 })))
      ∧ (s.cx.r.ls.length ≠ 6 → sk = true → s.exposed = true → Traps s i { cause := 0x0B })
      ∧ (s.cx.r.ls.length ≠ 6 → sk = true → s.exposed = false → (2 ^ 22 ≤ (s.rs b).toNat ∨ (s.rs b).toNat % 8 ≠ 0) →
          Traps s i { cause := 0x07, addr := (s.rs b).toNat })
      ∧ (s.loopCheck b cnt sk = none → ∃ t, Does s i t ∧ t.iss.effects = s.iss.effects ++
          [let idx := if sk then (s.scan s.iss.core s.iss.ctx (s.rs b).toNat cnt 0).1 else 0
           if cnt ≤ idx then .branch (s.iss.next + len.toNat) 1
           else .push { idx := idx, cnt := cnt, start := s.iss.next, stop := s.iss.next + len.toNat, md := md, sk := sk,
                        map := if sk then (s.rs b).toNat else 0 }])
    enters (.loop a b len md sk) (s.rs a).toNat ∧ enters (.loopi n b len md sk) n.toNat)
  ∧ (∀ (rd : Nat → Nat) (map cnt idx fuel : Nat), idx ≤ cnt → Config.spadBytes / 8 < fuel →
    let skip (i : Nat) : Prop := map + 8 * (i / 64) < 2 ^ 22 ∧ (rd (map + 8 * (i / 64))).testBit (i % 64) = true
    let j := (scanMap (fun _ a => rd a) map cnt fuel idx 0).1
    idx ≤ j ∧ j ≤ cnt ∧ (∀ i, idx ≤ i → i < j → skip i) ∧ (j < cnt → ¬ skip j))

/-- R160 to R164: TRAP, SYSRD, SYSWR, FPMODE and CYC. Each completes in every state where no pending register stops it: a notice
where its context has fewer than 64 entries and the core fewer than 256, FPMODE but for the mode trap and the wait of R142.
SYSRD gives the register's value as of issue, of which those of R161's own sources are written out. That a notice waits while the
core has no place, and what FPMODE waits for (`State.quiet`), are the model's readings (logs 12 and 22). -/
def Obligations.SystemInstructions : Prop :=
  ∀ (s : State) (d a : SReg) (code : BitVec 28) (r : BitVec 16) (rm : Rm) (m : ModeSel),
    let ctl : Dword := BitVec.ofNat 64 (Bool.code s.cx.r.ilk + 2 * s.cx.r.rm.code)
    let live := s.cx.r.ls.any (fun e => e.sk)
    let full := 64 ≤ s.cc.occupied s.iss.ctx ∨ 256 ≤ s.cc.cb.length
    let waits := m = .exposed ∧ s.cx.r.ilk = true ∧ s.quiet = false
    (code.getLsbD 27 = true → Traps s (.trap code) { cause := 0x13, info := code.toNat })
    ∧ (code.getLsbD 27 = false → ¬ full → s.Issues (.trap code) →
        exec (.trap code) s = .next (s.addEntry .none (.notice code.toNat s.iss.pos)))
    ∧ (code.getLsbD 27 = false → full → Holds s (.trap code))
    ∧ (s.Issues (.sysrd d r) → exec (.sysrd d r) s = .next (s.resS 1 d (s.sysreg r.toNat)))
    ∧ (s.sysreg 0x0000 = s.cx.wid ∧ s.sysreg 0x0004 = BitVec.ofNat 64 s.pcyc ∧ s.sysreg 0x0030 = s.cx.r.srseed.setWidth 64
      ∧ s.sysreg 0x0031 = ctl)
    ∧ (s.Issues (.syswr a 0x0030#16) → exec (.syswr a 0x0030#16) s = .next (s.effect (.reseed ((s.rs a).setWidth 32))))
    ∧ (r ≠ 0x0030#16 → s.Issues (.syswr a r) → exec (.syswr a r) s = .next s)
    ∧ (m = .exposed → live = true → Traps s (.fpmode d rm m) { cause := 0x0B })
    ∧ (¬ (m = .exposed ∧ live = true) → waits → Holds s (.fpmode d rm m))
    ∧ (¬ (m = .exposed ∧ live = true) → ¬ waits → s.Issues (.fpmode d rm m) →
        exec (.fpmode d rm m) s = .next ((s.resS 1 d ctl).effect (.fpctl (if rm = .ctx then s.cx.r.rm else rm)
          (match m with | .keep => s.cx.r.ilk | .exposed => false | .interlocked => true))))
    ∧ (s.quiet = true ↔ (∀ f ∈ s.cx.r.flight ++ s.cx.split, f.serial = s.iss.serial) ∧ (∀ p ∈ s.cx.pend, p.2.1 = s.iss.serial)
        ∧ ∀ w ∈ (s.cc.eng (s.half s.iss.core s.iss.ctx)).rows, w.ctx ≠ s.iss.ctx)
    ∧ (s.Issues (.cyc d) → exec (.cyc d) s = .next (s.resS 1 d (BitVec.ofNat 64 s.pcyc)))

/-- R170 to R174: the scalar floating-point instructions at distance 4, FDIV and FSQRT with variable latency. The operands are
read in their format and flushed in exposed mode, the exact value is rounded once (`finish`). -/
def Obligations.ScalarFloat : Prop :=
  ∀ (s : State) (ty t2 p : Ty) (d a b c : SReg) (rm : Rm) (sat : Bool),
    let y (x : Machine.Num) : Dword := BitVec.ofNat 64 (finish ty (s.rm rm) sat s.exposed x)
    (isFP ty = true →
      GivesS s (.fadd ty d a b rm sat) 4 d (y (sumOf [s.fs ty a, s.fs ty b] (s.rm rm)))
      ∧ GivesS s (.fsub ty d a b rm sat) 4 d (y (sumOf [s.fs ty a, (s.fs ty b).neg] (s.rm rm)))
      ∧ GivesS s (.fmul ty d a b rm sat) 4 d (y ((s.fs ty a).mul (s.fs ty b)))
      ∧ GivesS s (.ffma ty d a b c rm sat) 4 d (y (sumOf [(s.fs ty a).mul (s.fs ty b), s.fs ty c] (s.rm rm)))
      ∧ GivesS s (.fmin ty d a b rm sat) 4 d (BitVec.ofNat 64 (encodeF ty (satF ty sat (minMax false (s.fs ty a) (s.fs ty b)))))
      ∧ GivesS s (.fmax ty d a b rm sat) 4 d (BitVec.ofNat 64 (encodeF ty (satF ty sat (minMax true (s.fs ty a) (s.fs ty b)))))
      ∧ (p.code < 8 → GivesS s (.fcmp ty d a b p) 4 d
          (if predicate p.code (s.fs ty a) (s.fs ty b) then 1#64 else 0#64))
      ∧ (8 ≤ p.code → Traps s (.fcmp ty d a b p) { cause := 0x0A })
      ∧ (s.exposed = true → Traps s (.fdiv ty d a b rm sat) { cause := 0x0B } ∧ Traps s (.fsqrt ty d a rm sat) { cause := 0x0B })
      ∧ (s.exposed = false →
          Does s (.fdiv ty d a b rm sat)
            (s.varRange (fdivRange ty).1 (fdivRange ty).2 (.s d (y ((s.fs ty a).div (s.fs ty b)))))
          ∧ Does s (.fsqrt ty d a rm sat) (s.varRange (fdivRange ty).1 (fdivRange ty).2 (.s d (y (s.fs ty a).sqrt)))))
    ∧ (isFP ty = false →
        Traps s (.fadd ty d a b rm sat) { cause := 0x0A } ∧ Traps s (.fsub ty d a b rm sat) { cause := 0x0A }
        ∧ Traps s (.fmul ty d a b rm sat) { cause := 0x0A } ∧ Traps s (.ffma ty d a b c rm sat) { cause := 0x0A }
        ∧ Traps s (.fmin ty d a b rm sat) { cause := 0x0A } ∧ Traps s (.fmax ty d a b rm sat) { cause := 0x0A }
        ∧ Traps s (.fcmp ty d a b p) { cause := 0x0A } ∧ Traps s (.fdiv ty d a b rm sat) { cause := 0x0A }
        ∧ Traps s (.fsqrt ty d a rm sat) { cause := 0x0A })
    ∧ GivesS s (.fcvt ty t2 d a rm sat) 4 d
        (let x := convert ty t2 (s.rm rm) sat s.exposed (s.rs a).toNat
         if isSigned t2 then BitVec.ofInt 64 (intValue t2 x) else BitVec.ofNat 64 x)

/-- R175 to R178, R144: the ring-handle instructions, and when they wait or trap. -/
def Obligations.RingHandles : Prop :=
  ∀ (s : State) (h : HReg) (d a : SReg) (imm : BitVec 28) (n : BitVec 27) (sel : Fin 8) (free : Bool),
    let r := s.rh h
    let k : Int := (s.rs a).toInt + imm.toInt
    let m : Int := (s.rs a).toInt + n.toNat
    let slots : Nat := r.cnt + 1
    (r.eng = 0 → Ring.valid (s.rs a).toNat = true → Does s (.hset h a) (s.effect (.ringSet h (Ring.ofLow (s.rs a).toNat))))
    ∧ (r.eng = 0 → Ring.valid (s.rs a).toNat = false → Traps s (.hset h a) { cause := 0x04 })
    ∧ (r.eng ≠ 0 → s.exposed = false → Holds s (.hset h a)) ∧ (r.eng ≠ 0 → s.exposed = true → Traps s (.hset h a) { cause := 0x09 })
    ∧ (r.v = false ∨ k < 0 ∨ slots < k → Traps s (.hadvf h a imm) { cause := 0x09 } ∧ Traps s (.hadvc h a imm) { cause := 0x09 })
    ∧ (r.v = true → 0 ≤ k → k ≤ slots →
        (k = 0 ∨ (r.eng = 0 ∧ r.fill + k ≤ slots) → Does s (.hadvf h a imm) (s.effect (.ring h k 0 0)))
        ∧ (k ≠ 0 → ¬ (r.eng = 0 ∧ r.fill + k ≤ slots) →
            if s.exposed then Traps s (.hadvf h a imm) { cause := 0x09 } else Holds s (.hadvf h a imm))
        ∧ (k = 0 ∨ k ≤ r.fill → Does s (.hadvc h a imm) (s.effect (.ring h (-k) k 0)))
        ∧ (k ≠ 0 → ¬ k ≤ r.fill →
            if s.exposed then Traps s (.hadvc h a imm) { cause := 0x09 } else Holds s (.hadvc h a imm)))
    ∧ GivesS s (.hqry d h sel) 1 d (if r.v = false then 0#64 else BitVec.ofNat 64 (match sel with
        | 0 => r.fill
        | 1 => r.cp
        | 2 => r.eng
        | 3 => (r.cp + r.fill) % slots
        | 4 => (((slots : Int) - r.fill - r.eng) % 2 ^ 64).toNat
        | 5 => r.base * 64 + r.cp * (64 * 2 ^ r.k)
        | 6 => r.base * 64 + (r.cp + r.fill) % slots * (64 * 2 ^ r.k)
        | 7 => r.low))
    ∧ (r.v = false ∨ m < 0 ∨ slots < m → Traps s (.hwait h a n free) { cause := 0x09 })
    ∧ (r.v = true → 0 ≤ m → m ≤ slots →
        ((if free then m ≤ (slots : Int) - r.fill - r.eng else m ≤ r.fill) → Does s (.hwait h a n free) s)
        ∧ (¬ (if free then m ≤ (slots : Int) - r.fill - r.eng else m ≤ r.fill) → Holds s (.hwait h a n free)))

/-! ### Vector instructions -/

/-- R181: a masked write sets the active elements, clears the others when v.z is set and keeps them when it is not. R49 to R53: what
an element or a scalar is given: the exact value, or quotient, rounded in each mode, overflow, saturation, the sign of a zero
sum, and flushing of the rounded value; R55, R48: conversions that have an integer side. -/
def Obligations.MaskedWrite : Prop :=
  (∀ (r : Regs) (d : VReg) (ty : Ty) (act : Nat → Bool) (z : Bool) (f : Nat → Nat) (i : Nat), i < ty.count →
    elem ty.width ((r.write (maskedWrite d ty.width ty.count act z f)).vreg d).toNat i =
      (if act i then f i % 2 ^ ty.width else if z then 0 else elem ty.width (r.vreg d).toNat i)
    ∧ ∀ e, e ≠ d → (r.write (maskedWrite d ty.width ty.count act z f)).vreg e = r.vreg e)
  ∧ (∀ (t : Ty) (rm : Rm) (sat a b : Bool) (m n : Nat) (e g : ℤ) (x : Machine.Num), isFloat t = true →
    (m ≠ 0 → Rounds t rm sat a (m * 2 ^ e) (finish t rm sat false (.fin a m e)))
    ∧ value t (finish t rm sat false (.fin a 0 e)) = .fin a 0 (emin t - fracBits t)
    ∧ finish t rm sat false .nan = canonNaN t ∧ value t (finish t rm sat false (.inf a)) = infOf t sat a
    ∧ (m ≠ 0 → n ≠ 0 → Rounds t rm sat (a != b) (m * 2 ^ e / (n * 2 ^ g)) (finish t rm sat false ((Machine.Num.fin a m e).div (.fin b n g))))
    ∧ (let y := finish t rm sat false x
       let sign := 2 ^ (t.width - 1)
       finish t rm sat true x = if isFP t = true ∧ y % sign < 2 ^ fracBits t then y / sign * sign else y))
  ∧ (∀ (l : List (Bool × Nat × ℤ)) (rm : Rm), l ≠ [] → ∃ neg m e,
    sumOf (l.map (fun p => .fin p.1 p.2.1 p.2.2)) rm = .fin neg m e
    ∧ ratOf neg m e = (l.map (fun p => ratOf p.1 p.2.1 p.2.2)).sum
    ∧ (m = 0 → neg = (decide (rm = .rdn) || l.all (fun p => p.1 && p.2.1 == 0))))
  ∧ (∀ (src dst : Ty) (rm : Rm) (sat : Bool) (x : Nat),
    let (lo, hi) := intRange dst
    let v := intValue src x
    (isFloat src = true → isFloat dst = false →
      (value src x = .nan → convert src dst rm sat false x = 0)
      ∧ (∀ neg, value src x = .inf neg → intValue dst (convert src dst rm sat false x) = if neg then lo else hi)
      ∧ (∀ neg m e, value src x = .fin neg m e → ∃ k, Picks rm neg (m * 2 ^ e) k
          ∧ intValue dst (convert src dst rm sat false x) = max lo (min hi (if neg then -(k : ℤ) else k))))
    ∧ (isFloat src = false → isFloat dst = true →
        convert src dst rm sat false x = finish dst rm sat false (.fin (decide (v < 0)) v.natAbs 0))
    ∧ (isFloat src = false → isFloat dst = false → src ≠ dst →
        (convert src dst rm sat false x : ℤ) = (if sat then max lo (min hi v) else v) % 2 ^ dst.width))

/-- R186 to R190: the element-wise floating-point instructions. `op` is the masked write of the element values. R191, R192: the
element-wise integer instructions; results wrap, or are clamped with v.sat (R48). That VDIV and VSQRT take the format fault before the
mode trap is the model's choice (log 110). -/
def Obligations.VectorArithmetic : Prop :=
  (∀ (s : State) (o : VOp) (b : BSrc) (c : VReg) (rm : Rm) (sat : Bool),
    let op (f : Nat → Machine.Num) : RegWrite := s.vwrite o (fun i => s.fin o rm sat (f i))
    let exact (f : Nat → Machine.Num) : RegWrite := s.vwrite o (fun i => encodeF o.ty (satF o.ty sat (f i)))
    let format : Trap := { cause := 0x0A }
    (isFP o.ty = true → bsrcOk o.ty b = true →
      Gives s (.vadd o b rm sat) 6 (op (fun i => sumOf [s.va o i, s.vb o b i] (s.rm rm)))
      ∧ Gives s (.vsub o b rm sat) 6 (op (fun i => sumOf [s.va o i, (s.vb o b i).neg] (s.rm rm)))
      ∧ Gives s (.vmul o b rm sat) 6 (op (fun i => (s.va o i).mul (s.vb o b i)))
      ∧ Gives s (.vfma o b c rm sat) 6 (op (fun i => sumOf [(s.va o i).mul (s.vb o b i), s.vc o c i] (s.rm rm)))
      ∧ Gives s (.vfms o b c rm sat) 6 (op (fun i => sumOf [(s.va o i).mul (s.vb o b i), (s.vc o c i).neg] (s.rm rm)))
      ∧ Gives s (.vfnma o b c rm sat) 6 (op (fun i => sumOf [s.vc o c i, ((s.va o i).mul (s.vb o b i)).neg] (s.rm rm)))
      ∧ Gives s (.vscalb o b rm sat) 6 (op (fun i => (s.va o i).scalb (signedOf o.ty.width (s.bsrc b o.ty.width i))))
      ∧ Gives s (.vmin o b sat) 2 (exact (fun i => minMax false (s.va o i) (s.vb o b i)))
      ∧ Gives s (.vmax o b sat) 2 (exact (fun i => minMax true (s.va o i) (s.vb o b i))))
    ∧ (isFP o.ty = true → bsrcOk o.ty b = true →
      (s.exposed = false → Does s (.vdiv o b rm sat) (s.varRange (vdivRange o.ty).1 (vdivRange o.ty).2
          (op (fun i => (s.va o i).div (s.vb o b i)))))
      ∧ (s.exposed = true → Traps s (.vdiv o b rm sat) { cause := 0x0B }))
    ∧ (isFP o.ty = true →
      Gives s (.vabs o sat) 2 (exact (fun i => (s.va o i).abs)) ∧ Gives s (.vneg o sat) 2 (exact (fun i => (s.va o i).neg))
      ∧ Gives s (.vrcp o rm sat) 12 (op (fun i => (s.va o i).rcp)) ∧ Gives s (.vrsq o rm sat) 12 (op (fun i => (s.va o i).rsq))
      ∧ Gives s (.vexp2 o rm sat) 12 (op (fun i => (s.va o i).exp2)) ∧ Gives s (.vlog2 o rm sat) 12 (op (fun i => (s.va o i).log2))
      ∧ (s.exposed = false → Does s (.vsqrt o rm sat) (s.varRange (vdivRange o.ty).1 (vdivRange o.ty).2
          (op (fun i => (s.va o i).sqrt))))
      ∧ (s.exposed = true → Traps s (.vsqrt o rm sat) { cause := 0x0B }))
    ∧ (isFP o.ty = false ∨ bsrcOk o.ty b = false →
      Traps s (.vadd o b rm sat) format ∧ Traps s (.vsub o b rm sat) format ∧ Traps s (.vmul o b rm sat) format
      ∧ Traps s (.vfma o b c rm sat) format ∧ Traps s (.vfms o b c rm sat) format ∧ Traps s (.vfnma o b c rm sat) format
      ∧ Traps s (.vscalb o b rm sat) format ∧ Traps s (.vmin o b sat) format ∧ Traps s (.vmax o b sat) format
      ∧ Traps s (.vdiv o b rm sat) format)
    ∧ (isFP o.ty = false →
      Traps s (.vabs o sat) format ∧ Traps s (.vneg o sat) format ∧ Traps s (.vrcp o rm sat) format
      ∧ Traps s (.vrsq o rm sat) format ∧ Traps s (.vexp2 o rm sat) format ∧ Traps s (.vlog2 o rm sat) format
      ∧ Traps s (.vsqrt o rm sat) format))
  ∧ (∀ (s : State) (o : VOp) (b : BSrc) (c : VReg) (sat : Bool),
    let op (sat : Bool) (f : Nat → Int) : RegWrite := s.vwrite o (fun i => wrapInt o.ty sat (f i))
    let amt (i : Nat) : Nat := min (s.bsrc b o.ty.width i) o.ty.width
    let format : Trap := { cause := 0x0A }
    (isInt o.ty = true →
      Gives s (.viadd o b sat) 3 (op sat (fun i => s.ia o i + s.ib o b i))
      ∧ Gives s (.visub o b sat) 3 (op sat (fun i => s.ia o i - s.ib o b i))
      ∧ Gives s (.vimul o b sat) 5 (op sat (fun i => s.ia o i * s.ib o b i))
      ∧ Gives s (.vimad o b c sat) 5
          (op sat (fun i => s.ia o i * s.ib o b i + intValue o.ty (elem o.ty.width (s.rv c).toNat i)))
      ∧ Gives s (.vimin o b) 3 (op false (fun i => min (s.ia o i) (s.ib o b i)))
      ∧ Gives s (.vimax o b) 3 (op false (fun i => max (s.ia o i) (s.ib o b i)))
      ∧ Gives s (.vpopc o) 3 (s.vwrite o (fun i => popcount (s.ea o i) o.ty.width))
      ∧ Gives s (.viabs o sat) 3 (op sat (fun i => (s.ia o i).natAbs))
      ∧ Gives s (.vshl o b sat) 3 (op sat (fun i => s.ia o i * 2 ^ amt i))
      ∧ Gives s (.vshr o b) 3 (s.vwrite o (fun i => s.ea o i / 2 ^ amt i))
      ∧ Gives s (.vsra o b) 3 (op false (fun i => signedOf o.ty.width (s.ea o i) / 2 ^ amt i)))
    ∧ (Gives s (.vand o b) 3 (s.vwrite o (fun i => s.ea o i &&& s.bsrc b o.ty.width i))
      ∧ Gives s (.vor o b) 3 (s.vwrite o (fun i => s.ea o i ||| s.bsrc b o.ty.width i))
      ∧ Gives s (.vxor o b) 3 (s.vwrite o (fun i => s.ea o i ^^^ s.bsrc b o.ty.width i)))
    ∧ (isInt o.ty = false →
      Traps s (.viadd o b sat) format ∧ Traps s (.visub o b sat) format ∧ Traps s (.vimul o b sat) format
      ∧ Traps s (.vimad o b c sat) format ∧ Traps s (.vimin o b) format ∧ Traps s (.vimax o b) format
      ∧ Traps s (.vpopc o) format ∧ Traps s (.viabs o sat) format ∧ Traps s (.vshl o b sat) format
      ∧ Traps s (.vshr o b) format ∧ Traps s (.vsra o b) format))

/-- R193 to R196: compares and classes write the lanes of a mask, and the instructions on masks alone; k0 reads all ones. R193:
a lane of the mask that a compare writes: it holds the predicate of its element, of all of its elements, or with v.any of
one of them, where the governing mask is set. R197 to R200: moves, broadcasts, permutes and rotations. -/
def Obligations.VectorMasksAndMoves : Prop :=
  (∀ (s : State) (ty : Ty) (d a b : KReg) (v : VReg) (bs : BSrc) (k : KReg) (z any : Bool) (p : Fin 8) (set : BitVec 9) (n : SReg)
    (j : Fin 8),
    let all := BitVec.allOnes 512
    let x (i : Nat) := elem ty.width (s.rv v).toNat i
    (bsrcOk ty bs = true → Gives s (.vcmp ty d v bs k z p any) 3 (maskWrite d ty.width (s.rk k) z any
        (fun i => predicate p.val (operand ty s.exposed (x i)) (operand ty s.exposed (s.bsrc bs ty.width i)))))
    ∧ (bsrcOk ty bs = false → Traps s (.vcmp ty d v bs k z p any) { cause := 0x0A })
    ∧ (isFloat ty = true → Gives s (.vclass ty d v k z set any) 3 (maskWrite d ty.width (s.rk k) z any
        (fun i => set.getLsbD (classOf ty (x i)))))
    ∧ (isFloat ty = false → Traps s (.vclass ty d v k z set any) { cause := 0x0A })
    ∧ Gives s (.kand d a b) 1 (.k d (s.rk a &&& s.rk b) all) ∧ Gives s (.kor d a b) 1 (.k d (s.rk a ||| s.rk b) all)
    ∧ Gives s (.kxor d a b) 1 (.k d (s.rk a ^^^ s.rk b) all) ∧ Gives s (.knot d a) 1 (.k d (~~~s.rk a) all)
    ∧ Gives s (.kpopc n a) 1 (.s n (BitVec.ofNat 64 ((List.range 512).countP (fun l => (s.rk a).getLsbD l))))
    ∧ Gives s (.kmov (.mask d a)) 1 (.k d (s.rk a) all)
    ∧ Gives s (.kmov (.toChunk d j n)) 1
        (.k d ((s.rs n).setWidth 512 <<< (64 * j.val)) ((BitVec.allOnes 64).setWidth 512 <<< (64 * j.val)))
    ∧ Gives s (.kmov (.fromChunk n a j)) 1 (.s n ((s.rk a).extractLsb' (64 * j.val) 64)))
  ∧ (∀ (r : Regs) (d : KReg) (ty : Ty) (k : KWord) (z any : Bool) (p : Nat → Bool) (l : Nat), d ≠ 0 → l < 512 →
    ((r.write (maskWrite d ty.width k z any p)).kreg d).getLsbD l =
      if k.getLsbD (if ty.width = 64 then l / 2 * 2 else l) then
        (if ty.width = 64 then p (l / 2) else if ty.width = 32 then p l
          else if ty.width = 16 then (if any then p (2 * l) || p (2 * l + 1) else p (2 * l) && p (2 * l + 1))
          else (if any then p (4 * l) || p (4 * l + 1) || p (4 * l + 2) || p (4 * l + 3)
            else p (4 * l) && p (4 * l + 1) && p (4 * l + 2) && p (4 * l + 3)))
      else if z then false else (r.kreg d).getLsbD l)
  ∧ (∀ (s : State) (o : VOp) (b : VReg) (c k : KReg) (ty : Ty) (d : VReg) (z zero : Bool) (n i : SReg) (idx off : BitVec 11)
    (v : BitVec 21) (base : BitVec 16) (stride : BitVec 12),
    let to_ (f : Nat → Nat) : RegWrite := maskedWrite d ty.width ty.count (fun i => active (s.rk k) i ty.width) z f
    let at_ : Nat := ((s.rs i).toNat + off.toNat) % ty.count
    let format : Trap := { cause := 0x0A }
    Gives s (.vmov o) 2 (s.vwrite o (fun i => s.ea o i))
    ∧ Gives s (.vsel o b c) 2
        (s.vwrite o (fun i => if active (s.rk c) i o.ty.width then s.ea o i else elem o.ty.width (s.rv b).toNat i))
    ∧ Gives s (.vbcast ty d k z (.elem b idx)) 2 (to_ (fun _ => elem ty.width (s.rv b).toNat idx.toNat))
    ∧ Gives s (.vbcast ty d k z (.scal n)) 2 (to_ (fun _ => (s.rs n).toNat % 2 ^ ty.width))
    ∧ (isInt ty = true → Gives s (.vbcast ty d k z (.imm v)) 2 (to_ (fun _ => (v.toInt % (2 ^ ty.width : Int)).toNat)))
    ∧ (isInt ty = false → Traps s (.vbcast ty d k z (.imm v)) format)
    ∧ (isInt ty = true → Gives s (.viota ty d k z base stride) 2
        (to_ (fun i => ((base.toInt + i * stride.toInt) % (2 ^ ty.width : Int)).toNat)))
    ∧ (isInt ty = false → Traps s (.viota ty d k z base stride) format)
    ∧ (16 ≤ o.ty.width → Gives s (.vperm o b zero) 4 (s.vwrite o (fun i =>
        let x := elem o.ty.width (s.rv b).toNat i
        if x < o.ty.count then s.ea o x else if zero then 0 else s.ea o (x % o.ty.count))))
    ∧ (o.ty.width < 16 → Traps s (.vperm o b zero) format)
    ∧ Gives s (.vrot o off) 4
        (s.vwrite o (fun i => s.ea o ((i + o.ty.count - off.toNat % o.ty.count) % o.ty.count)))
    ∧ GivesS s (.vextr ty n b i off) 4 n (let x := elem ty.width (s.rv b).toNat at_
        if isSigned ty then BitVec.ofInt 64 (intValue ty x) else BitVec.ofNat 64 x)
    ∧ Gives s (.vins ty d n i off) 4 (maskedWrite d ty.width ty.count (fun j => j = at_) false (fun _ => (s.rs n).toNat)))

/-- R201, R202: a reduction writes element 0 of its destination and clears the rest; with no active element it gives the
identity of its operation. R203 to R208: conversions, packing and Billet blocks. VCVTSR steps the generators of its active
finite elements (R60). -/
def Obligations.VectorReductionsAndConversions : Prop :=
  (∀ (s : State) (ty : Ty) (d a : VReg) (k : KReg) (rm : Rm) (sat : Bool),
    let l : List Nat := ((List.range ty.count).filter (fun i => active (s.rk k) i ty.width)).map (elem ty.width (s.rv a).toNat)
    let nums := l.map (operand ty s.exposed)
    let ints := l.map (intValue ty)
    let first (y : Nat) : RegWrite := .v d (BitVec.ofNat 16384 y) (BitVec.allOnes 16384)
    let format : Trap := { cause := 0x0A }
    (isFP ty = true →
      Gives s (.vrsum ty d a k rm sat) 10 (first (if l = [] then 0 else finish ty (s.rm rm) sat s.exposed (sumOf nums (s.rm rm))))
      ∧ Gives s (.vrmax ty d a k sat) 10 (first (encodeF ty (satF ty sat (nums.foldl (minMax true) (.inf true)))))
      ∧ Gives s (.vrmin ty d a k sat) 10 (first (encodeF ty (satF ty sat (nums.foldl (minMax false) (.inf false))))))
    ∧ (isInt ty = true →
      Gives s (.vrmax ty d a k sat) 10 (first (wrapInt ty false (ints.foldl max (intRange ty).1)))
      ∧ Gives s (.vrmin ty d a k sat) 10 (first (wrapInt ty false (ints.foldl min (intRange ty).2)))
      ∧ Gives s (.virsum ty d a k sat) 10 (first (wrapInt (if isSigned ty then .i64 else .n64) sat ints.sum)))
    ∧ (isFP ty = false → Traps s (.vrsum ty d a k rm sat) format) ∧ (isInt ty = false → Traps s (.virsum ty d a k sat) format)
    ∧ (isFP ty = false → isInt ty = false → Traps s (.vrmax ty d a k sat) format ∧ Traps s (.vrmin ty d a k sat) format))
  ∧ (∀ (s : State) (o : VOp) (dst ty : Ty) (p : Fin 8) (rm : Rm) (sat hi : Bool) (a b d : VReg) (blk : BlkImm),
    let ws := o.ty.width
    let wd := dst.width
    let act (i : Nat) : Bool := active (s.rk o.k) i (max ws wd)
    let src (i : Nat) : Nat := s.ea o (convSrc ws wd p.val i)
    let format : Trap := { cause := 0x0A }
    Gives s (.vcvt o dst p rm sat) 6 (convWrite o.d wd (convBase ws wd p.val) (convN ws wd) act o.z
        (fun i => convert o.ty dst (s.rm rm) sat s.exposed (src i)))
    ∧ (let r := stochRun o.ty dst sat s.exposed (convBase ws wd p.val) act src (convN ws wd) 0 s.gens []
       Does s (.vcvtsr o dst p sat) ((s.result 6 (convWrite o.d wd (convBase ws wd p.val) (convN ws wd) act o.z
        (fun i => ((r.2.reverse.find? (fun q => q.1 = i)).map (·.2)).getD 0))).effect (.gens r.1)))
    ∧ (isInt o.ty = true → halfTy o.ty ≠ o.ty → Gives s (.vpack o b sat) 6
        (let h := halfTy o.ty
         maskedWrite o.d h.width h.count (fun i => active (s.rk o.k) i h.width) o.z (fun i => wrapInt h sat (intValue o.ty
          (if i < o.ty.count then s.ea o i else elem ws (s.rv b).toNat (i - o.ty.count))))))
    ∧ (isInt o.ty = false ∨ halfTy o.ty = o.ty → Traps s (.vpack o b sat) format)
    ∧ (isInt o.ty = true → doubleTy o.ty ≠ o.ty → Gives s (.vunpk o hi) 6
        (let w := doubleTy o.ty
         maskedWrite o.d w.width w.count (fun i => active (s.rk o.k) i w.width) o.z
          (fun i => wrapInt w false (intValue o.ty (s.ea o (Bool.code hi * w.count + i))))))
    ∧ (isInt o.ty = false ∨ doubleTy o.ty = o.ty → Traps s (.vunpk o hi) format)
    ∧ (isFP ty = true → blk.fmt ≠ 3 → Gives s (.vqblk ty d a rm sat blk) 12
        (let r := 8 * recordBytes blk.fmt.val
         let n := blk.bc.val + 1
         .v d (BitVec.ofNat 16384 (pack r (fun j => quantise blk.fmt.val ty (s.rm rm) sat ((List.range 128).map (fun e =>
              operand ty s.exposed (elem ty.width (s.rv a).toNat (128 * (blk.j0.val + j) + e))))) n 0 * 2 ^ (128 * blk.o.toNat)))
            (BitVec.ofNat 16384 ((2 ^ (r * n) - 1) * 2 ^ (128 * blk.o.toNat)))))
    ∧ (isFP ty = false ∨ blk.fmt = 3 → Traps s (.vqblk ty d a rm sat blk) format)
    ∧ (isFP o.ty = true → blk.fmt ≠ 3 → (∀ j ≤ blk.bc.val, blkZeroOk (s.record o.a blk j) = true) →
        Gives s (.vdqblk o rm sat blk) 12
          (convWrite o.d ws (128 * blk.j0.val) (128 * (blk.bc.val + 1)) (fun i => active (s.rk o.k) (128 * blk.j0.val + i) ws) o.z
            (fun i => s.fin o rm sat (blkElem blk.fmt.val (s.record o.a blk (i / 128)) (i % 128)))))
    ∧ (isFP o.ty = false ∨ blk.fmt = 3 ∨ (∃ j ≤ blk.bc.val, blkZeroOk (s.record o.a blk j) = false) →
        Traps s (.vdqblk o rm sat blk) format))

/-! ### Memory instructions -/

/-- R292: range, alignment and banks of n bytes at ea, in this order. R252: room for n more entries of the issuing context. -/
def Obligations.ScratchpadChecks : Prop :=
  (∀ (s : State) (ea : Int) (n al : Nat),
    let ok := s.banksOk ea.toNat n
    (ea < 0 ∨ 2 ^ 22 < ea + n → s.spCheck ea n al = some { cause := 0x08, addr := (ea % 2 ^ 64).toNat })
    ∧ (0 ≤ ea → ea + n ≤ 2 ^ 22 → ea.toNat % al ≠ 0 → s.spCheck ea n al = some { cause := 0x07, addr := ea.toNat })
    ∧ (0 ≤ ea → ea + n ≤ 2 ^ 22 → ea.toNat % al = 0 → ok = false →
        s.spCheck ea n al = some { cause := 0x11, sub := 4, addr := ea.toNat })
    ∧ (0 ≤ ea → ea + n ≤ 2 ^ 22 → ea.toNat % al = 0 → ok = true → s.spCheck ea n al = none))
  ∧ (∀ (s : State) (n : Nat), 0 < n →
    let mine := (s.cc.cb.filter (fun e => e.ctx = s.iss.ctx)).length
    let leaves := s.cc.cb.any (fun e => e.ctx = s.iss.ctx && e.covered s.cx)
    (mine + n ≤ 64 → s.cc.cb.length + n ≤ 256 → s.room n = .go)
    ∧ (mine + n ≤ 64 → 256 < s.cc.cb.length + n → s.room n = .hold)
    ∧ (64 < mine + n → leaves = true → s.room n = .hold)
    ∧ (64 < mine + n → leaves = false → s.room n = .trap { cause := 0x10 }))

/-- R248, R255: with nothing held and nothing granted, a scratchpad read is the bytes of the memory; a store a context has just
held is what its next read of the chunk sees. -/
def Obligations.ScratchpadForwarding : Prop :=
  (∀ (s : State) (c x a use n : Nat), (s.core c).cb = [] → (s.core c).sp.wr = [] →
      s.spBytes c x a use n = mread (s.core c).sp.data a n)
  ∧ (∀ (s : State) (b use : Nat) (d : Chunk) (be : BitVec 64) (st : Bool),
      (s.addEntry .none (.spad b d be st)).chunk s.iss.core s.iss.ctx b use
        = mergeBe (s.chunk s.iss.core s.iss.ctx b use) d.toNat be.toNat)
  ∧ (∀ (s : State) (a b use : Nat) (d : Chunk) (be : BitVec 64) (st : Bool), a ≠ b →
      (s.addEntry .none (.spad b d be st)).chunk s.iss.core s.iss.ctx a use = s.chunk s.iss.core s.iss.ctx a use)

/-- R293 to R297: loads complete once their checks pass; a failed check traps. R293 to R297: stores hold one entry for each
chunk they write, once their checks pass and the commit buffer has room. R298, R299: the tagged words. A false tag
condition, a drain or a write still to be performed is waited for, never a trap. That STE and STF wait as releases before they act, and
the time that a tagged word carries, are the model's readings (logs 16, 27 and 87). -/
def Obligations.ScratchpadLoadsAndStores : Prop :=
  (∀ (s : State) (d a b : SReg) (vd vb : VReg) (k : KReg) (h : HReg) (sz : Size) (imm : BitVec 24) (off : BitVec 10) (t : Trap),
    let ea := (s.spEa a imm).toNat
    let r := s.rh h
    let ring := r.chunks ((r.cp + off.toNat) % (r.cnt + 1))
    let packed := packChunks (s.gatherAddrs a vb imm) []
    (s.spCheck (s.spEa a imm) sz.bytes sz.bytes = none →
      let u := s.readsWord ea sz.bytes
      Does s (.sld d a sz imm) (u.result 4 (.s d (sz.ext (u.spRead ea sz.bytes))) true [(0, ea / 64 * 64, s.now s.iss.core + 2)]))
    ∧ (s.spCheck (s.spEa a imm) sz.bytes sz.bytes = some t → Traps s (.sld d a sz imm) t)
    ∧ (s.chunkCheck (rowChunks (s.spEa a imm)) = none →
        Does s (.vsld vd a k imm) (s.loadChunks vd k 7 2048 (rowChunks (s.spEa a imm))))
    ∧ (s.chunkCheck (rowChunks (s.spEa a imm)) = some t → Traps s (.vsld vd a k imm) t)
    ∧ (s.strideCheck a b imm = none → Does s (.vslds vd a b k imm) (s.loadChunks vd k 7 2048 (s.strideChunks a b imm)))
    ∧ (s.strideCheck a b imm = some t → Traps s (.vslds vd a b k imm) t)
    ∧ (∀ l, s.gatherCheck (s.gatherAddrs a vb imm) = none → packed = some l →
        Does s (.vsgath vd a vb k imm) (s.loadChunks vd k 8 2048 l))
    ∧ (s.gatherCheck (s.gatherAddrs a vb imm) = some t → Traps s (.vsgath vd a vb k imm) t)
    ∧ (r.v = true → s.chunkCheck ring = none → off.toNat < r.fill →
        Does s (.vhld vd h k off) (s.loadChunks vd k 7 (min (64 * 2 ^ r.k) 2048) ring))
    ∧ (r.v = true → s.chunkCheck ring = none → r.fill ≤ off.toNat →
        if s.exposed then Traps s (.vhld vd h k off) { cause := 0x09 } else Holds s (.vhld vd h k off))
    ∧ (r.v = false → Traps s (.vhld vd h k off) { cause := 0x09 })
    ∧ (r.v = true → s.chunkCheck ring = some t → Traps s (.vhld vd h k off) t))
  ∧ (∀ (s : State) (d a b : SReg) (vd vb : VReg) (k : KReg) (h : HReg) (sz : Size) (imm : BitVec 24) (off : BitVec 10) (t : Trap),
    let ea := (s.spEa a imm).toNat
    let room := s.room (chunkCount (s.rk k) 2048)
    let r := s.rh h
    let ring := r.chunks ((r.cp + r.fill + off.toNat) % (r.cnt + 1))
    let n := min (64 * 2 ^ r.k) 2048
    (sz.store = true → s.spCheck (s.spEa a imm) sz.bytes sz.bytes = none →
      (s.room 1 = .go → Does s (.sst d a sz imm) ((s.declare [s.useAt ea 2 true]).addEntry .none
        (.spad (ea / 64 * 64) (BitVec.ofNat 512 ((s.rs d).toNat % 2 ^ (8 * sz.bytes) * 2 ^ (8 * (ea % 64))))
          (BitVec.ofNat 64 ((2 ^ sz.bytes - 1) * 2 ^ (ea % 64))) false)))
      ∧ (s.room 1 = .hold → Holds s (.sst d a sz imm)) ∧ (s.room 1 = .trap t → Traps s (.sst d a sz imm) t))
    ∧ (sz.store = false → Traps s (.sst d a sz imm) { cause := 0x0A })
    ∧ (sz.store = true → s.spCheck (s.spEa a imm) sz.bytes sz.bytes = some t → Traps s (.sst d a sz imm) t)
    ∧ (s.chunkCheck (rowChunks (s.spEa a imm)) = none → room = .go →
        Does s (.vsst vd a k imm) (s.storeChunks vd k 2048 (rowChunks (s.spEa a imm))))
    ∧ (s.chunkCheck (rowChunks (s.spEa a imm)) = some t → Traps s (.vsst vd a k imm) t)
    ∧ (s.strideCheck a b imm = none → room = .go →
        Does s (.vssts vd a b k imm) (s.storeChunks vd k 2048 (s.strideChunks a b imm)))
    ∧ (s.strideCheck a b imm = some t → Traps s (.vssts vd a b k imm) t)
    ∧ (∀ l, s.gatherCheck (s.gatherAddrs a vb imm) = none → packChunks (s.gatherAddrs a vb imm) [] = some l → room = .go →
        Does s (.vsscat vd a vb k imm) (s.storeChunks vd k 2048 l))
    ∧ (s.gatherCheck (s.gatherAddrs a vb imm) = some t → Traps s (.vsscat vd a vb k imm) t)
    ∧ (r.v = true → s.chunkCheck ring = none → r.eng = 0 → r.fill + off.toNat < r.cnt + 1 → s.room (chunkCount (s.rk k) n) = .go →
        Does s (.vhst vd h k off) (s.storeChunks vd k n ring))
    ∧ (r.v = true → s.chunkCheck ring = none → ¬ (r.eng = 0 ∧ r.fill + off.toNat < r.cnt + 1) →
        if s.exposed then Traps s (.vhst vd h k off) { cause := 0x09 } else Holds s (.vhst vd h k off))
    ∧ (r.v = false → Traps s (.vhst vd h k off) { cause := 0x09 }))
  ∧ (∀ (s : State) (d a : SReg) (sc : Scope) (imm : BitVec 24) (t : Trap),
    let ea := (s.spEa a imm).toNat
    let full := s.isFull s.iss.core ea (s.now s.iss.core + 2)
    let reads := s.readsWord ea 8
    let u := s.seesAcks s.iss.core s.iss.ctx sc
    let stores := u.tagWrite ea (u.rs d) true (some true) (some (u.lt u.iss.core u.iss.ctx))
    (s.tagCheck a imm = some t →
      Traps s (.ldf d a sc imm) t ∧ Traps s (.ldfe d a sc imm) t ∧ Traps s (.ste d a sc imm) t ∧ Traps s (.stf d a sc imm) t
      ∧ Traps s (.tagrd d a imm) t ∧ Traps s (.tagwr d a imm) t)
    ∧ (s.tagCheck a imm = none →
      (full = true → Does s (.ldf d a sc imm)
        ((reads.acquireWord ea).varIn 3 (.s d (BitVec.ofNat 64 (reads.spRead ea 8))) true))
      ∧ (full = false → Holds s (.ldf d a sc imm))
      ∧ (s.drained = true → full = true → Does s (.ldfe d a sc imm)
          (((s.acquireWord ea).tagWrite ea 0#64 false (some false)).varIn 3 (.s d (BitVec.ofNat 64 (s.spRead ea 8))) true))
      ∧ (s.drained = true → full = false → Holds s (.ldfe d a sc imm))
      ∧ (s.waitRelease sc = .go → full = false → Does s (.ste d a sc imm) stores)
      ∧ (s.waitRelease sc = .go → full = true → Holds s (.ste d a sc imm))
      ∧ (s.waitRelease sc = .go → Does s (.stf d a sc imm) stores)
      ∧ (s.waitRelease sc = .drain → (s.Tried (.ste d a sc imm) → exec (.ste d a sc imm) s = .next s.holdDrain)
          ∧ (s.Tried (.stf d a sc imm) → exec (.stf d a sc imm) s = .next s.holdDrain))
      ∧ (s.waitRelease sc = .ack → (s.Tried (.ste d a sc imm) → exec (.ste d a sc imm) s = .next s.holdAck)
          ∧ (s.Tried (.stf d a sc imm) → exec (.stf d a sc imm) s = .next s.holdAck))
      ∧ (s.waitRelease sc = .go ∨ s.waitRelease sc = .drain ∨ s.waitRelease sc = .ack)
      ∧ (s.drained = false → s.Tried (.ldfe d a sc imm) → exec (.ldfe d a sc imm) s = .next s.holdDrain)
      ∧ Does s (.tagrd d a imm) ((s.declare [s.useAt ea 2 true]).varIn 3
          (.s d (if (s.declare [s.useAt ea 2 true]).tagAt (s.spEa a imm) then 1#64 else 0#64)) true)
      ∧ (s.drained = true → Does s (.tagwr d a imm) (s.tagWrite ea 0#64 false (some ((s.rs d).getLsbD 0))))
      ∧ (s.drained = false → s.Tried (.tagwr d a imm) → exec (.tagwr d a imm) s = .next s.holdDrain)))

/-- R301 to R304: the remote stores; a multicast to no core does nothing. That RSTE waits as a release before it acts, and the time it
carries, are the model's readings (logs 16 and 27). -/
def Obligations.RemoteStores : Prop :=
  ∀ (s : State) (d a : SReg) (vd : VReg) (k : KReg) (sz : Size) (sc : Scope) (pl : Place) (die : Fin 8) (clus : Fin 12)
    (set : BitVec 4) (off : BitVec 13) (moff : BitVec 12) (t : Trap),
    let ea := s.remoteEa a off.toInt
    let room := s.room (chunkCount (s.rk k) 2048)
    let ks := (List.range 4).filter set.getLsbD
    let half := s.half s.iss.core s.iss.ctx = 1
    let reach := remoteCheck (ks.all (fun k => s.placeOk die.val clus.val k half)) (s.remoteEa a moff.toInt) 2048 64
    let sc' := Scope.max sc (scopeOf s.iss.core pl.num (s.half s.iss.core s.iss.ctx) (Bool.code pl.half))
    (sz.store = true → remoteCheck (s.plOk pl) ea sz.bytes sz.bytes = none → s.room 1 = .go →
      Does s (.rsst d a sz pl off) (s.addEntry .none (.remote [pl.num] (ea.toNat / 64 * 64)
        (BitVec.ofNat 512 ((s.rs d).toNat % 2 ^ (8 * sz.bytes) * 2 ^ (8 * (ea.toNat % 64))))
        (BitVec.ofNat 64 ((2 ^ sz.bytes - 1) * 2 ^ (ea.toNat % 64))))))
    ∧ (sz.store = false → Traps s (.rsst d a sz pl off) { cause := 0x0A })
    ∧ (sz.store = true → remoteCheck (s.plOk pl) ea sz.bytes sz.bytes = some t → Traps s (.rsst d a sz pl off) t)
    ∧ (remoteCheck (s.plOk pl) ea 2048 64 = none → room = .go →
        Does s (.rvst vd a k pl off) (s.remoteChunks [pl.num] vd k ea.toNat))
    ∧ (remoteCheck (s.plOk pl) ea 2048 64 = some t → Traps s (.rvst vd a k pl off) t)
    ∧ (set = 0#4 → Does s (.mvst vd a k die clus set moff) s)
    ∧ (set ≠ 0#4 → reach = none → room = .go → Does s (.mvst vd a k die clus set moff)
        (s.remoteChunks (ks.map (fun k => coreNo die.val clus.val k)) vd k (s.remoteEa a moff.toInt).toNat))
    ∧ (set ≠ 0#4 → reach = some t → Traps s (.mvst vd a k die clus set moff) t)
    ∧ (remoteCheck (s.plOk pl) ea 8 8 = some t → Traps s (.rste d a sc pl off) t)
    ∧ (remoteCheck (s.plOk pl) ea 8 8 = none → s.waitRelease sc' = .drain → s.Tried (.rste d a sc pl off) →
        exec (.rste d a sc pl off) s = .next s.holdDrain)
    ∧ (remoteCheck (s.plOk pl) ea 8 8 = none → s.waitRelease sc' = .ack → s.Tried (.rste d a sc pl off) →
        exec (.rste d a sc pl off) s = .next s.holdAck)
    ∧ (remoteCheck (s.plOk pl) ea 8 8 = none → s.waitRelease sc' = .go → ∃ u m, Does s (.rste d a sc pl off) u
        ∧ u.msgs = s.msgs ++ [m] ∧ m.core = s.iss.core ∧ m.ctx = s.iss.ctx ∧ m.dest = pl.num ∧ m.addr = ea.toNat / 64 * 64
        ∧ m.data = BitVec.ofNat 512 ((s.rs d).toNat * 2 ^ (8 * (ea.toNat % 64)))
        ∧ m.be = BitVec.ofNat 64 (255 * 2 ^ (ea.toNat % 64)) ∧ m.rste = some sc' ∧ m.bytes = 8
        ∧ u.cx.sendNo = s.cx.sendNo + 1 ∧ u.cx.pbytes = s.cx.pbytes + 8)

/-- R269: the requester's check, step by step. -/
def Obligations.GlobalChecks : Prop :=
  ∀ (s : State) (a n al : Nat) (perm : Lrt → Bool) (e : Lrt),
    let inside := s.cl.lrt.filter (fun e => e.v && e.base ≤ a && a + n ≤ e.limit)
    let canon := a + n ≤ 2 ^ 64 ∧ canonVa a = true ∧ canonVa (a + n - 1) = true
    (¬ canon ∨ inside.length ≠ 1 → s.gcheck a n perm al = .error { cause := 0x05, addr := a })
    ∧ (canon → inside = [e] → perm e = false → s.gcheck a n perm al = .error { cause := 0x06, addr := a, asid := e.asid })
    ∧ (canon → inside = [e] → perm e = true → a % al ≠ 0 →
        s.gcheck a n perm al = .error { cause := 0x07, addr := a, asid := e.asid })
    ∧ (canon → inside = [e] → perm e = true → a % al = 0 → s.gcheck a n perm al = .ok e)

/-- R307 to R309: global loads ask for the pieces of their bytes and leave their register pending; stores hold an entry for each
chunk and ask for its grant. R317 to R319: a prefetch that fails its check is dropped; PIN, UNPIN, GWB and GINV hold one
entry. That UNPIN, GWB and GINV ask for no permission bit, and that a read of bytes that an earlier read has asked a home for is no
hit, are the model's readings (logs 26 and 96). -/
def Obligations.GlobalAccesses : Prop :=
  (∀ (s : State) (d a : SReg) (vd vb : VReg) (k : KReg) (sz : Size) (hint : Hint) (imm : BitVec 24) (t : Trap) (e : Lrt),
    let ea := s.gEa a imm
    let room := s.room (chunkCount (s.rk k) 2048)
    let lanes := s.laneAddrs a vb k imm
    let chunks := scatterChunks (s.rv vd) lanes []
    (s.gcheck ea sz.bytes (·.rd) sz.bytes = .ok e →
      Does s (.gld d a sz hint imm) (s.startRead (.s d) sz ea [] [(ea, sz.bytes, e)] (s.hint hint)))
    ∧ (s.gcheck ea sz.bytes (·.rd) sz.bytes = .error t → Traps s (.gld d a sz hint imm) t)
    ∧ (sz.store = true → s.gcheck ea sz.bytes (·.wr) sz.bytes = .ok e → s.room 1 = .go →
        let g : GAddr := { va := ea / 64 * 64, len := 64, ent := e, hint := s.hint hint, off := ea % 64 }
        Does s (.gst d a sz hint imm) (s.globalEntry g (.global g
          (BitVec.ofNat 512 ((s.rs d).toNat % 2 ^ (8 * sz.bytes) * 2 ^ (8 * (ea % 64))))
          (BitVec.ofNat 64 ((2 ^ sz.bytes - 1) * 2 ^ (ea % 64))))))
    ∧ (sz.store = false → Traps s (.gst d a sz hint imm) { cause := 0x0A })
    ∧ (sz.store = true → s.gcheck ea sz.bytes (·.wr) sz.bytes = .error t → Traps s (.gst d a sz hint imm) t)
    ∧ (s.gcheck ea 2048 (·.rd) 64 = .ok e → Does s (.vgld vd a k hint imm)
        (s.startRead (.v vd) .d ea ((laneList (s.rk k)).map (fun l => (l, ea + 4 * l)))
          ((lineSegs ea 2048).map (fun p => (p.1, p.2, e))) (s.hint hint)))
    ∧ (s.gcheck ea 2048 (·.rd) 64 = .error t → Traps s (.vgld vd a k hint imm) t)
    ∧ (s.gcheck ea 2048 (·.wr) 64 = .ok e → room = .go → Does s (.vgst vd a k hint imm)
        ((List.range 32).foldl (fun u i => if laneBe (u.rk k) i = 0 then u else
          let g : GAddr := { va := ea + 64 * i, len := 64, ent := e, hint := u.hint hint }
          u.globalEntry g (.global g (chunkOf (u.rv vd) i) (BitVec.ofNat 64 (laneBe (u.rk k) i)))) s))
    ∧ (s.gcheck ea 2048 (·.wr) 64 = .error t → Traps s (.vgst vd a k hint imm) t)
    ∧ ((∀ p ∈ lanes, ∃ e, s.gcheck p.2 4 (·.rd) 4 = .ok e) → ∃ u, Does s (.vggath vd a vb k hint imm) u
        ∧ (lanes = [] → u = s)
        ∧ (lanes ≠ [] → u = s.startRead (.v vd) .d 0 lanes
            (lanes.map (fun p => (p.2, 4, entOf (s.gcheck p.2 4 (·.rd) 4)))) (s.hint hint)))
    ∧ ((∀ p ∈ lanes, ∃ e, s.gcheck p.2 4 (·.wr) 4 = .ok e) → s.room chunks.length = .go →
        Does s (.vgscat vd a vb k hint imm) (chunks.foldl (fun u p =>
          let e := match lanes.find? (fun q => q.2 / 64 * 64 = p.1) with
            | some q => entOf (s.gcheck q.2 4 (·.wr) 4)
            | none => {}
          let g : GAddr := { va := p.1, len := 64, ent := e, hint := u.hint hint,
                             off := ((List.range 64).find? (fun i => bit p.2.2 i)).getD 0 }
          u.globalEntry g (.global g (BitVec.ofNat 512 p.2.1) (BitVec.ofNat 64 p.2.2))) s))
    ∧ (∀ p rest, lanes = p :: rest → s.gcheck p.2 4 (·.rd) 4 = .error t → Traps s (.vggath vd a vb k hint imm) t)
    ∧ (∀ p rest, lanes = p :: rest → s.gcheck p.2 4 (·.wr) 4 = .error t → Traps s (.vgscat vd a vb k hint imm) t))
  ∧ (∀ (s : State) (a b : SReg) (l2 : Bool) (hint : Hint) (sc : Scope) (imm : BitVec 24) (t : Trap) (e : Lrt),
    let ea := s.gEa a imm
    let n := (s.rs b).toNat
    let line := ea / 128 * 128
    let g : GAddr := { va := ea, len := n, ent := e, hint := s.hint hint }
    let cached (e : Lrt) : Bool := e.cache = 1 || e.cache = 2
    let pinChk := s.rangeCheck ea n 1048576 (·.rd) cached
    let unpinChk := s.rangeCheck ea n 1048576 (fun _ => true) cached
    let wbChk := s.rangeCheck ea n (2 ^ 32) (fun _ => true) (fun _ => true)
    (s.cl.lrtFind line 128 (·.rd) = .error t → Does s (.gpf a l2 hint imm) s)
    ∧ (s.cl.lrtFind line 128 (·.rd) = .ok e → cached e = false → Does s (.gpf a l2 hint imm) s)
    ∧ (s.cl.lrtFind line 128 (·.rd) = .ok e → cached e = true → Does s (.gpf a l2 hint imm)
        (s.ask (s.mine { va := line, len := 128, ent := e, hint := s.hint hint } (.prefetch l2))))
    ∧ (s.room 1 = .go →
        (pinChk = .ok e → Does s (.pin a b hint imm) (s.addEntry .none (.pin g)))
        ∧ (unpinChk = .ok e → Does s (.unpin a b hint imm) (s.addEntry .none (.unpin g)))
        ∧ (wbChk = .ok e → Does s (.gwb a b hint sc imm) (s.addEntry .none (.gwb g sc))
            ∧ Does s (.ginv a b hint sc imm) (s.addEntry .none (.ginv g sc))))
    ∧ (pinChk = .error t → Traps s (.pin a b hint imm) t) ∧ (unpinChk = .error t → Traps s (.unpin a b hint imm) t)
    ∧ (wbChk = .error t → Traps s (.gwb a b hint sc imm) t ∧ Traps s (.ginv a b hint sc imm) t)
    ∧ (ea % 128 ≠ 0 ∨ n % 128 ≠ 0 ∨ n = 0 ∨ 1048576 < n →
        Traps s (.pin a b hint imm) { cause := 0x07, addr := ea } ∧ Traps s (.unpin a b hint imm) { cause := 0x07, addr := ea }))

/-- R311: the new values of the atomic operations on w bytes. R311 to R315: atomics send their request and leave their register
pending; reductions hold one entry. What an atomic waits for, the release and the line to be lent, and where it is performed are
the model's readings (logs 15, 16 and 87). -/
def Obligations.AtomicsAndReductions : Prop :=
  (∀ (x y : Dword) (w : Nat), w = 1 ∨ w = 2 ∨ w = 4 ∨ w = 8 →
    let b (v : Dword) : BitVec (8 * w) := v.setWidth (8 * w)
    let new (op : AmoOp) : Nat := amoVal op (b x).toNat y.toNat w
    new .swap = (b y).toNat ∧ new .add = (b x + b y).toNat ∧ new .and = (b x &&& b y).toNat ∧ new .or = (b x ||| b y).toNat
    ∧ new .xor = (b x ^^^ b y).toNat
    ∧ new .min = (if (b x).toInt ≤ (b y).toInt then (b x).toNat else (b y).toNat)
    ∧ new .max = (if (b x).toInt ≤ (b y).toInt then (b y).toNat else (b x).toNat)
    ∧ new .minu = min (b x).toNat (b y).toNat ∧ new .maxu = max (b x).toNat (b y).toNat)
  ∧ (∀ (s : State) (d a b : SReg) (sz : Size) (hint : Hint) (sc : Scope) (op : AmoOp) (ty : Ty) (t : Trap) (e : Lrt),
    let ea := (s.rs a).toNat
    let chk := s.gcheck ea sz.bytes (·.at_) sz.bytes
    let fw := fredBytes ty
    let g (n : Nat) : GAddr := { va := ea, len := n, ent := e, hint := s.hint hint }
    (sz.atomic = true → chk = .ok e → s.waitRelease sc = .go → s.lendOk s.iss.core e ea = false →
      Holds s (.amo d a b sz hint sc op) ∧ Holds s (.cas d a b sz hint sc))
    ∧ (sz.atomic = true → chk = .ok e → s.waitRelease sc = .go → s.lendOk s.iss.core e ea = true →
      Does s (.amo d a b sz hint sc op) ((s.seesAcks s.iss.core s.iss.ctx sc).startAtomic d e (s.hint hint) ea sz.bytes
          (fun r => .amo r d op (s.rs b).toNat sz))
      ∧ Does s (.cas d a b sz hint sc) ((s.seesAcks s.iss.core s.iss.ctx sc).startAtomic d e (s.hint hint) ea sz.bytes
          (fun r => .cas r d (s.rs d).toNat (s.rs b).toNat sz)))
    ∧ (sz.atomic = false → Traps s (.amo d a b sz hint sc op) { cause := 0x0A } ∧ Traps s (.cas d a b sz hint sc) { cause := 0x0A }
        ∧ Traps s (.samo d a b sz sc op) { cause := 0x0A })
    ∧ (sz.atomic = true → chk = .error t → Traps s (.amo d a b sz hint sc op) t ∧ Traps s (.cas d a b sz hint sc) t)
    ∧ (sz.store = true → op ≠ .swap → chk = .ok e → s.room 1 = .go → Does s (.red d a sz hint op)
        (s.globalEntry (g sz.bytes) (.red (g sz.bytes) op ((s.rs d).toNat % 2 ^ (8 * sz.bytes)))))
    ∧ (sz.store = false ∨ op = .swap → Traps s (.red d a sz hint op) { cause := 0x0A })
    ∧ (sz.store = true → op ≠ .swap → chk = .error t → Traps s (.red d a sz hint op) t)
    ∧ (fredOk ty = true → s.gcheck ea fw (·.at_) fw = .ok e → s.room 1 = .go → Does s (.fred d a hint ty)
        (s.globalEntry (g fw) (.fred (g fw) ty ((s.rs d).toNat % 2 ^ (8 * fw)))))
    ∧ (fredOk ty = false → Traps s (.fred d a hint ty) { cause := 0x0A })
    ∧ (sz.atomic = true → s.spCheck ea sz.bytes sz.bytes = none → s.waitRelease sc = .go → ∃ u, Does s (.samo d a b sz sc op) u
        ∧ u.cx.pend = s.cx.pend ++ [(u.nextId - 1, s.iss.serial, .s d)]
        ∧ ∃ r, r ∈ u.vres ∧ r.id = u.nextId - 1 ∧ r.w = .s d (sz.ext (s.spRead ea sz.bytes))
        ∧ ∃ w, w ∈ (u.core s.iss.core).sp.wr ∧ w.clk = s.now s.iss.core + 2 ∧ w.addr = ea / 64 * 64
          ∧ w.data = BitVec.ofNat 512 (amoVal op (s.spRead ea sz.bytes) (s.rs b).toNat sz.bytes * 2 ^ (8 * (ea % 64)))
          ∧ w.be = BitVec.ofNat 64 ((2 ^ sz.bytes - 1) * 2 ^ (ea % 64)))
    ∧ (sz.atomic = true → s.spCheck ea sz.bytes sz.bytes = some t → Traps s (.samo d a b sz sc op) t))

/-! ### Matrix beats -/

/-- R92, R220: a beat of a task whose launch may not use the engine takes the matrix-use fault; a beat waits while another
context owns the engine. R238 to R240: TSWAP exchanges the register sets and the banks, TZERO clears rows, TCLOSE closes the
open tile, and without one has no effect but to release an engine that its context still owns; a tile with no DRAIN keeps the
signatures of all ones (R227). Where a beat opens a tile, reserved bits of MXTILE take the format fault (R218). The release of the
engine in the clock of the TCLOSE, the pair taken at its issue, and that a TCLOSE takes no entry of the record, are the model's
readings (logs 78, 28 and 101). -/
def Obligations.MatrixBeats : Prop :=
  (∀ (s : State) (w off n : Fin 32) (a : Fin 128) (h : HReg),
    let others : List Instr := [.wload w h off, .wloadNxt w h off, .wloadTongs w, .wloadNxtTongs w, .afeed h off, .accum a, .accumSet a,
      .drain a, .drainClr a, .tswap, .tzero a n]
    (s.cl.mx = false → ∀ i ∈ .tclose :: others, Traps s i { cause := 0x0E, info := s.eng.active.tileId })
    ∧ (s.cl.mx = true → ∀ x, s.eng.owner = some x → x ≠ s.iss.ctx → ∀ i ∈ .tclose :: others, Holds s i))
  ∧ (∀ (s : State) (a : Fin 128) (n : Fin 32) (t : Tile), s.cl.mx = true →
    (s.beatWait = .go → s.tile = none → s.eng.shadow.tileOk = true → ∃ u, Does s .tswap u ∧ u.eng.active = s.eng.shadow ∧ u.eng.shadow = s.eng.active
      ∧ u.eng.sel = !s.eng.sel ∧ u.eng.owner = some s.iss.ctx)
    ∧ (s.beatWait = .go → s.tile = some t → Traps s .tswap { cause := 0x0D, info := s.eng.active.tileId })
    ∧ (s.beatWait = .go → s.tile = none → s.eng.shadow.tileOk = false → Traps s .tswap { cause := 0x0A })
    ∧ (s.beatWait = .go → s.tile = none → s.eng.active.tileOk = false → Traps s (.tzero a n) { cause := 0x0A })
    ∧ (s.beatWait = .go → s.tile.isSome = true ∨ s.eng.active.tileOk = true → s.beatFits (.tzero a.val n.val) = .go → ∃ u, Does s (.tzero a n) u
      ∧ ∀ b, u.eng.accA b = (if a.val ≤ b ∧ b ≤ a.val + n.val then zeroRow else s.eng.accA b))
    ∧ (s.beatWait = .go → s.tile = none →
        Does s .tclose (s.modEng (fun e => if e.owner = some s.iss.ctx then { e with owner := none } else e)))
    ∧ (s.engRetired = false → s.tile = some t → s.eng.closed.length < 3 → ∃ u, Does s .tclose u ∧ u.eng.owner = none
      ∧ u.eng.tile = none ∧ (s.cc.split = false → ∃ k, u.eng.closed = s.eng.closed ++ [k] ∧ k.id = t.id ∧ k.beats = t.beats
        ∧ k.siga = (if t.drains then s.eng.active.siga else BitVec.allOnes 64)
        ∧ k.sigs = (if t.drains then s.eng.active.sigs else BitVec.allOnes 64)))
    ∧ (s.engRetired = false → s.tile = some t → 3 ≤ s.eng.closed.length → Holds s .tclose))

/-- R213, R216, R234: WLOAD from a ring reads its row and hands it to the bank; a row comes to be seen three steps later, from
the tongs eighteen. R215, R235: AFEED sends a row of exact sums down the array. R215, R216, R236: ACCUM adds the row it
takes to an accumulator row of both arrays, and no other row changes. That a tongs form with wsrc = 0 acts as ring h0 with offset 0 is
the model's reading (log 8), and so is that an I32 ACCUM takes no row of an AFEED whose bank has latched no format (log 105). -/
def Obligations.MatrixArithmetic : Prop :=
  (∀ (s : State) (w off : Fin 32) (h : HReg) (next : Bool),
    let m := s.mset next
    let ring (h : HReg) (off : Nat) (i : Instr) : Prop :=
      let r := s.rh h
      let n := mxRowBytes r.fmt
      let a := r.slotAddr ((r.cp + off) % (r.cnt + 1))
      let bytes := s.spRead a n
      s.cl.mx = true → s.beatWait = .go → s.opens s.eng.active = .go → m.wsrc = false → m.ctlOk = true → r.v = true → (mxClass r.fmt).isSome = true →
      n ≤ r.slotBytes → s.latchOk next r.fmt = .go → s.beatFits (.wload (s.eng.sel != next) w.val r.fmt r.slotBytes (.spad a)) = .go →
      s.spCheck a n 64 = none → off < r.fill → mxZeroOk r.fmt bytes = true → s.mapOk m w.val r.fmt bytes = .go →
      Does s i ((s.readsRow a n).loadRow next w.val r.fmt 3 r.slotBytes (.spad a) bytes)
    ring h off.val (if next then .wloadNxt w h off else .wload w h off)
    ∧ ring 0 0 (if next then .wloadNxtTongs w else .wloadTongs w)
    ∧ (let n := mxRowBytes m.tfmt
       let va := (m.tbase.toNat + m.ctr * m.stride * 128) % 2 ^ 64
       ∀ e bytes, s.cl.lrtFind va n (·.rd) = .ok e → s.tongsRow s.iss.core s.iss.ctx s.iss.serial e.asid va n = some bytes →
        s.cl.mx = true → s.beatWait = .go → s.opens s.eng.active = .go → m.wsrc = true → m.tongsOk = true → m.ctlOk = true → (mxClass m.tfmt).isSome = true →
        s.latchOk next m.tfmt = .go → s.beatFits (.wload (s.eng.sel != next) w.val m.tfmt (m.stride * 128) (.tongs va e.asid)) = .go →
        mxZeroOk m.tfmt bytes = true → s.mapOk m w.val m.tfmt bytes = .go →
        Does s (if next then .wloadNxtTongs w else .wloadTongs w)
          ((s.loadRow next w.val m.tfmt 18 (m.stride * 128) (.tongs va e.asid) bytes).modEng
            (fun e => if next then { e with shadow := e.shadow.advance } else { e with active := e.active.advance }))))
  ∧ (∀ (s : State) (h : HReg) (off : Fin 32),
    let r := s.rh h
    let n := mxRowBytes r.fmt
    let a := r.slotAddr ((r.cp + off.val) % (r.cnt + 1))
    let b := s.eng.bank false
    s.cl.mx = true → s.beatWait = .go → s.opens s.eng.active = .go → r.v = true → (mxClass r.fmt).isSome = true → n ≤ r.slotBytes →
    (∀ f, b.fmt = some f → mxClass f = mxClass r.fmt) →
    s.beatFits (.afeed r.fmt r.slotBytes a (s.now s.iss.core + 2) b.fmt b.valid b.srcs) = .go → s.spCheck a n 64 = none →
    off.val < r.fill → mxZeroOk r.fmt (s.spRead a n) = true →
    ∃ u row, Does s (.afeed h off) u ∧ u.eng.rows = s.eng.rows ++ [row] ∧ row.left = 34 ∧ row.ctx = s.iss.ctx
      ∧ row.cols = feedCols r.fmt (s.spRead a n) b.fmt b.row ∧ u.eng.owner = some s.iss.ctx ∧ u.tile.isSome = true)
  ∧ (∀ (s : State) (a : Fin 128) (set : Bool),
    let m := s.eng.active
    let row := if s.tile.isSome then s.takeRow else none
    let half := s.half s.iss.core s.iss.ctx = 1
    let cols := row.map (·.cols)
    s.cl.mx = true → s.beatWait = .go → s.opens m = .go → m.afmt ≠ 3 → m.ctlOk = true → (set = true ∨ a.val ∈ (s.tile.getD {}).init) →
    s.beatFits (.accum a.val set (row.map (·.num))) = .go →
    (s.exposed = false → ∃ r, row = some r ∧ r.left = 0) →
    (∀ r, row = some r → (m.aty = .i32 → r.i8 = true) ∧ (r.q = 1 → m.aty = .f64)) →
    ∃ u, Does s (if set then .accumSet a else .accum a) u
      ∧ u.eng.accA a.val = accRow m.aty set (s.eng.accA a.val) cols (s.eng.stuckOn half a.val)
      ∧ u.eng.accB a.val = accRow m.aty set (s.eng.accB a.val) cols (s.eng.stuckOn true a.val)
      ∧ (∀ b, b ≠ a.val → u.eng.accA b = s.eng.accA b ∧ u.eng.accB b = s.eng.accB b)
      ∧ u.eng.rows = s.eng.rows.filter (fun r => some r != row))

/-- R216, R237: DRAIN and DRAIN.clr answer a next state, in which the chunks of the converted row are in the commit buffer, the ring
slot is reserved, and each array has folded its own row into its own signature (R227); DRAIN.clr has also cleared the row in
both arrays. The fold at the beat's issue, and what a half-core folds, are the model's readings (log 28). -/
def Obligations.MatrixDrain : Prop :=
  ∀ (s : State) (a : Fin 128) (ty : Ty) (rm : Rm),
    let m := s.eng.active
    let h : HReg := Fin.ofNat 16 m.dh
    let r := s.rh h
    let nb := 4 * ty.width
    let n := (nb + 63) / 64
    let ad := r.slotAddr ((r.cp + r.fill + r.eng) % (r.cnt + 1))
    let half := s.half s.iss.core s.iss.ctx
    let v := drainRow m ty (s.rm rm) (s.eng.accA a.val)
    let w := drainRow m ty (s.rm rm) (s.eng.accB a.val)
    let fold (sig : Dword) (v : Nat) : Dword := BitVec.ofNat 64 (crc64 sig.toNat (bytesOf v nb))
    let drained (clr : Bool) (u : State) : Prop := ∃ tid,
      u.cc.cb.map (·.kind) = s.cc.cb.map (·.kind) ++ (List.range n).map (fun i => .drain (ad + 64 * i)
          (BitVec.ofNat 512 (v / 2 ^ (512 * i))) (BitVec.ofNat 64 (2 ^ (min 64 (nb - 64 * i)) - 1)) half tid (s.now s.iss.core + 7))
      ∧ u.iss.effects = s.iss.effects ++ [.ring h 0 0 1]
      ∧ u.eng.accA a.val = (if clr then zeroRow else s.eng.accA a.val) ∧ u.eng.accB a.val = (if clr then zeroRow else s.eng.accB a.val)
      ∧ (∀ b, b ≠ a.val → u.eng.accA b = s.eng.accA b ∧ u.eng.accB b = s.eng.accB b)
      ∧ u.eng.active.siga = (if half = 1 then m.siga else fold m.siga v)
      ∧ u.eng.active.sigs = (if half = 1 then fold m.sigs v else if s.cc.split then m.sigs else fold m.sigs w)
    s.cl.mx = true → s.beatWait = .go → s.opens m = .go → m.ctlOk = true → m.afmt ≠ 3 → drainTy m = some ty → Machine.rmOf m.drm = some rm →
    a.val ∈ (s.tile.getD {}).init → r.v = true → nb ≤ r.slotBytes →
    s.spCheck ad nb 64 = none → r.fill + r.eng < r.cnt + 1 → s.room n = .go →
    (s.beatFits (.drain a.val false (s.rm rm) []) = .go → s.Issues (.drain a) → ∃ u, exec (.drain a) s = .next u ∧ drained false u)
    ∧ (s.beatFits (.drain a.val true (s.rm rm) []) = .go → s.Issues (.drainClr a) →
        ∃ u, exec (.drainClr a) s = .next u ∧ drained true u)

/-- R226: the fold of a signature, bit by bit and byte after byte; it starts from all ones when MXTILE is written. Signatures
that have once differed stay different over equal bytes, so that the comparison of two arrays finds an earlier error. -/
def Obligations.MatrixSignature : Prop :=
  let bitStep (x : Nat) : Nat := if x.testBit 63 then (x <<< 1) % 2 ^ 64 ^^^ 0x42F0E1EBA9EA3693 else (x <<< 1) % 2 ^ 64
  (∀ (sig : Nat), crc64 sig [] = sig)
  ∧ (∀ (sig : Nat) (b : Byte) (l : List Byte), sig < 2 ^ 64 →
      crc64 sig (b :: l) = crc64 (bitStep^[8] (sig ^^^ (b.toNat <<< 56))) l)
  ∧ (∀ (m : MxSet) (v : Dword), (m.write 1 v).siga = 0xFFFFFFFFFFFFFFFF#64 ∧ (m.write 1 v).sigs = 0xFFFFFFFFFFFFFFFF#64)
  ∧ (∀ (sig : Nat) (l m : List Byte), crc64 sig (l ++ m) = crc64 (crc64 sig l) m)
  ∧ (∀ (sig : Nat) (l : List Byte), sig < 2 ^ 64 → crc64 sig l < 2 ^ 64)
  ∧ (∀ (a b : Nat) (l : List Byte), a < 2 ^ 64 → b < 2 ^ 64 → crc64 a l = crc64 b l → a = b)

/-! ### Engine instructions and header flags -/

/-- R321 to R325: a copy command that meets its checks is held in one entry, with its ring slot reserved; a failed check traps
in the order of R324. -/
def Obligations.CopyCommands : Prop :=
  ∀ (s : State) (d a b c : SReg) (sc : Scope) (eng : Fin 2) (tl : Fin 64) (x : Bool),
    let cmd := s.copyCmd d a b c sc eng tl x
    let i : Instr := if x then .cpyx d a b c sc eng tl else .cpy d a b c sc eng tl
    let h : HReg := Fin.ofNat 16 cmd.dst
    let r := s.rh h
    let room := cmd.dk = 3 → r.fill + r.eng < r.cnt + 1
    let desc : Trap := { cause := 0x11, sub := 1, addr := cmd.dst }
    cmd.src = (s.rs a).toNat ∧ cmd.dst = (s.rs b).toNat ∧ cmd.len = (s.rs c).toNat ∧ cmd.mw = s.rs d
    ∧ cmd.time = (if x then (s.rs (d + 1)).toNat else 0)
    ∧ (cmd.bitsOk x = false → Traps s i desc)
    ∧ (cmd.bitsOk x = true → cmd.sizesOk r = false → Traps s i desc)
    ∧ (cmd.bitsOk x = true → cmd.sizesOk r = true → cmd.formatsOk = false → Traps s i { cause := 0x0A })
    ∧ (cmd.bitsOk x = true → cmd.sizesOk r = true → cmd.formatsOk = true → s.pcyc + 2 ^ 32 < cmd.time → Traps s i desc)
    ∧ (cmd.bitsOk x = true → cmd.sizesOk r = true → cmd.formatsOk = true → cmd.time ≤ s.pcyc + 2 ^ 32 →
        (∀ p, s.copyPlace cmd = some p → Traps s i { cause := 0x05, addr := p })
        ∧ (s.copyPlace cmd = none → (cmd.dk = 3 → r.v = true) → s.copyBank cmd r = none →
            (room → s.room 1 = .go → ∃ u, Does s i u
              ∧ u.cc.cb.map (·.kind) = s.cc.cb.map (·.kind) ++ [.copy { cmd with
                  slot := if cmd.dk = 3 then r.slotAddr ((r.cp + r.fill + r.eng) % (r.cnt + 1)) else 0,
                  rm := s.rm ((Machine.rmOf (cmd.f 24 3)).getD .rne) }]
              ∧ u.iss.effects = s.iss.effects ++ (if cmd.dk = 3 then [.ring h 0 0 1] else []))
            ∧ (¬ room → if s.exposed then Traps s i { cause := 0x09 } else Holds s i)))

/-- R333, R334: CPQ and TLRD read after their fixed times, TLWAIT waits for a count, TLADV moves both counts. R333: a number
that completes out of order does not move the count; when the gap closes, the count runs over all the numbers that are done. -/
def Obligations.Timelines : Prop :=
  (∀ (s : State) (d a : SReg) (sc : Scope) (eng : Fin 2) (sel : Fin 5) (set : Bool) (tl : Fin 64),
    let t := s.tl s.iss.core tl.val
    Does s (.cpq d eng sel) (s.varIn 7 (.s d (BitVec.ofNat 64 (s.engineState (clusOf s.iss.core) eng.val sel.val))))
    ∧ (∃ u v, Does s (.tlrd d tl sel) u ∧ v ∈ u.vres ∧ v.w = .s d 0#64 ∧ v.tl = some (tl.val, sel.val)
        ∧ v.clk = some (s.now s.iss.core + 3) ∧ u.cx.pend = s.cx.pend ++ [(v.id, s.iss.serial, .s d)])
    ∧ (t.park ≠ 0 → Traps s (.tlwait a sc tl) { cls := 1, cause := 0x17 })
    ∧ (t.park = 0 → t.val.toNat < (s.rs a).toNat → Holds s (.tlwait a sc tl))
    ∧ (t.park = 0 → (s.rs a).toNat ≤ t.val.toNat → Does s (.tlwait a sc tl) (s.raiseLt s.iss.core s.iss.ctx
        ((t.times.filter (fun p => p.1 ≤ (s.rs a).toNat)).foldl (fun m p => max m p.2) 0)))
    ∧ (s.drained = true → t.val = t.rel → ∃ u, Does s (.tladv a set tl) u
        ∧ (u.tl s.iss.core tl.val).val = (if set then s.rs a else t.val + s.rs a)
        ∧ (u.tl s.iss.core tl.val).rel = (if set then s.rs a else t.rel + s.rs a)
        ∧ ∀ n, n ≠ tl.val → u.tl s.iss.core n = s.tl s.iss.core n)
    ∧ (s.drained = true → t.val ≠ t.rel → Holds s (.tladv a set tl)))
  ∧ (∀ (t : Timeline) (sig : Dword), t.val.toNat + 2 < 2 ^ 64 → (∀ p ∈ t.done, p.1 ≤ t.val.toNat) →
    let n := t.val.toNat
    (t.complete (n + 2) sig 0).val = t.val
    ∧ (t.complete (n + 1) sig 0).val = t.val + 1#64
    ∧ ((t.complete (n + 2) sig 0).complete (n + 1) sig 0).val = t.val + 2#64)

/-- R355, R366, R374: FENCE and WACK wait for what they order and change no value: FENCE raises the logical time to what the awaited
acknowledgements gave. That a FENCE waits for a load in flight of exposed mode until its register has it, for which releases it
waits, that copies dropped keep pins, and which acknowledgements a release sees, are the model's readings (logs 17, 16, 40 and 87). R344, R350, R367 to R371: an acquire
polls its word at the home and waits; once an answer satisfies its comparison it raises the logical time and, at scopes
above the core, drops clean copies of the bound ranges. R368: the comparisons of an acquire. -/
def Obligations.FencesAndAcquires : Prop :=
  (∀ (s : State) (sc : Scope),
    (s.waitRelease sc = .go → s.readsBack = true → Does s (.fence sc) (s.seesAcks s.iss.core s.iss.ctx sc))
    ∧ (s.waitRelease sc = .go → s.readsBack = false → Holds s (.fence sc))
    ∧ (s.waitRelease sc = .ack → s.Tried (.fence sc) → exec (.fence sc) s = .next s.holdAck)
    ∧ (s.drained = false → s.Tried (.fence sc) → exec (.fence sc) s = .next s.holdDrain)
    ∧ (s.drained = true → s.cx.pbytes = 0 → Does s .wack s) ∧ (s.drained = true → s.cx.pbytes ≠ 0 → Holds s .wack))
  ∧ (∀ (s : State) (d : SReg) (n : BReg) (b : SReg) (sc : Scope) (cmp : AcqCmp) (t : Trap) (e : Lrt),
    let va := s.cx.r.b[n.val].sync.toNat
    let chk := s.syncCheck n (·.rd)
    let rs := s.cx.ranges va
    (s.satisfied va b cmp = none → chk = .ok e → s.Tried (.acq n b sc cmp) → exec (.acq n b sc cmp) s = .next (s.poll va e).hold)
    ∧ (s.satisfied va b cmp = none → chk = .ok e → s.Tried (.acqp d n b sc cmp) →
        exec (.acqp d n b sc cmp) s = .next (s.poll va e).hold)
    ∧ (chk = .error t → Traps s (.acq n b sc cmp) t ∧ Traps s (.acqp d n b sc cmp) t)
    ∧ (∀ ans, s.satisfied va b cmp = some ans → chk = .ok e →
        let u := s.endPoll.raiseLt s.iss.core s.iss.ctx ans.wts
        Does s (.acq n b sc cmp) (u.dropClean u.iss.core u.cx.launch (u.cx.ranges ans.va) sc)
        ∧ ∃ t, Does s (.acqp d n b sc cmp) t ∧ ∃ p ∈ t.cx.pend, p.2.2 = .s d)
    ∧ (s.syncCheck n (·.wr) = .error t → Traps s (.rel n b sc) t)
    ∧ (s.drained = true → s.syncCheck n (·.wr) = .ok e → ∃ u r, Does s (.rel n b sc) u ∧ u.rels = s.rels ++ [r]
        ∧ r.core = s.iss.core ∧ r.ctx = s.iss.ctx ∧ r.va = va ∧ r.ent = e ∧ r.val = s.rs b ∧ r.ranges = rs
        ∧ r.sc = (if 2 < rs.length ∧ (sc = .core ∨ sc = .clus) then .die else sc)
        ∧ u.cx.comps = s.cx.comps ++ [.rel r.id]))
  ∧ (∀ (a b : Dword),
    (AcqCmp.holds .eq a b = true ↔ a = b) ∧ (AcqCmp.holds .ne a b = true ↔ a ≠ b) ∧ (AcqCmp.holds .ge a b = true ↔ b.toInt ≤ a.toInt)
    ∧ (AcqCmp.holds .geu a b = true ↔ b.toNat ≤ a.toNat) ∧ (AcqCmp.holds .gt a b = true ↔ b.toInt < a.toInt)
    ∧ (AcqCmp.holds .gtu a b = true ↔ b.toNat < a.toNat))

/-- R372, R373, R41: BIND and UNBIND. R375 to R377: a barrier's arrival, its wait, and BAR, which arrives first and then waits. That an
arrival waits for the releases of its scope, and which acknowledgements it sees, are the model's readings (logs 16 and 87). -/
def Obligations.BindingsAndBarriers : Prop :=
  (∀ (s : State) (n : BReg) (a b c : SReg),
    let sync := (s.rs a).toNat
    let base := (s.rs b).toNat
    let limit := (s.rs c).toNat
    let ok := sync % 16 = 0 ∧ base % 128 = 0 ∧ limit % 128 = 0 ∧ base < limit
      ∧ (∃ e ∈ s.cl.lrt, e.v = true ∧ e.coh = 1 ∧ e.base ≤ base ∧ limit ≤ e.limit)
      ∧ (∃ e ∈ s.cl.lrt, e.v = true ∧ e.wr = true ∧ e.coh ≠ 2 ∧ e.base ≤ sync ∧ sync + 16 ≤ e.limit)
    (ok → Does s (.bind n a b c) (s.effect (.bind n { sync := s.rs a, base := s.rs b, limit := s.rs c, v := true })))
    ∧ (¬ ok → Traps s (.bind n a b c) { cause := 0x11, sub := 2, addr := sync })
    ∧ Does s (.unbind n) (s.effect (.bind n {})))
  ∧ (∀ (s : State) (k : Fin 7),
    let named := bit s.cl.barlv k.val
    let trap : Trap := { cause := 0x11, sub := 3, addr := k.val }
    let b := (s.barrier s.iss.core s.iss.ctx k.val).2
    let arrived := s.cx.arr[k.val]
    (named = false → Traps s (.bara k) trap ∧ Traps s (.barw k) trap ∧ Traps s (.bar k) trap)
    ∧ (named = true → s.drained = true → b.done = arrived → s.waitRelease (s.cl.barScope k.val) = .go → Does s (.bara k) (s.arrive k))
    ∧ (named = true → s.drained = true → b.done ≠ arrived → Holds s (.bara k))
    ∧ (named = true → arrived.toNat ≤ b.done.toNat → Does s (.barw k) (s.barAcquire k))
    ∧ (named = true → b.done.toNat < arrived.toNat → Holds s (.barw k))
    ∧ (named = true → s.cx.barOn = true → arrived.toNat ≤ b.done.toNat → Does s (.bar k) (s.barAcquire k))
    ∧ (named = true → s.cx.barOn = true → b.done.toNat < arrived.toNat → Holds s (.bar k))
    ∧ (named = true → s.cx.barOn = false → s.iss.stop = none → s.baraWait k = .go → s.Tried (.bar k) →
        exec (.bar k) s = .next ((s.arrive k).modCx (fun t => { t with barOn := true })).hold)
    ∧ (s.arrive k).cx.arr[k.val] = arrived + 1#32)

/-- R218, R219, R378, R379: engine registers are written for later bundles and read three clocks on. R386 to R390: bank
ownership and power. -/
def Obligations.EngineRegistersAndBanks : Prop :=
  (∀ (s : State) (d a : SReg) (shadow : Bool) (reg : Fin 16),
    let half := s.half s.iss.core s.iss.ctx
    let m := if shadow then s.eng.shadow else s.eng.active
    let split := s.cc.split
    (s.cl.mx = false → Traps s (.mregw shadow reg a) { cause := 0x0E, info := s.eng.active.tileId }
      ∧ Traps s (.mregr d shadow reg) { cause := 0x0E, info := s.eng.active.tileId })
    ∧ (s.cl.mx = true → s.beatWait = .go → (shadow = true ∨ s.tile = none) →
        Does s (.mregw shadow reg a) (s.effect (.mreg (half = 1) shadow reg.val (s.rs a))))
    ∧ (s.cl.mx = true → s.beatWait = .go → shadow = false → s.tile ≠ none →
        Traps s (.mregw shadow reg a) { cause := 0x0D, info := s.eng.active.tileId })
    ∧ (s.cl.mx = true → s.beatWait = .hold → Holds s (.mregw shadow reg a))
    ∧ (s.cl.mx = true → Does s (.mregr d shadow reg) (s.varIn 3 (.s d
        (if split ∧ ((reg = 5 ∧ half = 1) ∨ (reg = 6 ∧ half = 0)) then BitVec.allOnes 64 else m.read reg.val)))))
  ∧ (∀ (s : State) (d a : SReg) (sel : Bool),
    let m := (s.rs a).toNat % 2 ^ 32
    let mine (b : Nat) : Prop := tget s.cc.sp.owner b 0 = s.cx.launch
    let half := s.half s.iss.core s.iss.ctx
    let own := (List.range 32).filter (fun b => bit m b && tget s.cc.sp.owner b 0 = s.cx.launch)
    ((∃ b < 32, bit m b = true ∧ bit s.cl.bank b = false) → Traps s (.bown a) { cause := 0x11, sub := 4, addr := m })
    ∧ ((∀ b < 32, bit m b = true → bit s.cl.bank b = true) →
        ((∀ b < 32, bit m b = true → mine b) → Does s (.bown a) s)
        ∧ (¬ (∀ b < 32, bit m b = true → mine b) → Holds s (.bown a)))
    ∧ (s.drained = true → s.cc.cb = [] → Does s (.brel a) (s.modCc (fun k =>
        { k with passes := k.passes ++ own.map (fun b => (b, s.heir s.iss.core s.cx.launch b)) })))
    ∧ Does s (.pwrq d a false false) (s.varIn 3 (.s d (s.pwrgnt s.iss.core half)))
    ∧ Does s (.pwrq d a false true) (s.varRange 7 1024 (.s d (BitVec.ofNat 64 (s.diePower (coreDie s.iss.core)))))
    ∧ (s.powerPlace (s.rs a).toNat = none → Does s (.pwrq d a true sel) (s.varRange 7 1024 (.s d 0#64)))
    ∧ (∀ c h, s.powerPlace (s.rs a).toNat = some (c, h) →
        Does s (.pwrq d a true true) (s.varRange 7 1024 (.s d (BitVec.ofNat 64 (s.diePower (coreDie c)))))
        ∧ ((c, h) ≠ (s.iss.core, half) → Does s (.pwrq d a true false) (s.varRange 7 1024 (.s d (s.pwrgnt c h))))
        ∧ ((c, h) = (s.iss.core, half) → Does s (.pwrq d a true false) (s.varIn 3 (.s d (s.pwrgnt c h))))))

/-- R380 to R385: messages, collectives, launches and cancels. R381: RECV takes the message at the head of its queue, after
those of cancelled graphs are dropped; its chunks are claimed for the scratchpad and its length waits in s[d]. -/
def Obligations.MessagesAndLaunches : Prop :=
  (∀ (s : State) (a b c : SReg) (sc : Scope) (tl : Fin 64) (tab : Fin 16) (lq : Fin 32) (t : Trap),
    let addr := (s.rs a).toNat
    let dest := (s.rs b).toNat
    let len := (s.rs c).toNat
    let sendOk := dest < 2 ^ 24 ∧ len % 64 = 0 ∧ 64 ≤ len ∧ len ≤ 4096
    let u := s.lqueue lq.val
    let v := s.spRead addr 256
    (s.spCheck addr len 64 = none → sendOk → s.room 1 = .go →
      Does s (.send a b c sc tl) (s.addEntry .none (.send addr len (dest % 2 ^ 18) (dest / 2 ^ 18) tl.val sc)))
    ∧ (s.spCheck addr len 64 = some t → Traps s (.send a b c sc tl) t)
    ∧ (s.spCheck addr len 64 = none → ¬ sendOk → Traps s (.send a b c sc tl) { cause := 0x11, sub := 1, addr := dest })
    ∧ (s.room 1 = .go → Does s (.coll a sc tab tl) (s.addEntry .none (.coll tab.val addr tl.val sc))
        ∧ Does s (.cstab a c tab) (s.addEntry .none (.cstab tab.val addr len)))
    ∧ (s.spCheck addr 256 64 = none → u.en = true → u.dev = true → u.held + u.reserved < 2 ^ u.lg → s.room 4 = .go →
        ∃ w, Does s (.launch a lq) w
          ∧ w.cc.cb.map (·.kind) = s.cc.cb.map (·.kind)
              ++ (List.range 4).map (fun i => .launch lq.val i (BitVec.ofNat 512 (v / 2 ^ (512 * i))))
          ∧ (w.lqueue lq.val).reserved = u.reserved + 1)
    ∧ (s.spCheck addr 256 64 = none → (u.en = false ∨ u.dev = false) →
        Traps s (.launch a lq) { cause := 0x11, sub := 5, addr := lq.val })
    ∧ (s.spCheck addr 256 64 = none → u.en = true → u.dev = true → 2 ^ u.lg ≤ u.held + u.reserved → Holds s (.launch a lq))
    ∧ (s.drained = true → Does s (.cancel a) (if addr % 2 ^ 32 = (s.launch s.cx.launch).gin
        then (s.modCx (fun k => { k with cancel := true })).cancelGin (coreDie s.iss.core) (addr % 2 ^ 32)
        else s.cancelGin (coreDie s.iss.core) (addr % 2 ^ 32))))
  ∧ (∀ (s : State) (d a c : SReg) (sc : Scope) (q : Fin 64),
    let addr := (s.rs a).toNat
    let n := (s.rs c).toNat
    let p := s.dropCancelled q.val
    s.drained = true → (s.lrq q.val).room = [] →
    ((p.lrq q.val).msgs = [] → p.spCheck addr n 64 = none → s.Tried (.recv d a c sc q) → exec (.recv d a c sc q) s = .next p.hold)
    ∧ (∀ m rest, (p.lrq q.val).msgs = m :: rest → p.spCheck addr n 64 = none →
        (m.bytes.length ≤ n → ∃ u, Does s (.recv d a c sc q) u ∧ (u.lrq q.val).msgs = rest
          ∧ (u.lrq q.val).used = (p.lrq q.val).used - units m.bytes.length
          ∧ u.cx.pend = s.cx.pend ++ [(s.nextId, s.iss.serial, .s d)]
          ∧ (∃ v ∈ u.vres, v.id = s.nextId ∧ v.w = .s d (BitVec.ofNat 64 m.bytes.length))
          ∧ u.cc.sp.claims.map (·.addr) = s.cc.sp.claims.map (·.addr)
              ++ (List.range (units m.bytes.length)).map (fun i => addr + 64 * i))
        ∧ (n < m.bytes.length → s.Tried (.recv d a c sc q) →
            exec (.recv d a c sc q) s = .next (p.trap { cause := 0x11, sub := 6, addr := addr }))))

/-- R106, R107, R134, R253, R413, R426: NOP and the header flags: a quench point covers the entries up to its bundle, a mark
waits for the one before it and is no part of an open tile, yield is a boundary point, the last bundle halts its context. -/
def Obligations.HeaderFlags : Prop :=
  ∀ (s : State),
    let q := some (max s.iss.serial (s.cx.quench.getD 0))
    let tile : Trap := { cause := 0x0D, info := s.eng.active.tileId }
    Does s .nop s
    ∧ (∃ u, Does s .quenchPoint u ∧ u.cx = { s.cx with quench := q } ∧ s.SameElsewhere u)
    ∧ (s.tile ≠ none → Traps s .restartMark tile ∧ Traps s .endOfTask tile)
    ∧ (s.tile = none → (s.cx.mark2 ≠ none ∨ s.cx.markAt ≠ none) → Holds s .restartMark)
    ∧ (s.tile = none → s.cx.mark2 = none → s.cx.markAt = none → ∃ u, Does s .restartMark u
        ∧ u.cx = { s.cx with quench := q, markAt := some s.iss.serial } ∧ s.SameElsewhere u)
    ∧ (∃ u, Does s .yield u ∧ u.cx = { s.cx with boundary := true })
    ∧ (s.tile = none → ∃ u, Does s .endOfTask u
        ∧ u.cx = { s.cx with quench := q, status := .halted, why := .ended, r := { s.cx.r with ls := [] } })

/-! ### Events -/

/-- R101 to R106, R123: the next bundle of a context is fetched and decoded into the issue latch, or its decode failure traps.
R101, R153: the illegal-index trap, with the position and the target of a branch that left the stream; its address 0 for a position
that no branch named is the model's reading (log 20). -/
def Obligations.FetchAndDecode : Prop :=
  (∀ (s : State) (bundle : Bundle) (next : Nat),
    let k := s.ctx s.arg.core s.arg.ctx
    let b : State := { s with iss := { core := s.arg.core, ctx := s.arg.ctx, serial := k.serial, pos := k.r.pc.toNat } }
    s.fetch s.arg.core s.arg.ctx = .bundle bundle next →
    (∀ f l, decodeBundle bundle = .ok (f, l) → ∃ t, exec .bundleDecode s = .next t ∧ t.iss.valid = true ∧ t.iss.slots = l
      ∧ t.iss.next = next ∧ t.iss.pos = k.r.pc.toNat ∧ t.iss.core = s.arg.core ∧ t.iss.ctx = s.arg.ctx
      ∧ t.iss.fmk = f.fmk ∧ t.iss.fyd = f.fyd ∧ t.iss.fqp = f.fqp ∧ t.iss.fnd = f.fnd ∧ t = { s with iss := t.iss })
    ∧ (∀ e slot, decodeBundle bundle = .error (e, slot) → exec .bundleDecode s = .next (b.trap
        { cause := (match e with | .illegalOpcode => 0x02 | .wrongSlot => 0x03 | .reservedField => 0x04), slot := slot })))
  ∧ (∀ (s : State),
    let k := s.ctx s.arg.core s.arg.ctx
    let l := s.launch k.launch
    let b (pos : Nat) : State := { s with iss := { core := s.arg.core, ctx := s.arg.ctx, serial := k.serial, pos := pos } }
    (k.r.pc < 0 ∨ (l.nidx : Int) ≤ k.r.pc) →
    (k.r.brFrom = none → exec .bundleDecode s = .next ((b k.r.pc.toNat).trap { cause := 0x01, addr := 0 }))
    ∧ (∀ p, k.r.brFrom = some p → exec .bundleDecode s =
        .next ((b p).trap { cause := 0x01, addr := (k.r.pc % 2 ^ 64).toNat })))

/-- R94, R102, R104, R135, R136, R139, R141, R144, R150: the events of the fetch unit and of the results of a core. -/
def Obligations.FetchEvents : Prop :=
  ∀ (s : State),
    let c := s.arg.core
    let x := s.arg.ctx
    let k := s.ctx c x
    let engine := (s.core c).eng (s.half c x)
    -- a line of the index arrives: the contexts fetch again, and the line is held
    (∃ t, exec .indexLineFill s = .next t ∧ s.arg.id ∈ (t.core c).icache
      ∧ ((s.core c).icache.length ≤ 256 → (t.core c).icache.length ≤ 256))
    -- an entry of the dictionary is read again: it is right again
    ∧ (∃ t, exec .dictionaryReread s = .next t ∧ ∀ d ∈ (t.core c).dictErr, d.1 ≠ s.arg.id)
    ∧ (∀ r, (s.core c).regions.find? (fun r => r.first ≤ s.arg.id && s.arg.id < r.first + r.count) = some r →
        ∃ t, exec .dictionaryReread s = .next t ∧ tget (t.core c).dict s.arg.id 0#384
          = BitVec.ofNat 384 (mread s.mem ((s.launch (r.users.headD 0)).dictAt + 48 * (s.arg.id - r.first)) 48))
    -- the second cycle of a split bundle: the results of its V1 slot join the others
    ∧ (∃ t, exec .splitBundleSecondCycle s = .next t ∧ (t.ctx c x).split = [] ∧ (t.ctx c x).splitOn = false
        ∧ (t.ctx c x).r.flight = k.r.flight ++ (k.split.filter (fun f => 1 < f.dist)).map (fun f => { f with dist := f.dist - 1 }))
    -- parking and coming back
    ∧ (k.status = .waiting → ∃ t, exec .contextPark s = .next t ∧ (t.ctx c x).status = .parked)
    ∧ (k.status ≠ .waiting → exec .contextPark s = .next s)
    ∧ (k.status = .parked → ∃ t, exec .contextUnpark s = .next t ∧ t.ctx c x = { k with status := .ready, waitClk := 0 })
    -- a step of the context: its results come closer and those that land are written; a new format that reaches the active bank
    -- after an AFEED of the open tile halts it
    ∧ (engine.newFormat = false → ∃ t, exec .resultLand s = .next t ∧ t.ctx c x = { k with r := k.r.stepFlight })
    ∧ (engine.owner = some x → engine.newFormat = true → ∃ t, exec .resultLand s = .next t ∧ (t.ctx c x).status = .halted)
    -- a publication: the first reserved slot of the handle is full when its data has arrived
    ∧ (∀ h id n, s.arg.n = h → h < 16 → k.resv = [(h, id, n, true)] → ∃ t, exec .engineProducerPublish s = .next t
        ∧ (t.ctx c x).resv = [] ∧ (t.ctx c x).r = k.r.publish h)
    -- the end of a correction freeze
    ∧ ((s.core c).freeze ≤ s.pcyc → ∃ t, exec .correctionFreezeEnd s = .next t ∧ (t.core c).freeze = 0)
    ∧ (s.pcyc < (s.core c).freeze → ∃ t, exec .correctionFreezeEnd s = .next t ∧ (t.core c).freeze = (s.core c).freeze)

/-- R413 to R415: marks, rollbacks and the mismatches that a core recovers from. The second mismatch before the next mark fails
the core, or the lane group, whose core in split mode has its tasks pre-empted. What a rollback keeps of a set of engine registers
that another context has opened since is the model's choice (log 92). -/
def Obligations.MarksAndMismatches : Prop :=
  ∀ (s : State),
    let c := s.arg.core
    let x := s.arg.ctx
    let k := s.ctx c x
    let rec1 (cause sub info : Nat) : State := s.post (s.recOf c x { cls := 1, cause := cause, sub := sub, info := info, pos := k.r.pc.toNat })
    (∀ n r, k.mark2 = some (n, r) → s.markDue c x = true → ∃ t, exec .markEstablished s = .next t
      ∧ (t.ctx c x).mark = some r ∧ (t.ctx c x).mark2 = none ∧ x ∉ (t.core c).lockBad)
    ∧ (s.markDue c x = false → exec .markEstablished s = .next s)
    ∧ (k.why = .rolling → (s.recordHeld c x = true ∨ s.now c < k.nextAt) →
        exec .rollbackFetchResume s = .next (s.sched_ (s.pcyc + 1) 0 .rollbackFetchResume s.arg))
    ∧ (k.why = .rolling → s.recordHeld c x = false → k.nextAt ≤ s.now c → ∃ t, exec .rollbackFetchResume s = .next t ∧ (t.ctx c x).status = .ready
        ∧ (t.ctx c x).why = .none ∧ (t.ctx c x).r = k.r)
    ∧ ((s.core c).split = false → k.running = true → x ∉ (s.core c).lockBad → exec .lockstepMismatch s = .next
        (((rec1 0x18 0 0).modCore c (fun k => { k with lockBad := k.lockBad ++ [x] })).rollback c x .rolling))
    ∧ ((s.core c).split = false → k.running = true → x ∈ (s.core c).lockBad →
        exec .lockstepMismatch s = .next ((rec1 0x18 1 0).failCore c))
    ∧ ((s.core c).split = true → exec .lockstepMismatch s = .next s)
    ∧ (k.running = true → (x, s.arg.n % 2) ∉ (s.core c).resBad → exec .residueMismatch s = .next
        (((rec1 0x19 0 (s.arg.n % 2)).modCore c (fun k => { k with resBad := k.resBad ++ [(x, s.arg.n % 2)] })).rollback c x .rolling))
    ∧ (k.running = true → (x, s.arg.n % 2) ∈ (s.core c).resBad →
        let t := ((rec1 0x19 1 (s.arg.n % 2)).modCore c (fun k =>
          { k with slotmap := failGroup k.slotmap (s.arg.n % 2) })).rollback c x .rolling
        exec .residueMismatch s = .next (if (s.core c).split then t.preemptAll c (·.split) else t))

/-- R150, R229, R249, R250, R253, R263: draining, the granted accesses of a scratchpad and its parity, and its banks' power.
R228 to R230: a closed tile whose signatures agree is done with; one whose signatures disagree stops draining and is
replayed by the Hardy, whose signature decides. The model's readings and choices: a retired array takes no part (log 28), the logical
contents of a retired bank (log 39), the order of claims (log 23), a claimed
apply clock that a later write does not take (log 94), the parity of a full-stripe write beside other writes (log 106), no
context charged for a rebuild (log 107), and the clock in which a replay starts, its first signature and the rows of a resume (logs 102
to 104). -/
def Obligations.ScratchpadEvents : Prop :=
  (∀ (s : State),
    let c := s.arg.core
    let sp := (s.core c).sp
    let n := s.arg.n
    let row := s.arg.m
    -- draining stops in a freeze and while a tile disagrees
    let still := s.pcyc < (s.core c).freeze ∧ (s.core c).freeze ≤ s.pcyc + 24
    ((s.pcyc < (s.core c).stopDrain ∨ still) → exec .commitDrain s = .next s)
    ∧ ((s.core c).stopDrain ≤ s.pcyc → ¬ still → exec .commitDrain s = .next ((s.drainSpad c).drainOther c))
    -- the write of an entry: its enabled bytes and no others change, and the entry has left
    ∧ (∀ w e, s.arg.flag = false → sp.wr.find? (fun w => w.id = s.arg.id) = some w → w.read = false → w.src = .entry e →
        w.red = none → w.addr % 64 = 0 → Memory.wf sp.data = true → w.tset = 0#8 →
        ∃ t, exec .scratchpadDrainWrite s = .next t ∧ (∀ f ∈ (t.core c).cb, f.id ≠ e) ∧ t.mem = s.mem ∧ t.host = s.host
          ∧ ∀ a, mget (t.core c).sp.data a =
              if w.addr ≤ a ∧ a < w.addr + 64 ∧ w.be.getLsbD (a - w.addr) = true then BitVec.ofNat 8 (w.data.toNat / 2 ^ (8 * (a - w.addr)))
              else mget sp.data a)
    -- a delta is applied once
    ∧ (∀ d, sp.deltas.find? (fun d => d.wid = s.arg.id) = some d → exec .parityDeltaApply s = .next (s.applyDelta c d)
        ∧ ((s.applyDelta c d).core c).sp.data = sp.data ∧ ∀ e ∈ ((s.applyDelta c d).core c).sp.deltas, e.wid ≠ d.wid)
    -- sleep and wake: a bank that was gated holds zeros and empty tags
    ∧ (sp.powerOf n = .on → ∃ t, exec .bankSleep s = .next t ∧ (t.core c).sp = { sp with power := tset sp.power n .sleep })
    ∧ (sp.powerOf n ≠ .on → exec .bankSleep s = .next (s.modSp c id))
    ∧ (∀ w, sp.powerOf n = .waking w false → ∃ t, exec .bankWake s = .next t
        ∧ (t.core c).sp = { sp with power := tset sp.power n .on, last := tset sp.last n w })
    -- what an RSTE queued for a word of it does comes after
    ∧ (∀ w, sp.powerOf n = .waking w true → ∃ t, (t.core c).sp.powerOf n = .on
        ∧ exec .bankWake s = .next ((sp.full.filter (fun a => bankOf a = n)).foldl (fun s a => s.tagChanged c a) t)
        ∧ (∀ a ∈ (t.core c).sp.full, bankOf a ≠ n) ∧ (∀ p ∈ (t.core c).sp.data, bankOf p.1 ≠ n)
        ∧ (∀ p ∈ sp.data, bankOf p.1 ≠ n → p ∈ (t.core c).sp.data) ∧ tget (t.core c).sp.reb (groupOf n) 0 = w)
    -- a row that is rebuilt: its members are read in one clock, and what was read is written as its parity in the next
    ∧ (s.arg.flag = true → (∀ e ∈ sp.errs, e.row ≠ row ∨ 32 ≤ e.bank ∨ groupOf e.bank ≠ n) →
        ∃ t, exec .parityRebuildRow s = .next t ∧ (t.core c).sp.data = sp.data ∧ (t.core c).sp.par = sp.par
          ∧ tget (t.core c).sp.rebRow n (0#512, 0#8) = (BitVec.ofNat 512 (s.memberXor c n row).1, BitVec.ofNat 8 (s.memberXor c n row).2))
    ∧ (s.arg.flag = false → ∃ t, exec .parityRebuildRow s = .next t ∧ (t.core c).sp.data = sp.data ∧ (t.core c).sp.full = sp.full
        ∧ (t.core c).sp.par = mwrite sp.par (n * 131072 + row * 64) 64 (tget sp.rebRow n (0#512, 0#8)).1.toNat))
  ∧ (∀ (s : State) (t : Tile),
    let c := s.arg.core
    let id := s.arg.id
    let without (u : State) (c id : Nat) : State := u.modCore c (fun k =>
      { k with eng0 := { k.eng0 with closed := k.eng0.closed.filter (fun u => u.id != id) } })
    (s.closedTile c id = some t → t.siga = t.sigs → exec .tileComparison s = .next ((without s c id).releasePinned (clusOf c)))
    ∧ (s.closedTile c id = some t → t.siga ≠ t.sigs → ∃ u, exec .tileComparison s = .next u ∧ (u.core c).stopDrain = never
        ∧ (u.clu (clusOf c)).hardy.queue = (s.clu (clusOf c)).hardy.queue ++ [(c, id, s.pcyc)])
    ∧ (∀ d i since rest,
        let k := s.arg.n
        let b := s.modClu k (fun u => { u with hardy := { queue := rest, until_ := none } })
        (s.clu k).hardy.queue = (d, i, since) :: rest → b.closedTile d i = some t →
        let x := t.ctx
        let r := b.replay d t
        let eqA := r.sig = t.siga.toNat
        let eqS := r.sig = t.sigs.toNat
        let held := (b.core d).cb.filter (fun e => match e.kind with | .drain _ _ _ _ j _ => j = i | _ => false)
        let fin (u : State) (extra : Nat) : State :=
          ((u.modCore d (fun q => if (rest.any (fun w => w.1 = d)) then q else { q with stopDrain := u.pcyc + 1 + extra })).releasePinned
            k).hardyNext k
        (eqA → eqS → exec .hardyDecision s = .next (fin (without (b.tileRecord d x 0x1B 0 t r.sig) d i) 0))
        ∧ (eqA → ¬ eqS → exec .hardyDecision s = .next (fin (without ((b.tileRecord d x 0x1B 1 t r.sig).suspect d x true t r.sig) d i) 0))
        ∧ (¬ eqA → eqS → held.any (·.read) = false → ∃ u, exec .hardyDecision s = .next (fin u held.length)
            ∧ ∀ f ∈ (u.core d).cb, ∃ e ∈ (b.core d).cb, f.id = e.id ∧ f.st = e.st)
        ∧ (¬ eqA → eqS → held.any (·.read) = true → exec .hardyDecision s = .next
            (fin ((without ((b.tileRecord d x 0x1B 3 t r.sig).suspect d x false t r.sig) d i).rollback d x .rolling) 0))
        ∧ (¬ eqA → ¬ eqS → ∃ u, exec .hardyDecision s = .next (fin u 0) ∧ (u.core d).trip = (s.core d).trip + 1)))

/-- R270, R271, R277 to R279, R284, R303, R304: a request on its way to its home, its translation, the assignment of a page at
first touch, and remote chunks as they arrive. R282, R284, R311, R312, R314, R316, R342, R411: what a home does with a
write, an atomic, a contribution and a release, at the place of the line. The model's readings and choices: the order of one agent's
accesses and the caches of walks (log 30), the directory's step and the frame it takes (log 43), the times that a home stamps (log 45),
the lines that a tile names (log 75), a contribution to a line with an error (log 97), and the room of the spill queue (log 98). -/
def Obligations.RequestsAndWritesAtHomes : Prop :=
  (∀ (s : State),
    (∀ r, s.req? s.arg.id = some r →
      let d := s.reqHome r
      let here := s.arg.flag = false ∧ State.away r = false
      (here → d = 9 → exec .homeRequest s = .next (s.after 0 (lineRoute r.who r.g.va 0) .firstTouchAssign { id := r.id }))
      ∧ (here → d < 8 → (s.die d).dfail = true → exec .homeRequest s = .next (s.answer { r with code := 6 }))
      ∧ (here → d ≠ 9 → (8 ≤ d ∨ (s.die d).dfail = false) → (State.owed r = 0 ∨ s.earlierOwn r = false) →
          exec .homeRequest s = .next (((s.modReq r.id (fun q => { q with home := d })).modDie d (fun k =>
            { k with walkQ := k.walkQ ++ [r.id] })).inOrder (fun (u : State) => u.runWaiting d)))
      -- a request for another chip, asked again, leaves for it
      ∧ (s.arg.flag = false → State.away r = true → exec .homeRequest s = .next (s.toPeer r))
      ∧ (∀ p, s.arg.flag = true → r.p = some p → exec .homeRequest s = .next (s.serve r.id p))
      -- a walk that ends at a page enters the translation cache, and one that fails is answered with its code
      ∧ (let id := s.arg.id
         let d := s.arg.n
         let b := s.modDie d (fun k => { k with walkers := k.walkers.filter (· != id) })
         let out (u : State) : State := u.modDie d (fun k => { k with walkQ := k.walkQ.filter (· != id) })
         let walk := b.walkBy (b.walkRead d r.g.ent.asid) d r.g.ent.asid r.g.va
         ((s.die d).wc = [] → walk.1 = b.walk d r.g.ent.asid r.g.va)
         ∧ (∀ p base size pbase l, walk = (.at p base size pbase, l) →
            ∃ u : State, exec .translationWalk s = .next (u.inOrder (fun (u : State) => ((out u).serve id p).runWaiting d))
              ∧ (r.g.ent.asid, base, size, pbase) ∈ (u.die d).tc ∧ u.reqs = s.reqs ∧ u.mem = s.mem)
         ∧ (∀ code l, walk = (.fail code, l) →
            exec .translationWalk s = .next
            (((out (b.walkKeep d r.g.ent.asid l)).answer { r with code := code }).inOrder (fun (u : State) => u.runWaiting d))))
      -- first touch: the die named by the hint if the launch may use it, else the asking die, else the lowest die of the launch
      ∧ (let mine := s.agentDie r.who
         let home := match r.g.hint with
           | some h => if bit r.g.ent.dmask h then h else if mine < 8 then mine else nthBit r.g.ent.dmask 0
           | none => if mine < 8 then mine else nthBit r.g.ent.dmask 0
         ((s.homeDie r.g.ent r.g.va).isSome = true → exec .firstTouchAssign s =
              .next (s.after (s.meshWait ((s.homeDie r.g.ent r.g.va).getD 9)) (lineRoute r.who r.g.va 0) .homeRequest { id := r.id }))
         ∧ (s.homeDie r.g.ent r.g.va = none → (s.die home).frames = [] →
              exec .firstTouchAssign s = .next (s.answer { r with code := 2 }))
         ∧ (∀ f rest, s.homeDie r.g.ent r.g.va = none → (s.die home).frames = f :: rest →
              (∀ p, s.leafPlace home r.g.ent.asid (r.g.va / 4096 * 4096) = some p → s.ckStuck p 8 = false) → ∃ t,
              exec .firstTouchAssign s = .next t
              ∧ t.ftdir = s.ftdir ++ [(r.g.ent.asid, r.g.va / 4096, home)] ∧ (t.die home).frames = rest
              ∧ ∃ q ∈ t.sched, q.ev = .homeRequest ∧ q.arg = { id := r.id })))
    -- writes kept back by a pin return to the slice in order
    ∧ (∀ id rest, (s.clu s.arg.n).spill = id :: rest → (s.clu s.arg.n).inbuf.length < 64 → ∃ t, exec .spillQueueReturn s = .next t
        ∧ (t.clu s.arg.n).spill = rest)
    ∧ ((s.clu s.arg.n).spill ≠ [] → 64 ≤ (s.clu s.arg.n).inbuf.length → exec .spillQueueReturn s = .next s)
    -- remote chunks claim their cell as they arrive
    ∧ (∀ m, s.msg? s.arg.id = some m →
        let b := s.modMsg m.id (fun m => { m with here := true })
        let busy := (s.msgs.filter (fun n => n.dest = m.dest && n.rste.isSome && n.here)).length
        exec .remoteStoreArrival s = .next (b.claim m.dest [m.access])
        ∧ (busy < 32 → exec .rsteArrival s = .next (b.claim m.dest [m.access]))
        ∧ (32 ≤ busy → exec .rsteArrival s = .next (s.sched_ (s.pcyc + 1) (remoteRoute m.core m.ctx m.dest) .rsteArrival s.arg))))
  ∧ (∀ (s : State) (r : Req) (p : Nat), s.req? s.arg.id = some r → r.p = some p →
    let n := r.g.len
    let key := r.g.ent.key
    let coh : Bool := r.g.ent.coh = 0
    let bad := (s.line p).err
    -- nothing that goes before the contribution is still out, and a checkpoint reserve has room
    let turn := s.earlierOwn r = false ∧ s.backOut r = false ∧ ∀ u, s.ckUnit p = some u → s.ckRoom u = true
    -- the word of an atomic keeps its time whatever the coherence of its range
    let put (stamp : Bool) (u : State) (v be : Nat) : State := (u.homeWrite key p n v be r.lt stamp).patchPinned p v be
    let done (stamp : Bool) (u : State) (data : Nat) : State :=
      u.answer { r with data := data, tag := some (u.line p).tag, wts := if stamp then (u.line p).wts else 0, own := u.placeRead key p n }
    let u := s.mergeUpds p n
    let old := u.placeRead key p n
    let die := if s.agentDie r.who < 8 then s.agentDie r.who else if p < Config.ppaLimit then p / 2 ^ 37 else 8
    let contributed (op : Option AmoOp) (ty : Ty) (v : Nat) : State := ((s.ckCopy p).contribute key p n die op ty v).stampLine p r.lt coh
    let added (t : State) : State :=
      let u := t.patchPinned p (t.mergedRead key p n) (2 ^ n - 1)
      (u.notify p n).answer { r with wts := if coh then (u.line p).wts else 0 }
    -- a line that another cluster's open tile has pinned makes the write wait there
    (∀ k, s.pinnedBy p = some k →
        let first := (s.clu k).spill = [] ∧ (s.clu k).inbuf.length < 64
        ∃ t, exec .homeWriteApply s = .next t ∧ t.mem = s.mem
        ∧ (first → (t.clu k).inbuf = (s.clu k).inbuf ++ [r.id])
        ∧ (¬ first → (s.clu k).spill.length < spillMax → (t.clu k).spill = (s.clu k).spill ++ [r.id])
        ∧ (¬ first → spillMax ≤ (s.clu k).spill.length → t = s.sched_ (s.pcyc + 1) (lineRoute r.who r.g.va 0) r.applyEv { id := r.id }))
    ∧ (s.pinnedBy p = none →
        (∀ v be, r.want = .write v be → be ≠ 0 → bad = false → exec .homeWriteApply s = .next (done coh (put coh s v be) r.data))
        ∧ (∀ v be, r.want = .wback v be → be ≠ 0 → bad = false → exec .homeWriteApply s = .next (done coh (put coh s v be) r.data))
        -- of what a void tail has closed no byte is applied
        ∧ (∀ v, r.want = .write v 0 ∨ r.want = .wback v 0 → exec .homeWriteApply s = .next (s.answer r))
        ∧ (∀ i d op v sz, r.want = .amo i d op v sz → bad = false →
            exec .homeWriteApply s = .next (done true (put true u (amoVal op old v n) (2 ^ n - 1)) old))
        ∧ (∀ i d e v sz, r.want = .cas i d e v sz → bad = false →
            exec .homeWriteApply s = .next (done true (put true u v (if old = e % 2 ^ (8 * n) then 2 ^ n - 1 else 0)) old))
        -- an uncorrectable line fails the access, but for a write of the whole line
        ∧ (∀ v be, r.want = .write v be → be ≠ 0 → bad = true → ¬ (n = 128 ∧ p % 128 = 0 ∧ be = 2 ^ 128 - 1) →
            exec .homeWriteApply s = .next (s.answer { r with code := 5 })))
    ∧ (turn → s.pinnedBy p = none → bad = false →
        (∀ op v, r.want = .red op v → exec .reductionApply s = .next (added (contributed (some op) .i64 v)))
        ∧ (∀ ty v, r.want = .fred ty v → exec .reductionApply s = .next (added (contributed none ty v))))
    ∧ (∀ k, turn → s.pinnedBy p = some k → exec .reductionApply s = .next (s.holdPinned k r.id))
    ∧ (turn → s.pinnedBy p = none → bad = true → exec .reductionApply s = .next (s.answer { r with code := 5 }))
    -- value, count and releaser of a sync word are written as one
    ∧ (∀ v hi log k, r.want = .rel v hi log → s.pinnedBy p = some k → exec .syncWordWrite s = .next (s.holdPinned k r.id))
    ∧ (∀ v hi log, r.want = .rel v hi log → s.pinnedBy p = none → bad = false →
        let w0 := s.mergeUpds p 16
        let seq := (fld (w0.placeRead key p 16) 64 32 + 1) % 2 ^ 32
        let far := match r.who with | .peer _ _ => 2 ^ 125 | _ => 0
        let w := v.toNat + seq * 2 ^ 64 + hi % 2 ^ 29 * 2 ^ 96 + far
        let t := (w0.homeWrite key p 16 w (2 ^ 16 - 1) r.lt true).patchPinned p w (2 ^ 16 - 1)
        exec .syncWordWrite s = .next (t.answer { r with data := seq, own := w, wts := (t.line p).wts })))

/-- R3, R282: a write at a home to memory that is not encrypted changes exactly its enabled bytes: every other byte reads as
before. -/
def Obligations.HomeWriteBytes : Prop :=
  ∀ (s : State) (p n v be lt : Nat) (stamp : Bool), s.MemOk → s.upds = [] → 0 < n → p + n ≤ 2 ^ 40 → p / 128 = (p + n - 1) / 128 →
    let t := s.homeWrite 0 p n v be lt stamp
    t.host = s.host ∧ t.MemOk ∧ ∀ q, mget t.mem q =
      if p ≤ q ∧ q < p + n ∧ be / 2 ^ (q - p) % 2 = 1 then BitVec.ofNat 8 (v / 2 ^ (8 * (q - p))) else mget s.mem q

/-- R141, R276, R280, R281, R283, R307 to R312, R331, R338, R344, R370: the answers of homes as they reach who asked. R281, R409
to R411: what a refused or failed access does to its context: a migrating page rolls it back and runs it again 2,048 clocks
later, an absent page makes a record that waits for the host, and the rest are errors of the program or the data. That a refused
write-back or pin, and an access of the mark's own bundle, is asked again in the same way is the model's reading (logs 31 and 99). -/
def Obligations.AnswersOfHomes : Prop :=
  (∀ (s : State) (r : Req) (c x : Nat), s.req? s.arg.id = some r → r.who = .ctx c x → s.listening r = true →
    let k := s.ctx c x
    let e := s.endReq r.id
    let ack := ((((e.settle r).lessPending r).hearthAck r |>.noteAck c r.wts).raiseLt c x r.wts).ackTime c r.wts
    let settled := (e.settle r).lessPending r
    let runs := k.why ≠ .trapped ∧ k.why ≠ .lost ∧ k.why ≠ .done
    -- the bundle of the established mark does not issue again
    let marked := ∃ n, k.markSer = some n ∧ r.serial ≤ n
    s.arg.flag = false →
    (∀ g, r.want = .read g → exec .variableResultLand s = .next (((e.raiseLt c x r.wts).keepLine c r true).groupGot c x g r))
    ∧ (∀ b, r.want = .prefetch b → exec .variableResultLand s = .next ((e.raiseLt c x r.wts).keepLine c r (!b)))
    ∧ (∀ i d op v sz, r.want = .amo i d op v sz → ∃ t, exec .variableResultLand s = .next t
        ∧ (d ≠ 0 → (t.ctx c x).r.sreg d = sz.ext r.data) ∧ (∀ q ∈ (t.ctx c x).pend, q.1 ≠ i) ∧ .atomic i ∉ (t.ctx c x).comps
        ∧ (∀ tag, r.tag = some tag → (t.ctx c x).r.gtag = tag ∧ (t.ctx c x).r.gcnt = k.r.gcnt + 1#32))
    ∧ (∀ i d w v sz, r.want = .cas i d w v sz → ∃ t, exec .variableResultLand s = .next t
        ∧ (d ≠ 0 → (t.ctx c x).r.sreg d = sz.ext r.data) ∧ (∀ q ∈ (t.ctx c x).pend, q.1 ≠ i))
    ∧ (r.want = .sync → k.syncReq = some r.id → ∃ t, exec .variableResultLand s = .next t
        ∧ (t.ctx c x).sync = some { va := r.g.va, word := BitVec.ofNat 128 s.arg.v, wts := s.arg.n }
        ∧ t.lt c x = max (s.lt c x) s.arg.n)
    -- a write grant reaches its entry, or the release that waits for it
    ∧ (∀ i, r.want = .grant i → s.rel? i = none → exec .writeGrantReturn s = .next (e.modCore c (fun k =>
        { k with cb := k.cb.map (fun f => if f.id = i then { f with grant := .granted (r.p.getD 0) } else f) })))
    ∧ (∀ i q, r.want = .grant i → s.rel? i = some q → exec .writeGrantReturn s = .next (e.modRel i (fun q =>
        { q with phase := 5, p := r.p.getD 0 })))
    -- an acknowledgement takes its bytes off the counter and brings the tag
    ∧ (∀ v be, r.want = .write v be → exec .ackArrival s = .next (ack.tagged c x r.serial r.tag))
    ∧ (∀ op v, r.want = .red op v → ∃ t, exec .ackArrival s = .next t
        ∧ (t.ctx c x).pbytes = (k.pbytes + 2 ^ 48 - r.g.len) % 2 ^ 48)
    ∧ (r.want = .pin → exec .ackArrival s = .next (ack.pinFill c r))
    -- a refusal or failure of a read, of a write and of a poll
    ∧ (∀ g, r.want = .read g → runs → ¬ marked → exec .refusalArrival s = .next (settled.refused c x r))
    ∧ (∀ g, r.want = .read g → runs → marked → r.code = 1 → exec .refusalArrival s = .next ((s.askAgain r 2048).refused c x r))
    ∧ (r.want = .sync → runs → exec .refusalArrival s = .next (settled.refused c x r))
    ∧ (∀ v be, r.want = .write v be → runs → exec .refusalArrival s = .next (settled.refused c x r))
    -- a released write of a task that runs no more fails all the same
    ∧ (∀ v be, r.want = .write v be → ¬ runs → exec .refusalArrival s = .next (settled.lateFault c r))
    ∧ (∀ b, r.want = .prefetch b → exec .refusalArrival s = .next settled))
  ∧ (∀ (s : State) (c x : Nat) (r : Req) (g : Nat), r.want = .read g → (∀ a d, (s.ctx c x).why ≠ .saving a d) →
    let t (cls cause sub : Nat) : Trap := { cls := cls, cause := cause, sub := sub, slot := 2, addr := r.g.va + r.g.off, asid := r.g.ent.asid }
    let rcd : Rec := { cls := 1, cause := 0x16, slot := 2, asid := r.g.ent.asid, pos := r.pos, addr := r.g.va + r.g.off }
    let q := s.post (s.recOf c x rcd)
    (r.code = 1 → s.refused c x r = (s.rollback c x .migrating).sched_ (s.pcyc + 2048) 0 .migrationRerun
        { core := c, ctx := x, id := (s.ctx c x).task })
    ∧ (r.code = 2 → s.refused c x r = State.rollback { q with fq := { q.fq with waits := q.fq.waits
        ++ [(s.fq.seq.toNat, c, x, none)] } } c x (.resolve s.fq.seq.toNat false))
    ∧ (r.code = 3 → s.refused c x r = s.programError c x (t 2 0x12 1) r.pos)
    ∧ (r.code = 4 → s.refused c x r = s.programError c x (t 2 0x12 2) r.pos)
    ∧ (r.code = 5 → s.refused c x r = s.programError c x (t 3 0x1E 0) r.pos)
    ∧ (r.code = 6 → s.refused c x r = s.programError c x (t 3 0x1E 2) r.pos))

/-- R281, R303, R310, R338, R341, R350 to R352, R376, R377: results whose clock has come, reruns, acknowledgements of remote
chunks, promotions, barriers, and the passing and rebasing of logical time. What a rebase drops and holds back is the model's reading
(log 44). -/
def Obligations.ClockAndOrderEvents : Prop :=
  ∀ (s : State),
    (∀ v, s.arg.flag = true → s.vres.find? (fun v => v.id = s.arg.id) = some v → v.tl = none → ∃ t, exec .variableResultLand s = .next t
        ∧ (t.ctx v.core v.ctx).r = (s.ctx v.core v.ctx).r.write v.w ∧ (∀ u ∈ t.vres, u.id ≠ v.id)
        ∧ ∀ q ∈ (t.ctx v.core v.ctx).pend, q.1 ≠ v.id)
    ∧ (∀ v n sel d w, s.arg.flag = true → s.vres.find? (fun v => v.id = s.arg.id) = some v → v.tl = some (n, sel) → v.w = .s d w →
        ∃ t, exec .variableResultLand s = .next t ∧ (d ≠ 0 → (t.ctx v.core v.ctx).r.sreg d = (s.tl v.core n).field sel))
    ∧ (let k := s.ctx s.arg.core s.arg.ctx
       (k.why = .migrating → k.task = s.arg.id → exec .migrationRerun s = .next (s.resumeFetch s.arg.core s.arg.ctx))
       ∧ (k.why ≠ .migrating ∨ k.task ≠ s.arg.id → exec .migrationRerun s = .next s))
    ∧ (∀ m, s.arg.flag = true → s.msg? s.arg.id = some m → (s.ctx m.core m.ctx).task = m.task → ∃ t, exec .ackArrival s = .next t
        ∧ (t.ctx m.core m.ctx).pbytes = ((s.ctx m.core m.ctx).pbytes + 2 ^ 48 - m.bytes) % 2 ^ 48 ∧ ∀ n ∈ t.msgs, n.id ≠ m.id)
    -- promotions: a failed core or another epoch answers lost, a core without a matching entry answers at once
    ∧ (∀ p, s.promo? s.arg.id = some p →
        ((s.coreOn p.target = false ∨ (s.core p.target).epoch % 2 ^ 16 ≠ p.ep) → exec .promotionRequest s = .next (s.promoReply p 2))
        ∧ (s.coreOn p.target = true → (s.core p.target).epoch % 2 ^ 16 = p.ep → (s.core p.target).plog = [] →
            ∃ u, exec .promotionRequest s = .next (u.promoReply p 1) ∧ u = s.modCore p.target id)
        ∧ (∀ v, s.vres.find? (fun v => v.core = p.core && v.ctx = p.ctx && v.id = p.id + 1) = some v →
            (s.ctx p.core p.ctx).task = p.task → ∃ t, exec .promotionReply s = .next t ∧ (∀ q ∈ t.promos, q.id ≠ p.id)
              ∧ (∀ d w, v.w = .s d w → ∀ u ∈ t.vres, u.id = v.id → u.w = .s d (BitVec.ofNat 64 p.status))
              ∧ .promo p.id ∉ (t.ctx p.core p.ctx).comps))
    ∧ exec .barrierComplete s = .next (s.modBar s.arg.id (fun b => { b with done := b.done + 1#32, here := 0, ltDone := b.lt, lt := 0 }))
    -- logical time passes for every core alike, and a rebase takes every time back to 0
    ∧ (∃ t, exec .ltTick s = .next t ∧ t = { s with ltBase := s.ltBase + 1 } ∧ ∀ c x, t.lt c x = s.lt c x + 1)
    ∧ (∃ t, exec .timestampRebase s = .next t ∧ (∀ c x, t.lt c x = 0) ∧ t.hearth = [] ∧ (∀ p, (t.line p).wts = 0 ∧ (t.line p).rts = 0
        ∧ (t.line p).tag = (s.line p).tag) ∧ t.mem = s.mem ∧ t.host = s.host
        ∧ (∀ c, ∀ l ∈ (t.core c).l1, l.lease = 0 ∧ (l.ent.coh ≠ 0 ∨ l.wpend ≠ 0 ∨ l.pins ≠ 0))
        ∧ ∀ c, (t.core c).sp.data = (s.core c).sp.data)

/-- R325 to R333: a command takes its number as it is accepted, starts when its path is free and its time has come, takes up its
pieces in order, verifies its fold, and completes. The model's readings and choices: start and route (log 34), tags at completion
(log 35), repeated contributions (log 36), the fault of a copy (log 37), and the fill pattern where word 1 is a signature (log 108). -/
def Obligations.CopyEvents : Prop :=
  ∀ (s : State),
    (∀ r, s.copy? s.arg.id = some r →
      let tl := r.cmd.tl
      let c := r.cmd.core
      let ones := BitVec.allOnes 64
      (∃ t, exec .copyAccept s = .next t ∧ (t.tl c tl).rel = (s.tl c tl).rel + 1#64 ∧ (t.tl c tl).val = (s.tl c tl).val
        ∧ (∀ q ∈ t.copies, q.id = r.id → q.num = ((s.tl c tl).rel + 1#64).toNat ∧ q.phase = .queued)
        ∧ t.agenda = .ev .copyStart { n := r.clus, m := r.cmd.eng } :: s.agenda)
      -- one piece at a time, from the release on
      ∧ (r.phase = .rel → s.copyReleased r = true → exec .copyPieceRetry s = .next (s.copyRun r))
      ∧ (r.phase = .rel → s.copyReleased r = false → exec .copyPieceRetry s = .next s)
      ∧ ((r.phase = .retry ∨ r.phase = .write) → exec .copyPieceRetry s = .next (s.copyTake r))
      -- a source or destination that no entry of the table holds ends the command
      ∧ (∀ k n t, r.pieces[r.piece]? = some (k, n) → r.cmd.isIdx = false → r.cmd.sk = 0 →
          (s.launchOn r.cmd.core r.cmd.launch).lrtFind (r.srcAt k) (n * r.cmd.srcUnit) (·.rd) = .error t →
          s.copyTake r = s.copyFault r t.cause t.addr t.asid)
      -- verification: a fold that differs sends the command again, three times at most
      ∧ (r.phase ≠ .tags → r.cmd.isSigv = true → r.fold ≠ r.cmd.aux1 → r.tries < 3 → exec .copyVerify s = .next
          ((s.modCopy r.id (fun r => { r with tries := r.tries + 1 })).copyRun { r with tries := r.tries + 1 }))
      ∧ (r.phase ≠ .tags → r.cmd.isSigv = true → r.fold ≠ r.cmd.aux1 → 3 ≤ r.tries → exec .copyVerify s = .next (s.copyFault r 0 r.cmd.dst 0))
      ∧ (r.phase ≠ .tags → (r.cmd.isSigv = false ∨ r.fold = r.cmd.aux1) → r.cmd.isTagf = false →
          exec .copyVerify s = .next (s.now_ .copyComplete { id := r.id }))
      ∧ (r.phase = .tags → s.arg.flag = true → exec .copyVerify s = .next (r.cmd.dests.foldl (fun u d => u.claim d (s.tagWrites r)) s))
      -- completion: the issuing timeline's number completes with the fold
      ∧ (s.arg.flag = true → exec .copyComplete s = .next (s.endCopy r r.fold r.wts) ∧ (∀ q ∈ (s.endCopy r r.fold r.wts).copies, q.id ≠ r.id)
          ∧ (s.endCopy r r.fold r.wts).tl c tl = (s.tl c tl).complete r.num r.fold r.wts)
      ∧ (s.arg.flag = false → ∃ t, exec .copyComplete s = .next t ∧ ∀ q ∈ t.copies, q.id = r.id → q.phase = .back)
      -- a fault ends the command with a signature of ones, its graph is cancelled, and its timeline goes on
      ∧ (∀ sub addr asid, ((s.copyFault r sub addr asid).tl c tl) = (s.tl c tl).complete r.num ones 0))
    -- starting: nothing before the issue time or while the path is busy; a cancelled command completes at once
    ∧ (∀ r, let k := s.arg.n
       let e := s.arg.m
       let free := s.pcyc + r.cmd.pathClocks
       let b := (s.modClu k (fun u => if e = 1 then { u with path1 := free } else { u with path0 := free })).modCopy r.id (fun _ =>
         { r with phase := .rel, startAt := s.pcyc })
       s.copyHead k e = some r →
       ((s.pcyc < r.cmd.time ∨ s.pcyc < s.pathFree k e) → exec .copyStart s = .next s)
       ∧ (r.cmd.time ≤ s.pcyc → s.pathFree k e ≤ s.pcyc → s.dist.cancel.contains r.cmd.gin = true →
           exec .copyStart s = .next ((s.endCopy r (BitVec.allOnes 64) 0).now_ .copyStart { n := k, m := e }))
       ∧ (r.cmd.time ≤ s.pcyc → s.pathFree k e ≤ s.pcyc → s.dist.cancel.contains r.cmd.gin = false → ∃ t, exec .copyStart s = .next t
           ∧ (b.copyReleased { r with phase := .rel, startAt := s.pcyc } = true → t = b.copyRun { r with phase := .rel, startAt := s.pcyc })
           ∧ (b.copyReleased { r with phase := .rel, startAt := s.pcyc } = false → t = b)))

/-- R380, R397, R398: a message asks for room, is sent once room is given, is held whole at its queue, and completes its
timeline's number when it is accepted there. R393 to R396: packets as they are received, wavelengths that leave the active
set and return, links that go down and return with their replay buffers, and route-table writes. The flits of a packet (log 48), the
closing of a queue (log 71) and the flit with which a wavelength change applies (log 91) are the model's. -/
def Obligations.MessageAndLinkEvents : Prop :=
  (∀ (s : State),
    (∀ r, s.send? s.arg.id = some r →
      (s.arg.flag = false → s.arg.n = 0 → r.phase = 0 → s.sendReleased r = true → exec .sendDrain s = .next (s.sendStart r))
      ∧ (s.arg.flag = false → s.arg.n = 0 → r.phase = 0 → s.sendReleased r = false → exec .sendDrain s = .next s)
      ∧ (s.arg.flag = false → s.arg.n = 0 → r.phase = 1 → r.left = 0 → s.reachable r.chip = false → exec .sendDrain s = .next (s.sendFault r))
      ∧ (s.arg.flag = false → s.arg.n = 0 → r.phase = 1 → r.left = 0 → s.reachable r.chip = true → exec .sendDrain s = .next
          ((s.modSend r.id (fun q => { q with phase := 2 })).toPort (.room s.mg.chip.toNat r.chip r.id false r.queue (units r.len))))
      ∧ (s.arg.flag = true → s.arg.n = 0 → r.phase = 2 → s.arg.flag2 = true → exec .sendDrain s = .next
          ((s.modSend r.id (fun q => { q with phase := 3 })).toPort (.msg s.mg.chip.toNat r.chip r.id r.queue (s.launch r.launch).gin
            (s.lt r.core r.ctx) ((List.range r.len).map (fun i => mget r.got (r.addr + i))))))
      ∧ (s.arg.flag = true → s.arg.n = 0 → r.phase = 2 → s.arg.flag2 = false → exec .sendDrain s = .next (s.sendFault r))
      ∧ (s.arg.n = 1 → r.phase = 3 → exec .sendDrain s = .next (s.endSend r)
          ∧ (s.endSend r).tl r.core r.tl = (s.tl r.core r.tl).complete r.num (BitVec.allOnes 64) 0))
    -- room is given in the order it was asked for, while the queue's 256 units allow it
    ∧ (∀ chip id u rest, (s.lrq s.arg.n).room = (chip, id, u) :: rest →
        ((s.lrq s.arg.n).used + u ≤ 256 → ∃ t, exec .lrqRoomGrant s = .next t ∧ (t.lrq s.arg.n).used = (s.lrq s.arg.n).used + u
          ∧ (t.lrq s.arg.n).room = rest)
        ∧ (256 < (s.lrq s.arg.n).used + u → (s.lrq s.arg.n).used ≤ 256 → exec .lrqRoomGrant s = .next s))
    -- a message enters an open queue whole, and is turned away by a closed one
    ∧ (∀ src dst id q gin lt bytes, s.arg.pkt = some (.msg src dst id q gin lt bytes) →
        ((s.lrq s.arg.n).en = true → ∃ t, exec .messageAccept s = .next t
          ∧ (t.lrq s.arg.n).msgs = (s.lrq s.arg.n).msgs ++ [{ src := src, gin := gin, lt := lt, bytes := bytes }]
          ∧ (t.lrq s.arg.n).used = (s.lrq s.arg.n).used)
        ∧ ((s.lrq s.arg.n).en = false → ∃ t, exec .messageAccept s = .next t ∧ (t.lrq s.arg.n).msgs = (s.lrq s.arg.n).msgs
          ∧ (t.lrq s.arg.n).used = (s.lrq s.arg.n).used - units bytes.length)))
  ∧ (∀ (s : State),
    let n := s.arg.n
    let m := s.arg.m
    let rx := s.arg.flag
    let b8 : BitVec 8 := BitVec.ofNat 8 (2 ^ m)
    let b16 : BitVec 16 := BitVec.ofNat 16 (2 ^ (if rx then m + 8 else m))
    let l := s.link n
    -- the set last agreed on of the direction in question
    let last (k : Link) : BitVec 8 := if rx then k.rxNew.getD k.rx else k.txNew.getD k.tx
    -- a packet that comes in on a link counts there
    let came (p : Packet) : State := if n < 48 then (s.modLink n (fun k => k.take p)).linkEdge n else s
    (∀ p, s.arg.flag = true → s.arg.pkt = some p → pktChip p ≠ s.mg.chip.toNat → exec .packetReceive s = .next ((came p).toPort p))
    ∧ (∀ src dst id q gin lt bytes, s.arg.flag = true → s.arg.pkt = some (.msg src dst id q gin lt bytes) → dst = s.mg.chip.toNat →
        exec .packetReceive s = .next ((came (.msg src dst id q gin lt bytes)).now_ .messageAccept
          { n := q, pkt := some (.msg src dst id q gin lt bytes) }))
    ∧ (∀ src dst id va asid lt op, s.arg.flag = true → s.arg.pkt = some (.peerReq src dst id va asid lt op) → dst = s.mg.chip.toNat →
        exec .packetReceive s = .next ((came (.peerReq src dst id va asid lt op)).peerAsk src id va asid lt op))
    ∧ (∀ dst gin, s.arg.flag = true → s.arg.pkt = some (.cancel dst gin) → dst = s.mg.chip.toNat →
        exec .packetReceive s = .next ((came (.cancel dst gin)).now_ .cancelTokenArrival { n := gin }))
    -- a packet whose CRC fails has no other effect here; one of ours that failed at the far end is sent again, with every later one
    ∧ (∀ p, s.arg.flag = false → s.arg.flag2 = false → s.arg.pkt = some p → exec .packetReceive s = .next (came p))
    ∧ (s.arg.flag = false → s.arg.flag2 = true → s.arg.pkt = none → exec .packetReceive s = .next (s.resend n)
        ∧ (l.up = true → l.txNew = none → (s.resend n).fab.out = s.fab.out ++ l.replay.map (fun p => (n, p))
          ∧ ((s.resend n).link n).replay = l.replay ∧ ((s.resend n).link n).rpl = min (l.rpl + l.replay.length) (2 ^ 31 - 1)))
    ∧ (s.arg.flag = true → s.arg.pkt = none → ∃ t, exec .packetReceive s = .next t ∧ (t.link n).replay = l.replay.drop 1)
    -- an agreed change of the active set applies with the first flit whose number is a multiple of 8
    ∧ (∀ p x, l.up = true → l.txNew = some x → (l.emit p).flits = l.flits + pktFlits p
        ∧ ((l.flits + 7) / 8 * 8 < l.flits + pktFlits p → (l.emit p).tx = x ∧ (l.emit p).txNew = none)
        ∧ (l.flits + pktFlits p ≤ (l.flits + 7) / 8 * 8 → (l.emit p).tx = l.tx ∧ (l.emit p).txNew = some x))
    -- wavelengths: retraining an active one takes 49,152 clocks
    ∧ (last l &&& b8 ≠ 0#8 → ∃ t, exec .wavelengthRetrain s = .next t ∧ (t.link n).retr = l.retr ||| b16
        ∧ last (t.link n) = last l &&& ~~~b8
        ∧ ∃ e ∈ t.sched, e.ev = .wavelengthRetrainEnd ∧ e.due = s.pcyc + 49152 ∧ e.arg.n = n ∧ e.arg.m = m ∧ e.arg.flag = rx)
    ∧ (last l &&& b8 = 0#8 → exec .wavelengthRetrain s = .next s)
    ∧ (l.retr &&& b16 ≠ 0#16 → s.arg.flag2 = false → ∃ t, exec .wavelengthRetrainEnd s = .next t ∧ (t.link n).tx = l.tx
        ∧ (t.link n).rx = l.rx ∧ (t.link n).retr = l.retr &&& ~~~b16)
    ∧ (l.retr &&& b16 ≠ 0#16 → s.arg.flag2 = true → ∃ t, exec .wavelengthRetrainEnd s = .next t ∧ last (t.link n) = last l ||| b8
        ∧ (t.link n).retr = l.retr &&& ~~~b16)
    ∧ (l.retr &&& b16 = 0#16 → exec .wavelengthRetrainEnd s = .next s)
    -- parking ends a retraining; a wavelength that retrains is not parked, and is not taken up
    ∧ (s.arg.flag2 = true → ∃ t, exec .wavelengthPark s = .next t ∧ last (t.link n) = last l &&& ~~~b8
        ∧ (t.link n).retr = l.retr &&& ~~~b16
        ∧ ∀ e ∈ t.sched, ¬(e.ev = .wavelengthRetrainEnd ∧ e.arg.n = n ∧ e.arg.m = m ∧ e.arg.flag = rx))
    ∧ (s.arg.flag2 = false → l.retr &&& b16 = 0#16 → ∃ t, exec .wavelengthPark s = .next t ∧ last (t.link n) = last l ||| b8)
    ∧ (s.arg.flag2 = false → l.retr &&& b16 ≠ 0#16 → exec .wavelengthPark s = .next s)
    -- links
    ∧ (∃ t, exec .linkDown s = .next t ∧ t.link n = { l with down := l.down || l.tx = 0#8 || l.rx = 0#8 } ∧ ∀ k, k ≠ n → t.link k = s.link k)
    ∧ (l.tx ≠ 0#8 → l.rx ≠ 0#8 → l.txNew = none → ∃ t, exec .linkReturn s = .next t ∧ (t.link n).down = false
        ∧ t.fab.out = s.fab.out ++ l.replay.map (fun p => (n, p))
        ∧ (t.link n).rpl = min (l.rpl + l.replay.length) (2 ^ 31 - 1))
    -- the route table: reserved bits read 0, and what waits for the entry goes to the port as it takes effect
    ∧ (n < 262144 → ∃ t, exec .routeTableWrite s = .next t ∧ tget t.fab.routeNew n 0#32 = BitVec.ofNat 32 (s.arg.v % 2 ^ 14)
        ∧ t.fab.route = s.fab.route)
    ∧ (262144 ≤ n → exec .routeTableWrite s = .next s)
    ∧ (∀ e, s.fab.routeNew.find? (fun e => e.1 = n) = some (n, e) → ∃ t, exec .routeEntryEffect s = .next t ∧ t.route n = e.toNat
        ∧ t.fab.port = s.fab.port ++ s.fab.held.filter (fun p => pktChip p = n)
        ∧ t.fab.held = s.fab.held.filter (fun p => pktChip p != n)))

/-- R382, R383, R399 to R404: tables are loaded after their checks, a COLL is numbered, released and started, and its steps are
taken, performed and counted. R404: of a cancelled graph no further step starts. What becomes of steps under way and of the fault of one
step, what a table's image is checked for, and the fault of an entry that names no memory, are the model's readings (logs 41 and 72). -/
def Obligations.CollectiveEvents : Prop :=
  ∀ (s : State),
    (∀ w, s.wait? s.arg.id = some w → s.waitFirst w = true →
      let gin := (s.launch w.launch).gin
      let es := (List.range w.steps).map (fun i => ofBytes ((List.range 64).map (fun j => mget w.got (w.va + 64 * i + j))))
      let free := s.coll.insts.any (fun i => i.tab = w.tab) = false
      let held := s.coll.insts.length + (s.coll.waits.filter (fun v => v.num != 0)).length
      (w.coll = false → free → w.busy = false → (w.steps = 0 ∨ 256 < w.steps) → exec .cstabLoad s = .next (s.waitFault w 2 0x14 0 w.va 0))
      ∧ (∀ t, w.coll = false → free → w.busy = false → 1 ≤ w.steps → w.steps ≤ 256 →
          (s.launchOn w.core w.launch).lrtFind w.va (64 * w.steps) (·.rd) = .error t →
          exec .cstabLoad s = .next (s.waitFault w 2 0x14 t.cause t.addr t.asid))
      ∧ (w.coll = false → free → w.busy = true → w.left = 0 → (es.zipIdx.all (fun p => stepOk p.1 p.2)) = true → ∃ t, exec .cstabLoad s = .next t
          ∧ tget t.coll.tabs w.tab (0, []) = (gin, es.map parseStep) ∧ ∀ v ∈ t.coll.waits, v.id ≠ w.id)
      ∧ (w.coll = false → free → w.busy = true → w.left = 0 → (es.zipIdx.all (fun p => stepOk p.1 p.2)) = false →
          exec .cstabLoad s = .next (s.waitFault w 2 0x14 0 w.va 0))
      -- a COLL waits while the command queue holds 64 of them; then it takes its number, and its table must be one its own graph
      -- loaded
      ∧ (w.coll = false → exec .collAccept s = .next s) ∧ (w.coll = true → exec .cstabLoad s = .next s)
      ∧ (w.coll = true → w.num = 0 → 64 ≤ held → exec .collAccept s = .next s)
      ∧ (w.coll = true → w.num = 0 → held < 64 → ∃ t, exec .collAccept s = .next t
          ∧ (t.tl w.core w.tl).rel = (s.tl w.core w.tl).rel + 1#64)
      ∧ (w.coll = true → w.num ≠ 0 → s.performedOf w.core w.ctx w.task w.sn w.sc = false → exec .collAccept s = .next s)
      ∧ (w.coll = true → w.num ≠ 0 → s.performedOf w.core w.ctx w.task w.sn w.sc = true → ∃ t i, exec .collAccept s = .next t
          ∧ t.coll.insts = s.coll.insts ++ [i] ∧ i.tab = w.tab ∧ i.gin = gin ∧ i.arg = w.va ∧ i.tl = w.tl ∧ i.num = w.num
          ∧ i.started = [] ∧ i.done = [] ∧ ∀ v ∈ t.coll.waits, v.id ≠ w.id))
    -- steps
    ∧ (∀ i c, s.inst? s.arg.id = some i → s.arg.flag = false → (s.stepsOf i)[s.arg.n]? = some c →
        let off := i.dead = true ∨ s.dist.cancel.contains i.gin = true
        (s.stepReady i s.arg.n = false → exec .collStepStart s = .next s)
        ∧ (s.stepReady i s.arg.n = true → ¬ off → exec .collStepStart s = .next (s.beginStep i s.arg.n c))
        -- of a cancelled graph, or of an instance that has met a fault, it is dropped as it would start, with the message it would take
        ∧ (s.stepReady i s.arg.n = true → off → ∃ t : State, exec .collStepStart s = .next t
            ∧ t = (if s.fromInbox c = true then s.takeMessage i c else s).stepGone i s.arg.n
            ∧ (∀ q ∈ t.coll.runs, ¬(q.inst = i.id ∧ q.step = s.arg.n)) ∧ ∀ j ∈ t.coll.insts, j.id = i.id → j.done = i.done ++ [s.arg.n]))
    ∧ (∀ r i c, s.run? s.arg.id = some r → s.inst? r.inst = some i → (s.stepsOf i)[r.step]? = some c →
        let now := s.arg.flag = false
        (s.arg.flag = true → s.arg.n = 0 → s.arg.flag2 = false → exec .collStepStart s = .next (s.goOn i c r))
        ∧ (now → c.lv = false → (s.stepsOf i).length ≤ i.done.length + 1 → ∃ t, exec .collStepComplete s = .next t
            ∧ ∀ j ∈ t.coll.insts, j.id ≠ i.id)
        ∧ (now → c.lv = false → i.done.length + 1 < (s.stepsOf i).length → ∃ t, exec .collStepComplete s = .next t
            ∧ (∀ q ∈ t.coll.runs, ¬(q.inst = i.id ∧ q.step = r.step)) ∧ ∀ j ∈ t.coll.insts, j.id = i.id → j.done = i.done ++ [r.step])
        ∧ (now → c.lv = true → r.phase = .done → ∃ t, exec .collStepComplete s = .next t ∧ ∀ q ∈ t.coll.runs, q.id = r.id → q.phase = .head)
        ∧ (now → c.lv = true → r.phase = .queue → (s.lqueue c.lq).en = true → (s.lqueue c.lq).dev = true → (s.lqueue c.lq).free = true →
            s.lqSlot c.lq < 2 ^ 40 → s.ckStuck (s.lqSlot c.lq) 256 = false → ∃ t, exec .collStepComplete s = .next t
              ∧ (t.lqueue c.lq).tail = (s.lqueue c.lq).tail + 1#32)
        ∧ (now → c.lv = true → r.phase = .queue → (s.lqueue c.lq).en = true → (s.lqueue c.lq).dev = true → (s.lqueue c.lq).free = true →
            2 ^ 40 ≤ s.lqSlot c.lq → exec .collStepComplete s = .fault (.noMemory (s.lqSlot c.lq))))
    -- a timeline learns that a number of it is complete
    ∧ (s.arg.flag = true → ∃ t, exec .collStepComplete s = .next t
        ∧ t.tl s.arg.core s.arg.n = (s.tl s.arg.core s.arg.n).complete s.arg.m (BitVec.allOnes 64) 0)
    -- a message enters the inbox and is acknowledged
    ∧ (∃ t, exec .collMessageArrival s = .next t ∧ t.coll.inbox = s.coll.inbox ++ [(s.arg.n, s.arg.m, s.arg.id, s.arg.bytes)]
        ∧ t.coll.used = s.coll.used)
    -- a cancel token: the set takes it unless it holds it or is full, and every task of the graph is to trap at its next boundary
    ∧ (let gin := s.arg.n % 2 ^ 32
       (gin ∈ s.dist.cancel → exec .cancelTokenArrival s = .next s)
       ∧ (gin ∉ s.dist.cancel → gin ∉ s.dist.cancelWait → s.dist.cancel.length < Config.cancelMax → ∃ t, exec .cancelTokenArrival s = .next t
           ∧ t.dist.cancel = s.dist.cancel ++ [gin]
           ∧ (∀ c x, (s.ctx c x).status ≠ .free → (∃ l ∈ s.dist.launches, l.id = (s.ctx c x).launch ∧ l.gin = gin) →
               (t.ctx c x).cancel = true)
           ∧ ∀ l ∈ t.dist.launches, l.gin = gin → l.cancelled = true)
       ∧ (gin ∉ s.dist.cancel → gin ∉ s.dist.cancelWait → Config.cancelMax ≤ s.dist.cancel.length → ∃ t, exec .cancelTokenArrival s = .next t
           ∧ t.dist.cancel = s.dist.cancel ∧ t.dist.cancelWait = s.dist.cancelWait ++ [gin]))

/-- R69 to R80, R384, R429, R430: entries written by tasks, the stamp check of the head entry and its re-reads, the pop of an
entry with the checks of R43, and completion records. The choices about queue registers and the fault of an entry that names no
memory are the model's (logs 68 and 72). -/
def Obligations.LaunchQueueEvents : Prop :=
  ∀ (s : State),
    let q := s.arg.n
    let u := s.lqueue q
    let v := mread s.mem (s.headSlot q) 256
    -- the slot names memory and holds the stamp that is due
    let good := s.headSlot q + 256 ≤ 2 ^ 40 ∧ fld v 1920 32 = (u.head + 1#32).toNat
    let b := s.setFwait
    (∀ e, s.dist.lentries.find? (fun e => e.id = s.arg.id) = some e → e.parts.length = 4 →
      s.performedOf e.core e.ctx e.task e.sn .pkg = true →
      let w := s.lqueue e.q
      (w.en = true → w.dev = true → s.lqSlot e.q < 2 ^ 40 → s.ckStuck (s.lqSlot e.q) 256 = false → ∃ t, exec .deviceLaunchWrite s = .next t
        ∧ (t.lqueue e.q).tail = w.tail + 1#32 ∧ (t.lqueue e.q).reserved = w.reserved - 1
        ∧ (∀ f ∈ t.dist.lentries, f.id ≠ e.id)
        ∧ t.mem = mwrite s.mem (s.lqSlot e.q) 256 (let x := pack 512 (fun i => (e.parts.getD i 0#512).toNat) 4 0
            x - fld x 1920 32 * 2 ^ 1920 + (w.tail + 1#32).toNat * 2 ^ 1920))
      ∧ (w.en = true → w.dev = true → s.lqSlot e.q < 2 ^ 40 → s.ckStuck (s.lqSlot e.q) 256 = true → exec .deviceLaunchWrite s = .next s)
      ∧ (w.en = true → w.dev = true → 2 ^ 40 ≤ s.lqSlot e.q → exec .deviceLaunchWrite s = .fault (.noMemory (s.lqSlot e.q)))
      ∧ ((w.en = false ∨ w.dev = false) → ∃ t, exec .deviceLaunchWrite s = .next t ∧ t.mem = s.mem ∧ (t.lqueue e.q).tail = w.tail
        ∧ (t.lqueue e.q).reserved = w.reserved - 1))
    -- the head entry is taken when its stamp is head + 1, else read again 1,200 clocks later, 16 times at most
    ∧ (s.fetchDue q = true →
        (good → ∃ t, exec .queueHeadFetch s = .next t ∧ (t.lqueue q).ready = some (BitVec.ofNat 2048 v))
        ∧ (¬good → ∃ t, exec .queueHeadFetch s = .next t ∧ (t.lqueue q).busy = true
            ∧ (t.lqueue q).ready = u.ready ∧ ∃ e ∈ t.sched, e.ev = .queueHeadReread ∧ e.due = s.pcyc + 1200 ∧ e.arg.n = q))
    ∧ (u.en = true → u.busy = true →
        (good → ∃ t, exec .queueHeadReread s = .next t ∧ (t.lqueue q).busy = false
            ∧ (t.lqueue q).ready = some (BitVec.ofNat 2048 v))
        ∧ (¬good → u.rereads < 15 → ∃ t, exec .queueHeadReread s = .next t ∧ (t.lqueue q).busy = true
            ∧ (t.lqueue q).rereads = u.rereads + 1)
        ∧ (¬good → 15 ≤ u.rereads → ∃ t, exec .queueHeadReread s = .next t ∧ (t.lqueue q).stale = true
            ∧ (t.lqueue q).busy = false ∧ t.dist.irqs = s.dist.irqs ++ [32]))
    -- service
    ∧ (b.popStalled = true → exec .launchQueueService s = .next b)
    ∧ (∀ p n w, b.popStalled = false → b.serveNext = some (p, n) → (b.lqueue n).ready = some w →
        exec .launchQueueService s = .next (b.pop p n w) ∧ ((b.pop p n w).lqueue n).head = (b.lqueue n).head + 1#32)
    -- records
    ∧ (∀ l vec w rest, u.crwait = (l, vec, w) :: rest → u.cren = true → (u.crtail - u.crhead).toNat < 2 ^ u.crlg → ∃ t,
        exec .completionRecordWrite s = .next t ∧ (t.lqueue q).crtail = u.crtail + 1#32 ∧ (t.lqueue q).crwait = rest ∧ t.mem = s.mem
        ∧ t.host = mwrite s.host ((u.crbase + 32 * (u.crtail.toNat % 2 ^ u.crlg)) % 2 ^ 64) 32 w.toNat
        ∧ t.dist.irqs = s.dist.irqs ++ (if vec < 32 then [vec] else []))
    ∧ (∀ l vec w rest, u.crwait = (l, vec, w) :: rest → u.cren = true → 2 ^ u.crlg ≤ (u.crtail - u.crhead).toNat →
        exec .completionRecordWrite s = .next s)
    ∧ (∀ l vec w rest, u.crwait = (l, vec, w) :: rest → u.cren = false → ∃ t, exec .completionRecordWrite s = .next t
        ∧ (t.lqueue q).crwait = rest ∧ t.host = s.host ∧ t.dist.irqs = s.dist.irqs)

/-- R42, R81 to R88, R103, R131, R386: portions handed to placers, tasks bound to contexts, a launch's setup on a core, and the
start of a task with the registers of R42. R426 to R428: a task that has ended counts for its launch once its entries are
released, and its context is free once the last of them has drained. What a follower waits for (log 51), the pace of handing out and
of starting (log 52), that contexts reserved for other groups rank no instance (log 93), the set-up of a core (log 53), and what a list past the end of memory reads as (log 109), are the model's. -/
def Obligations.PlacingAndTaskEnds : Prop :=
  (∀ (s : State),
    let c := s.arg.core
    let x := s.arg.ctx
    let d := s.arg.n
    (∀ l, s.arg.flag = false → s.dist.launches.find? (fun l => s.followStuck l) = some l → ∃ u : State, exec .portionHandout s = .next (u.finishLaunch l 1 6)
        ∧ (∀ p ∈ u.dist.waiting, p.launch ≠ l.id) ∧ (∀ p ∈ u.dist.handing, p.launch ≠ l.id) ∧ ∀ e, ∀ p ∈ (u.die e).pending, p.launch ≠ l.id)
    -- one portion that waits sets out for its die, and arrives there
    ∧ (∀ p, let b := s.cutPortions
        s.arg.flag = false → s.dist.launches.find? (fun l => s.followStuck l) = none → b.dist.waiting = [p] →
        (b.die p.die).pending.length + (b.dist.handing.filter (fun q => q.die = p.die)).length < Config.pendingPortions →
        (b.die p.die).dfail = false → ∃ t, exec .portionHandout s = .next t ∧ t.dist.waiting = [] ∧ t.dist.handing = b.dist.handing ++ [p]
          ∧ (t.die p.die).pending = (b.die p.die).pending
          ∧ ∃ e ∈ t.sched, e.ev = .portionHandout ∧ e.arg.n = p.launch ∧ e.arg.m = p.first ∧ e.arg.flag = true)
    ∧ (∀ p, s.arg.flag = true → s.dist.handing.find? (fun p => p.launch = s.arg.n && p.first = s.arg.m) = some p → ∃ t,
        exec .portionHandout s = .next t ∧ t.dist.handing = s.dist.handing.erase p ∧ (t.die p.die).pending = (s.die p.die).pending ++ [p])
    -- the next task of the first portion
    ∧ (∀ p, s.arg.flag = false → (s.purgePending d).firstPortion d = some p →
        let u := s.purgePending d
        let l := u.launch p.launch
        let wid := l.widAt (p.first + p.next)
        let others := (u.die d).pending.filter (fun q => !(q.launch = p.launch && q.first = p.first))
        let upper := u.holdUpper l wid d (u.dies.flatMap (fun q => q.2.pending)) (State.upperGangs l)
        let found (w : State) := w.fixLevels l wid others [6, 5, 4, 3, 2, 1, 0] (3, d) p
        let never (w : State) : State := ((w.post { cls := 2, cause := 0x15, die := d, gin := l.gin }).cancelGin d l.gin).setPortion d p none
        (upper = .error false → exec .placeTask s = .next u)
        ∧ (upper = .error true → exec .placeTask s = .next (never u))
        ∧ (∀ w, upper = .ok w →
          (found w = .wait → exec .placeTask s = .next w)
          ∧ (found w = .never → exec .placeTask s = .next (never w))
          ∧ (∀ place po, found w = .at place po → exec .placeTask s = .next
              (((w.setPortion d p (if po.next < po.count then some po else none)).bindTask l place wid).takeUpper l wid))))
    ∧ (s.arg.flag = true → exec .placeTask s = .next (s.setupStep c (s.launch s.arg.id)))
    -- preloads: the chunks of the entries whose layout holds, in banks that the launch names, are claimed in the scratchpad with the
    -- bytes of the image, once those banks are the launch's; a launch with no such chunk is set up
    ∧ (∀ t, let l := s.launch s.arg.id
        (s.core c).setup.find? (fun p => p.1 = l.id) = some (l.id, 2, t) →
        let good := (s.preloads l).filter (fun e => e.2.2.2.2)
        let chunks : List (Nat × Nat) := good.flatMap (fun e => ((List.range (e.2.2.1 / 64)).map (fun i =>
          (e.2.1 + 64 * i, l.image + e.2.2.2.1 + 64 * i))).filter (fun a => bit l.bank (bankOf a.1)))
        let mine := ∀ a ∈ chunks, tget (s.core c).sp.owner (bankOf a.1) 0 = l.id
        (¬ mine → exec .preloadWrite s = .next s)
        ∧ (mine → (∀ a ∈ chunks, a.2 + 64 ≤ 2 ^ 40) → ∃ u, exec .preloadWrite s = .next u
          ∧ (chunks = [] → l.id ∈ (u.core c).preDone)
          ∧ (u.core c).sp = { (s.core c).sp with claims := (u.core c).sp.claims }
          ∧ (u.core c).sp.claims.map (fun w => (w.addr, w.data, w.be, w.tset, w.read, w.src))
            = (s.core c).sp.claims.map (fun w => (w.addr, w.data, w.be, w.tset, w.read, w.src))
              ++ chunks.map (fun a => (a.1, BitVec.ofNat 512 (mread s.mem a.2 64), BitVec.allOnes 64, 0#8, false, .preload l.id)))
        ∧ (∀ a, mine → chunks.find? (fun a => 2 ^ 40 < a.2 + 64) = some a → exec .preloadWrite s = .fault (.noMemory a.2)))
    -- a task starts
    ∧ (∀ y id wid, (s.core c).starts.find? (fun p => p.1 = x) = some (y, id, wid) →
        let l := s.launch id
        (l.cancelled = false → ∃ t, exec .taskStart s = .next t ∧ (t.ctx c x).status = .ready ∧ (t.ctx c x).wid = wid
          ∧ (t.ctx c x).launch = id ∧ (t.ctx c x).mark = some (t.ctx c x).r ∧ (t.ctx c x).r.sreg 1 = BitVec.ofNat 64 l.arg
          ∧ (t.ctx c x).r.sreg 2 = wid ∧ (∀ n : SReg, 3 ≤ n.val → (t.ctx c x).r.sreg n = 0#64)
          ∧ (∀ n : VReg, (t.ctx c x).r.vreg n = 0#16384) ∧ (∀ n : KReg, n ≠ 0 → (t.ctx c x).r.kreg n = 0#512)
          ∧ (t.ctx c x).r.pc = l.entry ∧ (t.ctx c x).r.ls = [] ∧ (t.ctx c x).r.ilk = l.ilk ∧ (t.ctx c x).r.flight = []
          ∧ (t.core c).starts = (s.core c).starts.filter (fun p => p.1 != x))
        ∧ (l.cancelled = true → ∃ t, exec .taskStart s = .next t ∧ t.ctx c x = s.ctx c x)))
  ∧ (∀ (s : State),
    let c := s.arg.core
    let x := s.arg.ctx
    let k := s.ctx c x
    (s.endDue c x = false → exec .taskEnd s = .next s)
    ∧ (s.endDue c x = true → k.why = .ended → ∃ t, exec .taskEnd s = .next t ∧ (t.ctx c x).why = .done
        ∧ t.dist = (s.modLaunch k.launch (fun l => { l with ended := l.ended + 1 })).dist)
    ∧ (s.endDue c x = true → k.why ≠ .ended → ∃ t, exec .taskEnd s = .next t ∧ (t.ctx c x).status = .free ∧ t.vres.all (fun v =>
        !(v.core = c && v.ctx = x)) = true))

/-- R95, R97, R412, R425, R427, R428, R433: power windows and grants, the permit audit, the completion of a launch, and the
removal of fault records. The strict comparison and the whole steps of grants (log 56), the times that the model leaves free (log 5)
and the cluster of a link (log 100) are the model's. -/
def Obligations.PowerAndCompletion : Prop :=
  ∀ (s : State),
    let d := s.arg.n
    (∃ t, exec .powerWindow s = .next t ∧ (∀ p ∈ s.cores, (t.cores.find? (fun q => q.1 = p.1)).isSome = true)
        ∧ (∀ p ∈ t.cores, p.2.pow0.spent = 0 ∧ p.2.pow1.spent = 0 ∧ p.2.pow0.next = none ∧ p.2.pow1.next = none)
        ∧ ∀ c, (t.core c).pow0.grant = (s.core c).pow0.next.getD (s.core c).pow0.grant)
    ∧ (s.arg.flag = false → exec .grantRecompute s = .next (s.computeGrants d))
    ∧ (s.arg.flag = true → ∃ u : State, exec .grantRecompute s = .next (u.computeGrants d)
        ∧ (((s.die d).tlim ≤ (u.die d).temp → (u.die d).thr = min 4 ((s.die d).thr + 1))
        ∧ ((u.die d).temp < (s.die d).tlim → (u.die d).thr = (s.die d).thr - 1)))
    ∧ (∃ t, exec .permitAudit s = .next t ∧ (t.die d).audit = some (s.pcyc + 2048)
        ∧ ∃ e ∈ t.sched, e.ev = .permitAuditEnd ∧ e.due = s.pcyc + 2048 ∧ e.arg.n = d)
    ∧ (∃ t, exec .permitAuditEnd s = .next t ∧ (t.die d).audit = none ∧ (t.die d).permits = [])
    -- completion: the status, the write-back of lines that are not hardware-coherent, then the record
    ∧ (∀ l, s.launch? s.arg.id = some l →
        (s.completeDue l = false → exec .launchComplete s = .next s)
        ∧ (s.completeDue l = true →
          let u := if l.status = none then s.modLaunch l.id (fun k => { k with status := some (if k.ended = k.total then 0 else 2) }) else s
          let rs := (l.lrt.filter (fun e => e.v && e.coh != 0)).map (fun e => (e.base, e.limit))
          let w := if l.closing = true then u else l.ran.foldl (fun (u : State) c => u.writeBackRanges c l.id (u.bound l.id rs))
            (u.modLaunch l.id (fun k => { k with closing := true, doneAt := some s.pcyc }))
          (u.settled l.id = false → exec .launchComplete s = .next u)
          ∧ (u.settled l.id = true → w.closingOut l = true → exec .launchComplete s = .next w)
          ∧ (u.settled l.id = true → w.closingOut l = false → ∃ t, exec .launchComplete s = .next t
            ∧ (∀ k ∈ t.dist.launches, k.id ≠ l.id) ∧ (∀ b ∈ t.bars, b.launch ≠ l.id)
            ∧ t.agenda.head? = some (.ev .completionRecordWrite { n := l.q }))))
    -- records leave in order, and a held one takes the room
    ∧ (∀ w rest, s.fq.ring = w :: rest → ∃ t, exec .faultRecordRemove s = .next t ∧ t.fq.host = s.fq.host ++ [w]
        ∧ (s.fq.heldRecs = [] → t.fq.ring = rest) ∧ (∀ h l, s.fq.heldRecs = h :: l → t.fq.ring = rest ++ [h] ∧ t.fq.heldRecs = l))

/-- R90, R352, R414, R417 to R424: requests, the save of a context and its resume, an expired window, the move of a launch,
containment and spare clusters. The model's readings and choices: the layout of the save area (log 59), what a save waits for (log
60), a debug halt (log 61), a containment (logs 62, 63 and 100), which areas and cores the management core takes (log 91), and the fault
of an area that names no memory (log 72). -/
def Obligations.PreemptionEvents : Prop :=
  ∀ (s : State),
    let c := s.arg.core
    let v := s.arg.v
    let y := pmCtx v
    let x := s.arg.ctx
    let k := s.ctx c x
    -- a request while an operation is in progress starts nothing, though its fields are written; one for a task that has ended is over
    -- at once
    (s.pmBusy c = true → (s.arg.flag = false → exec .preemptRequest s = .next (s.pmNote c v)) ∧ exec .debugHalt s = .next (s.pmNote c v)
      ∧ (s.pmNote c v).pmBusy c = true
      ∧ ∀ w, w = ((s.pmNote c v).core c).pmctl.toNat → pmCtx w = pmCtx v ∧ pmStep w = pmStep v ∧ (v < 2 ^ 64 → pmArea w = pmArea v))
    ∧ (s.arg.flag = false → s.pmBusy c = false → s.ctxOver c y = true → ∃ t, exec .preemptRequest s = .next t ∧ t.pmBusy c = false ∧ t.ctx c y = s.ctx c y)
    ∧ (s.arg.flag = false → s.pmBusy c = false → s.ctxOver c y = false →
        (∃ t, exec .preemptRequest s = .next t ∧ t.pmBusy c = true ∧ t.ctx c y = { s.ctx c y with
          pre := some { area := pmArea v, debug := false, deadline := s.pcyc + (s.launch (s.ctx c y).launch).pwin } })
        ∧ ∃ t, exec .debugHalt s = .next t ∧ t.pmBusy c = true ∧ t.ctx c y = { s.ctx c y with
          pre := some { area := pmArea v, debug := true, deadline := s.pcyc + (s.launch (s.ctx c y).launch).pwin } })
    -- the management core's own request, after a retirement, takes a save area that is free, or waits
    ∧ (s.arg.flag = true → s.ctxOver c x = false → k.task = s.arg.id → s.pmBusy c = true →
        exec .preemptRequest s = .next (s.sched_ (s.pcyc + 1) 0 .preemptRequest s.arg))
    ∧ (∀ a, s.arg.flag = true → s.ctxOver c x = false → k.task = s.arg.id → s.pmBusy c = false → s.freeArea = some a →
        exec .preemptRequest s = .next (s.request_ c (x + 2 ^ 3 + a) false))
    -- a window that ends without a pre-emption point rolls the context back and saves it there
    ∧ (∀ p, k.pre = some p → p.debug = false → s.ctxOver c x = false → k.status ≠ .halted → p.deadline ≤ s.pcyc → ∃ t,
        exec .preemptWindowExpiry s = .next t ∧ (t.ctx c x).pre = none
          ∧ t = (s.rollback c x (.saving p.area false)).modCtx c x (fun k => { k with pre := none }))
    ∧ (∀ p, k.pre = some p → s.pcyc < p.deadline → exec .preemptWindowExpiry s = .next s)
    -- the save: the area, the record, and the context free again; a debug halt keeps it
    ∧ (∀ area, k.why = .saving area true → s.saveDue c x = true → area + 163840 ≤ 2 ^ 40 → ∃ t, exec .preemptSave s = .next t
        ∧ (t.ctx c x).why = .debug area ∧ (t.ctx c x).r = k.r ∧ (t.ctx c x).status = k.status ∧ t.pmBusy c = false ∧ t.pmSaved c = true
        ∧ t.mem = (s.writeImage area (s.saveImage c x false 0)).mem)
    ∧ (∀ area, k.why = .saving area false → s.saveDue c x = true → area + 163840 ≤ 2 ^ 40 → s.arg.flag = false → ∃ t,
        exec .preemptSave s = .next t ∧ (t.ctx c x).status = .free
        ∧ (∃ w ∈ t.saves, w.area = area ∧ w.core = c ∧ w.task = k.task ∧ w.launch = k.launch ∧ w.wid = k.wid ∧ w.serial = k.serial)
        ∧ t.mem = (s.writeImage area (s.saveImage c x (((s.core c).eng (s.half c x)).lastUser = some x) 0)).mem)
    ∧ (∀ area d, k.why = .saving area d → s.saveDue c x = true → 2 ^ 40 < area + 163840 → exec .preemptSave s = .fault (.noMemory area))
    ∧ (s.saveDue c x = false → exec .preemptSave s = .next s)
    -- the resume of a saved task into a free context of its core
    ∧ (let area := pmArea v
       let w := s.savedAs c area
       s.arg.flag = false → s.pmBusy c = false → area + 163840 ≤ 2 ^ 40 → (s.ctx c y).status = .free → (s.ctx c y).why = .none →
       (s.core c).starts.any (fun p => p.1 = y) = false → mread s.mem area 4 = 0x4C595331 → ∃ t, exec .resume s = .next t ∧ (t.ctx c y).status = .ready
         ∧ (t.ctx c y).r = s.regsRead_ area ∧ (t.ctx c y).mark = some (s.regsRead_ area) ∧ (t.ctx c y).launch = w.launch
         ∧ (t.ctx c y).task = w.task ∧ (t.ctx c y).wid = BitVec.ofNat 64 (mread s.mem (area + 24) 8) ∧ (∀ u ∈ t.saves, u.area ≠ area)
         ∧ (t.ctx c y).cancel = (s.launch w.launch).cancelled ∧ t.pmBusy c = false)
    -- the resume of a context that a debug halt has kept
    ∧ (∀ a, s.arg.flag = false → s.pmBusy c = false → a + 163840 ≤ 2 ^ 40 → (s.ctx c y).why = .debug a → pmArea v = a → mread s.mem a 4 = 0x4C595331 → ∃ t,
        exec .resume s = .next t ∧ (t.ctx c y).status = .ready ∧ (t.ctx c y).why = .none
        ∧ (t.ctx c y).r = State.catchUp (s.ctx c y).resv (s.regsRead_ a) ∧ (t.ctx c y).step = (if pmStep v then some a else none)
        ∧ (t.ctx c y).wid = BitVec.ofNat 64 (mread s.mem (a + 24) 8))
    ∧ (s.arg.flag = false → s.pmBusy c = true → exec .resume s = .next (s.pmNote c v))
    -- an area that names no memory holds no save
    ∧ (s.arg.flag = false → s.pmBusy c = false → 2 ^ 40 < pmArea v + 163840 →
        exec .resume s = .next ((s.pmBegin c v (s.pmSaved c)).resumeRefused c y))
    -- a move takes the saves, the banks and the timelines along, once every number given out before the saves has completed
    ∧ (let d := s.arg.n
       let l := s.launch s.arg.id
       s.arg.flag = false → (s.core c).ctxs.any (fun p => p.2.status != .free && p.2.launch = l.id) = false →
       (s.core c).starts.any (fun p => p.2.1 = l.id) = false → s.savedOn c l.id ≠ [] → (s.savedOn c l.id).all (s.savedDone c) = true →
       s.moveFits c l d = true →
       ∃ t, exec .launchMove s = .next t ∧ (∀ w ∈ t.saves, w.launch = l.id → w.core ≠ c) ∧ (t.core d).tls = (s.core c).tls)
    -- containment stops every core of the cluster, and a failed die takes no more portions
    ∧ (s.arg.flag = false → exec .containmentReset s = .next (s.contain s.arg.n))
    ∧ (s.arg.flag = true → ∃ u : State, exec .containmentReset s = .next u ∧ (u.die s.arg.n).dfail = true)
    ∧ (∀ e : Nat, clusOf e = s.arg.n → s.arg.n < 96 → ∃ t, exec .containmentReset { s with arg := { s.arg with flag := false } } = .next t
        ∧ (t.core e).plog = [] ∧ (t.core e).cb = [] ∧ (t.core e).epoch = ((s.core e).epoch + 1) % 2 ^ 16
        ∧ (t.die (s.arg.n / 12)).cen.getLsbD (e % 48) = false ∧ tget t.mg.factory.failed (s.arg.n / 12) 0#12 ≠ 0#12)
    -- a spare cluster is enabled once, on a die that has lost one
    ∧ (let d := s.arg.n
       let m := s.arg.m
       let lost := tget s.mg.factory.failed d 0#12
       (lost ≠ 0#12 → (s.die d).spare.getLsbD m = true → m < 12 → ∃ t, exec .spareClusterEnable s = .next t
         ∧ (t.die d).clen = (s.die d).clen ||| BitVec.ofNat 12 (2 ^ m) ∧ (t.die d).spare = 0#12
         ∧ ∀ j < 4, (t.die d).cen.getLsbD (4 * m + j) = true)
       ∧ ((lost = 0#12 ∨ (s.die d).spare.getLsbD m = false) → exec .spareClusterEnable s = .next s))

/-- R25, R67, R68, R72, R77, R279, R397, R412, R429, R432, R434: power-on reset and what the host and the management core write. What boot finds and
writes (log 4), the sub code of a record (log 20), the choices about queue registers (logs 68 and 85) and the walk cache (log 88) are the
model's. -/
def Obligations.ManagementWrites : Prop :=
  ∀ (s : State),
    let q := s.arg.n
    let u := s.lqueue q
    let v := s.arg.v
    let lg := fld v 2 4
    let t32 := BitVec.ofNat 32 v
    -- boot (R434): the part's own record decides what is enabled
    (s.mg.factory.fail = none → ∃ t, exec .packagePowerOnReset s = .next t ∧ t.pcyc = 0 ∧ t.mem = [] ∧ t.host = [] ∧ t.mg.ready = true
        ∧ t.mg.fail = false ∧ t.dist = {} ∧ t.reqs = [] ∧ (∀ c x, t.ctx c x = {})
        ∧ tget t.mg.caps 0x200 0#64 = 0x020202010001#64
        ∧ t.fab.route = s.mg.factory.route.map (fun e => (e.1, BitVec.ofNat 32 (e.2.toNat % 2 ^ 14)))
        ∧ t.mg.keys = s.mg.factory.keys.filter (fun k => 1 ≤ k.1 && k.1 < 64)
        ∧ (∀ d < 9, (t.die d).htbase = tget s.mg.factory.htbase d 0)
        ∧ ∀ d < 8, (t.die d).bud = s.mg.factory.budget ∧ (t.die d).dfail = false)
    ∧ (∀ n w, s.mg.factory.fail = some (n, w) → n ≤ 9 → ∃ t, exec .packagePowerOnReset s = .next t ∧ t.mg.ready = false ∧ t.mg.fail = true
        ∧ t.mg.step = n ∧ t.mg.why_ = w)
    -- launch queues
    ∧ (q < 32 → s.mg.ready = true → u.en = false → bit v 0 = true → 4 ≤ lg → lg ≤ 12 → ∃ t, exec .launchQueueEnable s = .next t
        ∧ (t.lqueue q).en = true ∧ (t.lqueue q).dev = bit v 1 ∧ (t.lqueue q).lg = lg ∧ (t.lqueue q).base = fld v 12 52 * 4096
        ∧ (t.lqueue q).head = 0#32 ∧ (t.lqueue q).tail = 0#32)
    ∧ (q < 32 → s.mg.ready = true → u.en = false → (lg < 4 ∨ 12 < lg) → ∃ t, exec .launchQueueEnable s = .next t ∧ (t.lqueue q).en = false)
    ∧ (q < 32 → s.mg.ready = false → exec .launchQueueEnable s = .next s)
    ∧ (q < 32 → s.mg.ready = true → ∃ t, exec .launchQueueDisable s = .next t ∧ (t.lqueue q).en = false
        ∧ (t.lqueue q).head = u.head ∧ (t.lqueue q).tail = u.tail)
    ∧ (q < 32 → u.en = true → u.dev = false → (t32 - u.head).toNat ≤ 2 ^ u.lg → (t32 - u.tail).toNat ≤ 2 ^ u.lg →
        exec .launchQueueNotify s = .next (s.modLq q (fun u => { u with tail := t32, stale := false })))
    ∧ (q < 32 → u.en = true → u.dev = false → (2 ^ u.lg < (t32 - u.head).toNat ∨ 2 ^ u.lg < (t32 - u.tail).toNat) →
        exec .launchQueueNotify s = .next ((s.modLq q (fun u => { u with ovr := true })).post { cls := 5, cause := 0, sub := 2, info := q }))
    -- completion rings
    ∧ (q < 32 → bit v 0 = true → 4 ≤ fld v 1 4 → fld v 1 4 ≤ 12 → ∃ t, exec .completionRingEnable s = .next t ∧ (t.lqueue q).cren = true
        ∧ (t.lqueue q).crlg = fld v 1 4 ∧ (t.lqueue q).crbase = fld v 12 52 * 4096)
    -- the cancel set
    ∧ exec .lqcanset s = .next (s.now_ .cancelTokenArrival { n := v % 2 ^ 32 })
    ∧ (s.dist.cancelWait = [] → ∃ t, exec .lqcanclr s = .next t ∧ t.dist.cancel = s.dist.cancel.filter (· != v % 2 ^ 32))
    -- resolves
    ∧ (∀ c x, s.fq.waits.find? (fun w => w.1 = q % 2 ^ 32) = some (q % 2 ^ 32, c, x, none) → (s.ctx c x).why = .resolve (q % 2 ^ 32) false →
        (s.arg.m % 4 = 0 → ∃ t, exec .fqres s = .next t ∧ (t.ctx c x).status = .ready ∧ (t.ctx c x).r = (s.ctx c x).r
          ∧ ∀ w ∈ t.fq.waits, w.1 ≠ q % 2 ^ 32)
        ∧ (s.arg.m % 4 = 1 → ∃ u : State, exec .fqres s = .next
              (State.pinsAgain (u.programError c x { cause := 0x12, sub := 3 } (s.ctx c x).r.pc.toNat) c x false)
            ∧ u = { s with fq := { s.fq with waits := s.fq.waits.filter (fun w => w.1 != q % 2 ^ 32) } })
        ∧ (2 ≤ s.arg.m % 4 → exec .fqres s = .next s))
    ∧ (s.fq.waits.find? (fun w => w.1 = q % 2 ^ 32) = none → exec .fqres s = .next s)
    -- invalidations
    ∧ (q < 9 → ∃ t, exec .htinv s = .next t ∧ (t.die q).htDone = false
        ∧ (∃ ws, (t.die q).htBusy = some ws ∧ ∀ w, w ∈ ws ↔ w ∈ (s.die q).walkers)
        -- one that has not completed yet completes with it
        ∧ ((s.die q).htBusy ≠ none → ((s.die q).htAsid, (s.die q).htAll, (s.die q).htPage) ∈ (t.die q).htOpen)
        ∧ (bit v 16 = true → ∀ e ∈ (t.die q).tc, e.1 ≠ fld v 0 16) ∧ ∀ w ∈ (t.die q).wc, w.1 ≠ fld v 0 16)
    ∧ (s.invDue q = true → ∃ t, exec .htinvComplete s = .next t ∧ (t.die q).htDone = true ∧ (t.die q).htBusy = none
        ∧ (t.die q).htOpen = [])
    ∧ (s.invDue q = false → exec .htinvComplete s = .next s)
    -- link receive queues
    ∧ ((s.lrq q).en = true → (s.lrq q).room = [] → ∃ t, exec .lrqClose s = .next t ∧ (t.lrq q).en = false ∧ (t.lrq q).msgs = [])
    ∧ ((s.lrq q).en = false → exec .lrqClose s = .next s)
    -- registers
    ∧ (∀ d, s.arg.reg = some (.htbase d) → d < 9 → ∃ t, exec .registerWrite s = .next t ∧ (t.die d).htbase = v % 2 ^ 64)
    ∧ (∀ d, s.arg.reg = some (.bellows d) → d < 8 → ∃ t, exec .registerWrite s = .next t ∧ (t.die d).bud = fld v 0 16
        ∧ (t.die d).tlim = fld v 16 8)
    ∧ (∀ n a b, s.arg.reg = some (.keySlot n a b) → 1 ≤ n → n < 64 → ∃ t, exec .registerWrite s = .next t
        ∧ tget t.mg.keys n (0#256, 0#256) = (a, b))
    ∧ (∀ c, s.arg.reg = some (.slotmap c) → ∃ t, exec .registerWrite s = .next t ∧ (t.core c).slotmap = BitVec.ofNat 5 v)
    ∧ (∀ d, s.arg.reg = some (.freeFrame d) → d < 8 → ∃ t, exec .registerWrite s = .next t
        ∧ (t.die d).frames = (s.die d).frames ++ [v / 4096 * 4096])

/-- R70, R282, R405 to R407, R449: writes through the host port, page moves, and the checkpoint drain. The tags of moved
and of host-written lines (logs 49 and 69), the order of the drain (log 70), the fault of a place that names no memory (log 72) and the
form of the report of a fault of the safe tier (log 90) are the model's. -/
def Obligations.MemoryManagement : Prop :=
  ∀ (s : State),
    let p := s.arg.v
    let l := s.arg.bytes
    -- the host's bytes and no others change
    (s.MemOk → s.upds = [] → s.lines = [] → p + l.length ≤ 2 ^ 40 → s.ckStuck p l.length = false → ∃ t, exec .hostPortMemoryWrite s = .next t ∧ t.host = s.host
        ∧ ∀ q, mget t.mem q = if p ≤ q ∧ q < p + l.length then l.getD (q - p) 0#8 else mget s.mem q)
    -- and wait, with what the host posted after them, while a checkpoint's reserve is full
    ∧ (p + l.length ≤ 2 ^ 40 → s.ckStuck p l.length = true →
        exec .hostPortMemoryWrite s = .next (s.sched_ (s.pcyc + 1) 0 .hostPortMemoryWrite s.arg).deferPosted)
    ∧ (2 ^ 40 < p + l.length → exec .hostPortMemoryWrite s = .fault (.noMemory p))
    -- a page under no key is copied to its new frame
    ∧ (let v := s.arg.v / 128 * 128
       let m := s.arg.m / 128 * 128
       let n := s.arg.n
       (v + n ≤ 2 ^ 40 → m + n ≤ 2 ^ 40 → ((s.die (v / 2 ^ 37)).htBusy ≠ none ∨ s.ckStuck m n = true) →
          exec .pageMove s = .next (s.sched_ (s.pcyc + 1) 0 .pageMove s.arg))
       ∧ (v + n ≤ 2 ^ 40 → m + n ≤ 2 ^ 40 → (s.die (v / 2 ^ 37)).htBusy = none → s.ckStuck m n = false → s.arg.id = 0 → n % 128 = 0 → (v + n ≤ m ∨ m + n ≤ v) →
          s.MemOk → ∃ t, exec .pageMove s = .next t
            ∧ (∀ i < n, mget t.mem (m + i) = mget s.mem (v + i)) ∧ (∀ q, (q < m ∨ m + n ≤ q) → mget t.mem q = mget s.mem q)
            ∧ ∀ i < n, t.line (m + i) = s.line (v + i))
       ∧ (2 ^ 40 < v + n ∨ 2 ^ 40 < m + n → exec .pageMove s = .fault (.noMemory (max v m))))
    -- the drain: its units hold the bytes of the opening clock
    ∧ (s.ck.open_ = true → exec .checkpointDrainOpen s = .next s)
    ∧ (s.ck.open_ = false → ∃ t, exec .checkpointDrainOpen s = .next t ∧ t.ck = { open_ := true, tier := some s.arg.n }
        ∧ (s.upds = [] → t.mem = s.mem))
    ∧ (∀ u, s.ck.open_ = true → s.ck.stopped = false → s.ckNext = some u → ∃ t, exec .checkpointUnitDrained s = .next t
        ∧ t.ck.drained = s.ck.drained ++ [u] ∧ t.mem = s.mem ∧ (∀ w ∈ t.ck.waits, w.2 ≠ u) ∧ (∀ k ∈ t.ck.copies, k.1 ≠ u)
        ∧ t.ck.image = s.ck.image ++ [(u, match s.ck.copies.find? (fun k => k.1 = u) with
            | some k => k.2
            | none => s.mem.filter (fun c => c.1 / 65536 = u))])
    ∧ (s.ck.open_ = true → ∃ t, exec .checkpointDrainClose s = .next t ∧ t.ck.open_ = false ∧ t.ck.drained = [] ∧ t.ck.copies = []
        ∧ t.ck.waits = [] ∧ t.ck.image = s.ck.image ∧ t.mem = s.mem)
    ∧ (s.ck.open_ = true → ∃ t, exec .safeTierFault s = .next t ∧ t.ck = { s.ck with stopped := true } ∧ t.mem = s.mem
        ∧ (s.fq.ring.length < Config.faultRecords → s.fq.heldRecs = [] → ∃ n, t.fq.ring = s.fq.ring
          ++ [({ cls := 5, cause := 0, sub := n } : Rec).word s.fq.seq.toNat s.pcyc]))
    ∧ (s.ck.open_ = false → exec .safeTierFault s = .next s ∧ exec .checkpointDrainClose s = .next s ∧ exec .checkpointUnitDrained s = .next s)

/-! ### Frames, traps and rollbacks -/

/-- R113, R136, R139, R151, R252: no slot instruction itself changes a byte of memory, a register of any context, or anything of
a context other than the one that issues it: its results are in flight, its stores are entries and requests. A tagged form or
SAMO writes its word at t + 2, and a vector load of another context that reads later than that in its flight shows the word as
written (R248, R256). -/
def Obligations.SlotInstructionFrame : Prop :=
  ∀ (i : Instr) (s t : State), (encode i).isSome = true → exec i s = .next t →
    s.SameMemory t
    ∧ (∀ c x, (t.ctx c x).r.s = (s.ctx c x).r.s ∧ (t.ctx c x).r.v = (s.ctx c x).r.v ∧ (t.ctx c x).r.k = (s.ctx c x).r.k
        ∧ (t.ctx c x).r.pc = (s.ctx c x).r.pc)
    ∧ ∀ c x, (c ≠ s.iss.core ∨ x ≠ s.iss.ctx) →
      (t.ctx c x).blur = (s.ctx c x).blur ∧ (c ≠ s.iss.core → t.ctx c x = s.ctx c x) ∧ (i.writesWord = false → t.ctx c x = s.ctx c x)

/-- R137, R254, R409, R410, R412: what a trap of the issuing bundle does: the record with its place, the halt of the context and
the cancel token of its graph; registers and memory stay, and none of its held entries is left. A trap of class 1 waits for
the host. R414: a rollback brings the context back to its mark with the results that were in flight there, drops its held
entries and what it awaits of bundles after the mark, and fetch resumes 8 clocks after the clock of the event; nothing else of any other context and no byte of memory
changes. -/
def Obligations.TrapsAndRollbacks : Prop :=
  (∀ (s : State) (t : Trap),
    let u := s.trap t
    let slot := if t.slot = 0 then s.iss.slot else t.slot
    let r : Rec := s.recOf s.iss.core s.iss.ctx { cls := t.cls, cause := t.cause, sub := t.sub, slot := slot, asid := t.asid, pos := s.iss.pos,
                                                  info := t.info, addr := t.addr }
    let r1 : Rec := s.recOf s.iss.core s.iss.ctx { cls := 1, cause := t.cause, sub := t.sub, slot := slot, pos := s.iss.pos,
                                                   info := t.info, addr := t.addr }
    u.iss.stop = some (.trap { t with slot := slot }) ∧ s.SameMemory u ∧ u.cx.status = .halted ∧ u.cx.r = s.cx.r
    ∧ (∀ c x, (c ≠ s.iss.core ∨ x ≠ s.iss.ctx) → u.ctx c x = s.ctx c x)
    ∧ (t.cls ≠ 1 → u.cx.why = .trapped ∧ (∀ e ∈ u.cc.cb, e.ctx = s.iss.ctx → e.st ≠ .held)
        ∧ (∀ e ∈ s.cc.cb, e.st ≠ .held → e ∈ u.cc.cb)
        ∧ (∃ e ∈ u.sched, e.ev = .cancelTokenArrival ∧ e.arg.n = s.cl.gin))
    ∧ (t.cls ≠ 1 → s.fq.ring.length < Config.faultRecords → s.fq.heldRecs = [] →
        u.fq.ring = s.fq.ring ++ [r.word s.fq.seq.toNat s.pcyc] ∧ u.fq.seq = s.fq.seq + 1#32)
    ∧ (t.cls = 1 → u.cx.why = .resolve s.fq.seq.toNat true ∧ u.cc.cb = s.cc.cb
        ∧ u.fq.waits = s.fq.waits ++ [(s.fq.seq.toNat, s.iss.core, s.iss.ctx, none)])
    ∧ (t.cls = 1 → s.fq.ring.length < Config.faultRecords → s.fq.heldRecs = [] →
        u.fq.ring = s.fq.ring ++ [r1.word s.fq.seq.toNat s.pcyc]))
  ∧ (∀ (s : State) (c x : Nat), (∀ a d, (s.ctx c x).why ≠ .saving a d) →
    ((s.core c).eng (s.half c x)).opens.filter (fun o => o.ctx = x) = [] →
    let t := s.rollback c x .rolling
    (t.ctx c x).r = (s.ctx c x).mark.getD (s.ctx c x).r ∧ (t.ctx c x).status = .halted ∧ (t.ctx c x).why = .rolling
    ∧ (t.ctx c x).pend = (s.ctx c x).pend.filter (fun p => !(s.ctx c x).afterMark p.2.1) ∧ (t.ctx c x).mark2 = none ∧ (t.ctx c x).mark = (s.ctx c x).mark
    ∧ (∀ e ∈ (t.core c).cb, e.ctx = x → e.st ≠ .held) ∧ (∀ e ∈ (s.core c).cb, e.st ≠ .held → e ∈ (t.core c).cb)
    ∧ s.SameMemory t ∧ (∀ d y, (d ≠ c ∨ y ≠ x) → t.ctx d y = s.ctx d y)
    ∧ (∃ e ∈ t.sched, e.ev = .rollbackFetchResume ∧ e.due = s.pcyc + 9 ∧ e.arg.core = c ∧ e.arg.ctx = x)
    ∧ (s.resumeFetch c x).ctx c x = { s.ctx c x with status := .ready, why := .none, nextAt := s.now c, boundary := false })
end

