-- ==== Sys2Proof/Laws/State.lean ====
section
/-! SUPPORT. What each named update of the state leaves alone: one lemma for each field it does not write. -/

namespace Sys2Proof.Machine

variable (s : State)

/-! ### modCore -/

@[simp] theorem State.modCore_pcyc (c : Nat) (f : Core → Core) : (s.modCore c f).pcyc = s.pcyc := rfl
@[simp] theorem State.modCore_ltBase (c : Nat) (f : Core → Core) : (s.modCore c f).ltBase = s.ltBase := rfl
@[simp] theorem State.modCore_agenda (c : Nat) (f : Core → Core) : (s.modCore c f).agenda = s.agenda := rfl
@[simp] theorem State.modCore_sched (c : Nat) (f : Core → Core) : (s.modCore c f).sched = s.sched := rfl
@[simp] theorem State.modCore_inputs (c : Nat) (f : Core → Core) : (s.modCore c f).inputs = s.inputs := rfl
@[simp] theorem State.modCore_upsets (c : Nat) (f : Core → Core) : (s.modCore c f).upsets = s.upsets := rfl
@[simp] theorem State.modCore_fresh (c : Nat) (f : Core → Core) : (s.modCore c f).fresh = s.fresh := rfl
@[simp] theorem State.modCore_nextId (c : Nat) (f : Core → Core) : (s.modCore c f).nextId = s.nextId := rfl
@[simp] theorem State.modCore_iss (c : Nat) (f : Core → Core) : (s.modCore c f).iss = s.iss := rfl
@[simp] theorem State.modCore_arg (c : Nat) (f : Core → Core) : (s.modCore c f).arg = s.arg := rfl
@[simp] theorem State.modCore_mem (c : Nat) (f : Core → Core) : (s.modCore c f).mem = s.mem := rfl
@[simp] theorem State.modCore_host (c : Nat) (f : Core → Core) : (s.modCore c f).host = s.host := rfl
@[simp] theorem State.modCore_lines (c : Nat) (f : Core → Core) : (s.modCore c f).lines = s.lines := rfl
@[simp] theorem State.modCore_upds (c : Nat) (f : Core → Core) : (s.modCore c f).upds = s.upds := rfl
@[simp] theorem State.modCore_ftdir (c : Nat) (f : Core → Core) : (s.modCore c f).ftdir = s.ftdir := rfl
@[simp] theorem State.modCore_hearth (c : Nat) (f : Core → Core) : (s.modCore c f).hearth = s.hearth := rfl
@[simp] theorem State.modCore_clus (c : Nat) (f : Core → Core) : (s.modCore c f).clus = s.clus := rfl
@[simp] theorem State.modCore_dies (c : Nat) (f : Core → Core) : (s.modCore c f).dies = s.dies := rfl
@[simp] theorem State.modCore_bars (c : Nat) (f : Core → Core) : (s.modCore c f).bars = s.bars := rfl
@[simp] theorem State.modCore_reqs (c : Nat) (f : Core → Core) : (s.modCore c f).reqs = s.reqs := rfl
@[simp] theorem State.modCore_groups (c : Nat) (f : Core → Core) : (s.modCore c f).groups = s.groups := rfl
@[simp] theorem State.modCore_vres (c : Nat) (f : Core → Core) : (s.modCore c f).vres = s.vres := rfl
@[simp] theorem State.modCore_msgs (c : Nat) (f : Core → Core) : (s.modCore c f).msgs = s.msgs := rfl
@[simp] theorem State.modCore_promos (c : Nat) (f : Core → Core) : (s.modCore c f).promos = s.promos := rfl
@[simp] theorem State.modCore_rels (c : Nat) (f : Core → Core) : (s.modCore c f).rels = s.rels := rfl
@[simp] theorem State.modCore_copies (c : Nat) (f : Core → Core) : (s.modCore c f).copies = s.copies := rfl
@[simp] theorem State.modCore_saves (c : Nat) (f : Core → Core) : (s.modCore c f).saves = s.saves := rfl
@[simp] theorem State.modCore_dist (c : Nat) (f : Core → Core) : (s.modCore c f).dist = s.dist := rfl
@[simp] theorem State.modCore_fq (c : Nat) (f : Core → Core) : (s.modCore c f).fq = s.fq := rfl
@[simp] theorem State.modCore_fab (c : Nat) (f : Core → Core) : (s.modCore c f).fab = s.fab := rfl
@[simp] theorem State.modCore_coll (c : Nat) (f : Core → Core) : (s.modCore c f).coll = s.coll := rfl
@[simp] theorem State.modCore_ck (c : Nat) (f : Core → Core) : (s.modCore c f).ck = s.ck := rfl
@[simp] theorem State.modCore_mg (c : Nat) (f : Core → Core) : (s.modCore c f).mg = s.mg := rfl

/-! ### modCtx -/

@[simp] theorem State.modCtx_pcyc (c x : Nat) (f : Ctx → Ctx) : (s.modCtx c x f).pcyc = s.pcyc := rfl
@[simp] theorem State.modCtx_ltBase (c x : Nat) (f : Ctx → Ctx) : (s.modCtx c x f).ltBase = s.ltBase := rfl
@[simp] theorem State.modCtx_agenda (c x : Nat) (f : Ctx → Ctx) : (s.modCtx c x f).agenda = s.agenda := rfl
@[simp] theorem State.modCtx_sched (c x : Nat) (f : Ctx → Ctx) : (s.modCtx c x f).sched = s.sched := rfl
@[simp] theorem State.modCtx_inputs (c x : Nat) (f : Ctx → Ctx) : (s.modCtx c x f).inputs = s.inputs := rfl
@[simp] theorem State.modCtx_upsets (c x : Nat) (f : Ctx → Ctx) : (s.modCtx c x f).upsets = s.upsets := rfl
@[simp] theorem State.modCtx_fresh (c x : Nat) (f : Ctx → Ctx) : (s.modCtx c x f).fresh = s.fresh := rfl
@[simp] theorem State.modCtx_nextId (c x : Nat) (f : Ctx → Ctx) : (s.modCtx c x f).nextId = s.nextId := rfl
@[simp] theorem State.modCtx_iss (c x : Nat) (f : Ctx → Ctx) : (s.modCtx c x f).iss = s.iss := rfl
@[simp] theorem State.modCtx_arg (c x : Nat) (f : Ctx → Ctx) : (s.modCtx c x f).arg = s.arg := rfl
@[simp] theorem State.modCtx_mem (c x : Nat) (f : Ctx → Ctx) : (s.modCtx c x f).mem = s.mem := rfl
@[simp] theorem State.modCtx_host (c x : Nat) (f : Ctx → Ctx) : (s.modCtx c x f).host = s.host := rfl
@[simp] theorem State.modCtx_lines (c x : Nat) (f : Ctx → Ctx) : (s.modCtx c x f).lines = s.lines := rfl
@[simp] theorem State.modCtx_upds (c x : Nat) (f : Ctx → Ctx) : (s.modCtx c x f).upds = s.upds := rfl
@[simp] theorem State.modCtx_ftdir (c x : Nat) (f : Ctx → Ctx) : (s.modCtx c x f).ftdir = s.ftdir := rfl
@[simp] theorem State.modCtx_hearth (c x : Nat) (f : Ctx → Ctx) : (s.modCtx c x f).hearth = s.hearth := rfl
@[simp] theorem State.modCtx_clus (c x : Nat) (f : Ctx → Ctx) : (s.modCtx c x f).clus = s.clus := rfl
@[simp] theorem State.modCtx_dies (c x : Nat) (f : Ctx → Ctx) : (s.modCtx c x f).dies = s.dies := rfl
@[simp] theorem State.modCtx_bars (c x : Nat) (f : Ctx → Ctx) : (s.modCtx c x f).bars = s.bars := rfl
@[simp] theorem State.modCtx_reqs (c x : Nat) (f : Ctx → Ctx) : (s.modCtx c x f).reqs = s.reqs := rfl
@[simp] theorem State.modCtx_groups (c x : Nat) (f : Ctx → Ctx) : (s.modCtx c x f).groups = s.groups := rfl
@[simp] theorem State.modCtx_vres (c x : Nat) (f : Ctx → Ctx) : (s.modCtx c x f).vres = s.vres := rfl
@[simp] theorem State.modCtx_msgs (c x : Nat) (f : Ctx → Ctx) : (s.modCtx c x f).msgs = s.msgs := rfl
@[simp] theorem State.modCtx_promos (c x : Nat) (f : Ctx → Ctx) : (s.modCtx c x f).promos = s.promos := rfl
@[simp] theorem State.modCtx_rels (c x : Nat) (f : Ctx → Ctx) : (s.modCtx c x f).rels = s.rels := rfl
@[simp] theorem State.modCtx_copies (c x : Nat) (f : Ctx → Ctx) : (s.modCtx c x f).copies = s.copies := rfl
@[simp] theorem State.modCtx_saves (c x : Nat) (f : Ctx → Ctx) : (s.modCtx c x f).saves = s.saves := rfl
@[simp] theorem State.modCtx_dist (c x : Nat) (f : Ctx → Ctx) : (s.modCtx c x f).dist = s.dist := rfl
@[simp] theorem State.modCtx_fq (c x : Nat) (f : Ctx → Ctx) : (s.modCtx c x f).fq = s.fq := rfl
@[simp] theorem State.modCtx_fab (c x : Nat) (f : Ctx → Ctx) : (s.modCtx c x f).fab = s.fab := rfl
@[simp] theorem State.modCtx_coll (c x : Nat) (f : Ctx → Ctx) : (s.modCtx c x f).coll = s.coll := rfl
@[simp] theorem State.modCtx_ck (c x : Nat) (f : Ctx → Ctx) : (s.modCtx c x f).ck = s.ck := rfl
@[simp] theorem State.modCtx_mg (c x : Nat) (f : Ctx → Ctx) : (s.modCtx c x f).mg = s.mg := rfl

/-! ### modCx -/

@[simp] theorem State.modCx_pcyc (f : Ctx → Ctx) : (s.modCx f).pcyc = s.pcyc := rfl
@[simp] theorem State.modCx_ltBase (f : Ctx → Ctx) : (s.modCx f).ltBase = s.ltBase := rfl
@[simp] theorem State.modCx_agenda (f : Ctx → Ctx) : (s.modCx f).agenda = s.agenda := rfl
@[simp] theorem State.modCx_sched (f : Ctx → Ctx) : (s.modCx f).sched = s.sched := rfl
@[simp] theorem State.modCx_inputs (f : Ctx → Ctx) : (s.modCx f).inputs = s.inputs := rfl
@[simp] theorem State.modCx_upsets (f : Ctx → Ctx) : (s.modCx f).upsets = s.upsets := rfl
@[simp] theorem State.modCx_fresh (f : Ctx → Ctx) : (s.modCx f).fresh = s.fresh := rfl
@[simp] theorem State.modCx_nextId (f : Ctx → Ctx) : (s.modCx f).nextId = s.nextId := rfl
@[simp] theorem State.modCx_iss (f : Ctx → Ctx) : (s.modCx f).iss = s.iss := rfl
@[simp] theorem State.modCx_arg (f : Ctx → Ctx) : (s.modCx f).arg = s.arg := rfl
@[simp] theorem State.modCx_mem (f : Ctx → Ctx) : (s.modCx f).mem = s.mem := rfl
@[simp] theorem State.modCx_host (f : Ctx → Ctx) : (s.modCx f).host = s.host := rfl
@[simp] theorem State.modCx_lines (f : Ctx → Ctx) : (s.modCx f).lines = s.lines := rfl
@[simp] theorem State.modCx_upds (f : Ctx → Ctx) : (s.modCx f).upds = s.upds := rfl
@[simp] theorem State.modCx_ftdir (f : Ctx → Ctx) : (s.modCx f).ftdir = s.ftdir := rfl
@[simp] theorem State.modCx_hearth (f : Ctx → Ctx) : (s.modCx f).hearth = s.hearth := rfl
@[simp] theorem State.modCx_clus (f : Ctx → Ctx) : (s.modCx f).clus = s.clus := rfl
@[simp] theorem State.modCx_dies (f : Ctx → Ctx) : (s.modCx f).dies = s.dies := rfl
@[simp] theorem State.modCx_bars (f : Ctx → Ctx) : (s.modCx f).bars = s.bars := rfl
@[simp] theorem State.modCx_reqs (f : Ctx → Ctx) : (s.modCx f).reqs = s.reqs := rfl
@[simp] theorem State.modCx_groups (f : Ctx → Ctx) : (s.modCx f).groups = s.groups := rfl
@[simp] theorem State.modCx_vres (f : Ctx → Ctx) : (s.modCx f).vres = s.vres := rfl
@[simp] theorem State.modCx_msgs (f : Ctx → Ctx) : (s.modCx f).msgs = s.msgs := rfl
@[simp] theorem State.modCx_promos (f : Ctx → Ctx) : (s.modCx f).promos = s.promos := rfl
@[simp] theorem State.modCx_rels (f : Ctx → Ctx) : (s.modCx f).rels = s.rels := rfl
@[simp] theorem State.modCx_copies (f : Ctx → Ctx) : (s.modCx f).copies = s.copies := rfl
@[simp] theorem State.modCx_saves (f : Ctx → Ctx) : (s.modCx f).saves = s.saves := rfl
@[simp] theorem State.modCx_dist (f : Ctx → Ctx) : (s.modCx f).dist = s.dist := rfl
@[simp] theorem State.modCx_fq (f : Ctx → Ctx) : (s.modCx f).fq = s.fq := rfl
@[simp] theorem State.modCx_fab (f : Ctx → Ctx) : (s.modCx f).fab = s.fab := rfl
@[simp] theorem State.modCx_coll (f : Ctx → Ctx) : (s.modCx f).coll = s.coll := rfl
@[simp] theorem State.modCx_ck (f : Ctx → Ctx) : (s.modCx f).ck = s.ck := rfl
@[simp] theorem State.modCx_mg (f : Ctx → Ctx) : (s.modCx f).mg = s.mg := rfl

/-! ### modCc -/

@[simp] theorem State.modCc_pcyc (f : Core → Core) : (s.modCc f).pcyc = s.pcyc := rfl
@[simp] theorem State.modCc_ltBase (f : Core → Core) : (s.modCc f).ltBase = s.ltBase := rfl
@[simp] theorem State.modCc_agenda (f : Core → Core) : (s.modCc f).agenda = s.agenda := rfl
@[simp] theorem State.modCc_sched (f : Core → Core) : (s.modCc f).sched = s.sched := rfl
@[simp] theorem State.modCc_inputs (f : Core → Core) : (s.modCc f).inputs = s.inputs := rfl
@[simp] theorem State.modCc_upsets (f : Core → Core) : (s.modCc f).upsets = s.upsets := rfl
@[simp] theorem State.modCc_fresh (f : Core → Core) : (s.modCc f).fresh = s.fresh := rfl
@[simp] theorem State.modCc_nextId (f : Core → Core) : (s.modCc f).nextId = s.nextId := rfl
@[simp] theorem State.modCc_iss (f : Core → Core) : (s.modCc f).iss = s.iss := rfl
@[simp] theorem State.modCc_arg (f : Core → Core) : (s.modCc f).arg = s.arg := rfl
@[simp] theorem State.modCc_mem (f : Core → Core) : (s.modCc f).mem = s.mem := rfl
@[simp] theorem State.modCc_host (f : Core → Core) : (s.modCc f).host = s.host := rfl
@[simp] theorem State.modCc_lines (f : Core → Core) : (s.modCc f).lines = s.lines := rfl
@[simp] theorem State.modCc_upds (f : Core → Core) : (s.modCc f).upds = s.upds := rfl
@[simp] theorem State.modCc_ftdir (f : Core → Core) : (s.modCc f).ftdir = s.ftdir := rfl
@[simp] theorem State.modCc_hearth (f : Core → Core) : (s.modCc f).hearth = s.hearth := rfl
@[simp] theorem State.modCc_clus (f : Core → Core) : (s.modCc f).clus = s.clus := rfl
@[simp] theorem State.modCc_dies (f : Core → Core) : (s.modCc f).dies = s.dies := rfl
@[simp] theorem State.modCc_bars (f : Core → Core) : (s.modCc f).bars = s.bars := rfl
@[simp] theorem State.modCc_reqs (f : Core → Core) : (s.modCc f).reqs = s.reqs := rfl
@[simp] theorem State.modCc_groups (f : Core → Core) : (s.modCc f).groups = s.groups := rfl
@[simp] theorem State.modCc_vres (f : Core → Core) : (s.modCc f).vres = s.vres := rfl
@[simp] theorem State.modCc_msgs (f : Core → Core) : (s.modCc f).msgs = s.msgs := rfl
@[simp] theorem State.modCc_promos (f : Core → Core) : (s.modCc f).promos = s.promos := rfl
@[simp] theorem State.modCc_rels (f : Core → Core) : (s.modCc f).rels = s.rels := rfl
@[simp] theorem State.modCc_copies (f : Core → Core) : (s.modCc f).copies = s.copies := rfl
@[simp] theorem State.modCc_saves (f : Core → Core) : (s.modCc f).saves = s.saves := rfl
@[simp] theorem State.modCc_dist (f : Core → Core) : (s.modCc f).dist = s.dist := rfl
@[simp] theorem State.modCc_fq (f : Core → Core) : (s.modCc f).fq = s.fq := rfl
@[simp] theorem State.modCc_fab (f : Core → Core) : (s.modCc f).fab = s.fab := rfl
@[simp] theorem State.modCc_coll (f : Core → Core) : (s.modCc f).coll = s.coll := rfl
@[simp] theorem State.modCc_ck (f : Core → Core) : (s.modCc f).ck = s.ck := rfl
@[simp] theorem State.modCc_mg (f : Core → Core) : (s.modCc f).mg = s.mg := rfl

/-! ### modClu -/

@[simp] theorem State.modClu_pcyc (c : Nat) (f : Clus → Clus) : (s.modClu c f).pcyc = s.pcyc := rfl
@[simp] theorem State.modClu_ltBase (c : Nat) (f : Clus → Clus) : (s.modClu c f).ltBase = s.ltBase := rfl
@[simp] theorem State.modClu_agenda (c : Nat) (f : Clus → Clus) : (s.modClu c f).agenda = s.agenda := rfl
@[simp] theorem State.modClu_sched (c : Nat) (f : Clus → Clus) : (s.modClu c f).sched = s.sched := rfl
@[simp] theorem State.modClu_inputs (c : Nat) (f : Clus → Clus) : (s.modClu c f).inputs = s.inputs := rfl
@[simp] theorem State.modClu_upsets (c : Nat) (f : Clus → Clus) : (s.modClu c f).upsets = s.upsets := rfl
@[simp] theorem State.modClu_fresh (c : Nat) (f : Clus → Clus) : (s.modClu c f).fresh = s.fresh := rfl
@[simp] theorem State.modClu_nextId (c : Nat) (f : Clus → Clus) : (s.modClu c f).nextId = s.nextId := rfl
@[simp] theorem State.modClu_iss (c : Nat) (f : Clus → Clus) : (s.modClu c f).iss = s.iss := rfl
@[simp] theorem State.modClu_arg (c : Nat) (f : Clus → Clus) : (s.modClu c f).arg = s.arg := rfl
@[simp] theorem State.modClu_mem (c : Nat) (f : Clus → Clus) : (s.modClu c f).mem = s.mem := rfl
@[simp] theorem State.modClu_host (c : Nat) (f : Clus → Clus) : (s.modClu c f).host = s.host := rfl
@[simp] theorem State.modClu_lines (c : Nat) (f : Clus → Clus) : (s.modClu c f).lines = s.lines := rfl
@[simp] theorem State.modClu_upds (c : Nat) (f : Clus → Clus) : (s.modClu c f).upds = s.upds := rfl
@[simp] theorem State.modClu_ftdir (c : Nat) (f : Clus → Clus) : (s.modClu c f).ftdir = s.ftdir := rfl
@[simp] theorem State.modClu_hearth (c : Nat) (f : Clus → Clus) : (s.modClu c f).hearth = s.hearth := rfl
@[simp] theorem State.modClu_cores (c : Nat) (f : Clus → Clus) : (s.modClu c f).cores = s.cores := rfl
@[simp] theorem State.modClu_dies (c : Nat) (f : Clus → Clus) : (s.modClu c f).dies = s.dies := rfl
@[simp] theorem State.modClu_bars (c : Nat) (f : Clus → Clus) : (s.modClu c f).bars = s.bars := rfl
@[simp] theorem State.modClu_reqs (c : Nat) (f : Clus → Clus) : (s.modClu c f).reqs = s.reqs := rfl
@[simp] theorem State.modClu_groups (c : Nat) (f : Clus → Clus) : (s.modClu c f).groups = s.groups := rfl
@[simp] theorem State.modClu_vres (c : Nat) (f : Clus → Clus) : (s.modClu c f).vres = s.vres := rfl
@[simp] theorem State.modClu_msgs (c : Nat) (f : Clus → Clus) : (s.modClu c f).msgs = s.msgs := rfl
@[simp] theorem State.modClu_promos (c : Nat) (f : Clus → Clus) : (s.modClu c f).promos = s.promos := rfl
@[simp] theorem State.modClu_rels (c : Nat) (f : Clus → Clus) : (s.modClu c f).rels = s.rels := rfl
@[simp] theorem State.modClu_copies (c : Nat) (f : Clus → Clus) : (s.modClu c f).copies = s.copies := rfl
@[simp] theorem State.modClu_saves (c : Nat) (f : Clus → Clus) : (s.modClu c f).saves = s.saves := rfl
@[simp] theorem State.modClu_dist (c : Nat) (f : Clus → Clus) : (s.modClu c f).dist = s.dist := rfl
@[simp] theorem State.modClu_fq (c : Nat) (f : Clus → Clus) : (s.modClu c f).fq = s.fq := rfl
@[simp] theorem State.modClu_fab (c : Nat) (f : Clus → Clus) : (s.modClu c f).fab = s.fab := rfl
@[simp] theorem State.modClu_coll (c : Nat) (f : Clus → Clus) : (s.modClu c f).coll = s.coll := rfl
@[simp] theorem State.modClu_ck (c : Nat) (f : Clus → Clus) : (s.modClu c f).ck = s.ck := rfl
@[simp] theorem State.modClu_mg (c : Nat) (f : Clus → Clus) : (s.modClu c f).mg = s.mg := rfl

/-! ### modDie -/

@[simp] theorem State.modDie_pcyc (d : Nat) (f : Die → Die) : (s.modDie d f).pcyc = s.pcyc := rfl
@[simp] theorem State.modDie_ltBase (d : Nat) (f : Die → Die) : (s.modDie d f).ltBase = s.ltBase := rfl
@[simp] theorem State.modDie_agenda (d : Nat) (f : Die → Die) : (s.modDie d f).agenda = s.agenda := rfl
@[simp] theorem State.modDie_sched (d : Nat) (f : Die → Die) : (s.modDie d f).sched = s.sched := rfl
@[simp] theorem State.modDie_inputs (d : Nat) (f : Die → Die) : (s.modDie d f).inputs = s.inputs := rfl
@[simp] theorem State.modDie_upsets (d : Nat) (f : Die → Die) : (s.modDie d f).upsets = s.upsets := rfl
@[simp] theorem State.modDie_fresh (d : Nat) (f : Die → Die) : (s.modDie d f).fresh = s.fresh := rfl
@[simp] theorem State.modDie_nextId (d : Nat) (f : Die → Die) : (s.modDie d f).nextId = s.nextId := rfl
@[simp] theorem State.modDie_iss (d : Nat) (f : Die → Die) : (s.modDie d f).iss = s.iss := rfl
@[simp] theorem State.modDie_arg (d : Nat) (f : Die → Die) : (s.modDie d f).arg = s.arg := rfl
@[simp] theorem State.modDie_mem (d : Nat) (f : Die → Die) : (s.modDie d f).mem = s.mem := rfl
@[simp] theorem State.modDie_host (d : Nat) (f : Die → Die) : (s.modDie d f).host = s.host := rfl
@[simp] theorem State.modDie_lines (d : Nat) (f : Die → Die) : (s.modDie d f).lines = s.lines := rfl
@[simp] theorem State.modDie_upds (d : Nat) (f : Die → Die) : (s.modDie d f).upds = s.upds := rfl
@[simp] theorem State.modDie_ftdir (d : Nat) (f : Die → Die) : (s.modDie d f).ftdir = s.ftdir := rfl
@[simp] theorem State.modDie_hearth (d : Nat) (f : Die → Die) : (s.modDie d f).hearth = s.hearth := rfl
@[simp] theorem State.modDie_cores (d : Nat) (f : Die → Die) : (s.modDie d f).cores = s.cores := rfl
@[simp] theorem State.modDie_clus (d : Nat) (f : Die → Die) : (s.modDie d f).clus = s.clus := rfl
@[simp] theorem State.modDie_bars (d : Nat) (f : Die → Die) : (s.modDie d f).bars = s.bars := rfl
@[simp] theorem State.modDie_reqs (d : Nat) (f : Die → Die) : (s.modDie d f).reqs = s.reqs := rfl
@[simp] theorem State.modDie_groups (d : Nat) (f : Die → Die) : (s.modDie d f).groups = s.groups := rfl
@[simp] theorem State.modDie_vres (d : Nat) (f : Die → Die) : (s.modDie d f).vres = s.vres := rfl
@[simp] theorem State.modDie_msgs (d : Nat) (f : Die → Die) : (s.modDie d f).msgs = s.msgs := rfl
@[simp] theorem State.modDie_promos (d : Nat) (f : Die → Die) : (s.modDie d f).promos = s.promos := rfl
@[simp] theorem State.modDie_rels (d : Nat) (f : Die → Die) : (s.modDie d f).rels = s.rels := rfl
@[simp] theorem State.modDie_copies (d : Nat) (f : Die → Die) : (s.modDie d f).copies = s.copies := rfl
@[simp] theorem State.modDie_saves (d : Nat) (f : Die → Die) : (s.modDie d f).saves = s.saves := rfl
@[simp] theorem State.modDie_dist (d : Nat) (f : Die → Die) : (s.modDie d f).dist = s.dist := rfl
@[simp] theorem State.modDie_fq (d : Nat) (f : Die → Die) : (s.modDie d f).fq = s.fq := rfl
@[simp] theorem State.modDie_fab (d : Nat) (f : Die → Die) : (s.modDie d f).fab = s.fab := rfl
@[simp] theorem State.modDie_coll (d : Nat) (f : Die → Die) : (s.modDie d f).coll = s.coll := rfl
@[simp] theorem State.modDie_ck (d : Nat) (f : Die → Die) : (s.modDie d f).ck = s.ck := rfl
@[simp] theorem State.modDie_mg (d : Nat) (f : Die → Die) : (s.modDie d f).mg = s.mg := rfl

/-! ### modLaunch -/

@[simp] theorem State.modLaunch_pcyc (l : Nat) (f : Launch → Launch) : (s.modLaunch l f).pcyc = s.pcyc := rfl
@[simp] theorem State.modLaunch_ltBase (l : Nat) (f : Launch → Launch) : (s.modLaunch l f).ltBase = s.ltBase := rfl
@[simp] theorem State.modLaunch_agenda (l : Nat) (f : Launch → Launch) : (s.modLaunch l f).agenda = s.agenda := rfl
@[simp] theorem State.modLaunch_sched (l : Nat) (f : Launch → Launch) : (s.modLaunch l f).sched = s.sched := rfl
@[simp] theorem State.modLaunch_inputs (l : Nat) (f : Launch → Launch) : (s.modLaunch l f).inputs = s.inputs := rfl
@[simp] theorem State.modLaunch_upsets (l : Nat) (f : Launch → Launch) : (s.modLaunch l f).upsets = s.upsets := rfl
@[simp] theorem State.modLaunch_fresh (l : Nat) (f : Launch → Launch) : (s.modLaunch l f).fresh = s.fresh := rfl
@[simp] theorem State.modLaunch_nextId (l : Nat) (f : Launch → Launch) : (s.modLaunch l f).nextId = s.nextId := rfl
@[simp] theorem State.modLaunch_iss (l : Nat) (f : Launch → Launch) : (s.modLaunch l f).iss = s.iss := rfl
@[simp] theorem State.modLaunch_arg (l : Nat) (f : Launch → Launch) : (s.modLaunch l f).arg = s.arg := rfl
@[simp] theorem State.modLaunch_mem (l : Nat) (f : Launch → Launch) : (s.modLaunch l f).mem = s.mem := rfl
@[simp] theorem State.modLaunch_host (l : Nat) (f : Launch → Launch) : (s.modLaunch l f).host = s.host := rfl
@[simp] theorem State.modLaunch_lines (l : Nat) (f : Launch → Launch) : (s.modLaunch l f).lines = s.lines := rfl
@[simp] theorem State.modLaunch_upds (l : Nat) (f : Launch → Launch) : (s.modLaunch l f).upds = s.upds := rfl
@[simp] theorem State.modLaunch_ftdir (l : Nat) (f : Launch → Launch) : (s.modLaunch l f).ftdir = s.ftdir := rfl
@[simp] theorem State.modLaunch_hearth (l : Nat) (f : Launch → Launch) : (s.modLaunch l f).hearth = s.hearth := rfl
@[simp] theorem State.modLaunch_cores (l : Nat) (f : Launch → Launch) : (s.modLaunch l f).cores = s.cores := rfl
@[simp] theorem State.modLaunch_clus (l : Nat) (f : Launch → Launch) : (s.modLaunch l f).clus = s.clus := rfl
@[simp] theorem State.modLaunch_dies (l : Nat) (f : Launch → Launch) : (s.modLaunch l f).dies = s.dies := rfl
@[simp] theorem State.modLaunch_bars (l : Nat) (f : Launch → Launch) : (s.modLaunch l f).bars = s.bars := rfl
@[simp] theorem State.modLaunch_reqs (l : Nat) (f : Launch → Launch) : (s.modLaunch l f).reqs = s.reqs := rfl
@[simp] theorem State.modLaunch_groups (l : Nat) (f : Launch → Launch) : (s.modLaunch l f).groups = s.groups := rfl
@[simp] theorem State.modLaunch_vres (l : Nat) (f : Launch → Launch) : (s.modLaunch l f).vres = s.vres := rfl
@[simp] theorem State.modLaunch_msgs (l : Nat) (f : Launch → Launch) : (s.modLaunch l f).msgs = s.msgs := rfl
@[simp] theorem State.modLaunch_promos (l : Nat) (f : Launch → Launch) : (s.modLaunch l f).promos = s.promos := rfl
@[simp] theorem State.modLaunch_rels (l : Nat) (f : Launch → Launch) : (s.modLaunch l f).rels = s.rels := rfl
@[simp] theorem State.modLaunch_copies (l : Nat) (f : Launch → Launch) : (s.modLaunch l f).copies = s.copies := rfl
@[simp] theorem State.modLaunch_saves (l : Nat) (f : Launch → Launch) : (s.modLaunch l f).saves = s.saves := rfl
@[simp] theorem State.modLaunch_fq (l : Nat) (f : Launch → Launch) : (s.modLaunch l f).fq = s.fq := rfl
@[simp] theorem State.modLaunch_fab (l : Nat) (f : Launch → Launch) : (s.modLaunch l f).fab = s.fab := rfl
@[simp] theorem State.modLaunch_coll (l : Nat) (f : Launch → Launch) : (s.modLaunch l f).coll = s.coll := rfl
@[simp] theorem State.modLaunch_ck (l : Nat) (f : Launch → Launch) : (s.modLaunch l f).ck = s.ck := rfl
@[simp] theorem State.modLaunch_mg (l : Nat) (f : Launch → Launch) : (s.modLaunch l f).mg = s.mg := rfl

/-! ### sched_ -/

@[simp] theorem State.sched_pcyc (due route : Nat) (i : Instr) (a : Arg) : (s.sched_ due route i a).pcyc = s.pcyc := rfl
@[simp] theorem State.sched_ltBase (due route : Nat) (i : Instr) (a : Arg) : (s.sched_ due route i a).ltBase = s.ltBase := rfl
@[simp] theorem State.sched_agenda (due route : Nat) (i : Instr) (a : Arg) : (s.sched_ due route i a).agenda = s.agenda := rfl
@[simp] theorem State.sched_inputs (due route : Nat) (i : Instr) (a : Arg) : (s.sched_ due route i a).inputs = s.inputs := rfl
@[simp] theorem State.sched_upsets (due route : Nat) (i : Instr) (a : Arg) : (s.sched_ due route i a).upsets = s.upsets := rfl
@[simp] theorem State.sched_fresh (due route : Nat) (i : Instr) (a : Arg) : (s.sched_ due route i a).fresh = s.fresh := rfl
@[simp] theorem State.sched_nextId (due route : Nat) (i : Instr) (a : Arg) : (s.sched_ due route i a).nextId = s.nextId := rfl
@[simp] theorem State.sched_iss (due route : Nat) (i : Instr) (a : Arg) : (s.sched_ due route i a).iss = s.iss := rfl
@[simp] theorem State.sched_arg (due route : Nat) (i : Instr) (a : Arg) : (s.sched_ due route i a).arg = s.arg := rfl
@[simp] theorem State.sched_mem (due route : Nat) (i : Instr) (a : Arg) : (s.sched_ due route i a).mem = s.mem := rfl
@[simp] theorem State.sched_host (due route : Nat) (i : Instr) (a : Arg) : (s.sched_ due route i a).host = s.host := rfl
@[simp] theorem State.sched_lines (due route : Nat) (i : Instr) (a : Arg) : (s.sched_ due route i a).lines = s.lines := rfl
@[simp] theorem State.sched_upds (due route : Nat) (i : Instr) (a : Arg) : (s.sched_ due route i a).upds = s.upds := rfl
@[simp] theorem State.sched_ftdir (due route : Nat) (i : Instr) (a : Arg) : (s.sched_ due route i a).ftdir = s.ftdir := rfl
@[simp] theorem State.sched_hearth (due route : Nat) (i : Instr) (a : Arg) : (s.sched_ due route i a).hearth = s.hearth := rfl
@[simp] theorem State.sched_cores (due route : Nat) (i : Instr) (a : Arg) : (s.sched_ due route i a).cores = s.cores := rfl
@[simp] theorem State.sched_clus (due route : Nat) (i : Instr) (a : Arg) : (s.sched_ due route i a).clus = s.clus := rfl
@[simp] theorem State.sched_dies (due route : Nat) (i : Instr) (a : Arg) : (s.sched_ due route i a).dies = s.dies := rfl
@[simp] theorem State.sched_bars (due route : Nat) (i : Instr) (a : Arg) : (s.sched_ due route i a).bars = s.bars := rfl
@[simp] theorem State.sched_reqs (due route : Nat) (i : Instr) (a : Arg) : (s.sched_ due route i a).reqs = s.reqs := rfl
@[simp] theorem State.sched_groups (due route : Nat) (i : Instr) (a : Arg) : (s.sched_ due route i a).groups = s.groups := rfl
@[simp] theorem State.sched_vres (due route : Nat) (i : Instr) (a : Arg) : (s.sched_ due route i a).vres = s.vres := rfl
@[simp] theorem State.sched_msgs (due route : Nat) (i : Instr) (a : Arg) : (s.sched_ due route i a).msgs = s.msgs := rfl
@[simp] theorem State.sched_promos (due route : Nat) (i : Instr) (a : Arg) : (s.sched_ due route i a).promos = s.promos := rfl
@[simp] theorem State.sched_rels (due route : Nat) (i : Instr) (a : Arg) : (s.sched_ due route i a).rels = s.rels := rfl
@[simp] theorem State.sched_copies (due route : Nat) (i : Instr) (a : Arg) : (s.sched_ due route i a).copies = s.copies := rfl
@[simp] theorem State.sched_saves (due route : Nat) (i : Instr) (a : Arg) : (s.sched_ due route i a).saves = s.saves := rfl
@[simp] theorem State.sched_dist (due route : Nat) (i : Instr) (a : Arg) : (s.sched_ due route i a).dist = s.dist := rfl
@[simp] theorem State.sched_fq (due route : Nat) (i : Instr) (a : Arg) : (s.sched_ due route i a).fq = s.fq := rfl
@[simp] theorem State.sched_fab (due route : Nat) (i : Instr) (a : Arg) : (s.sched_ due route i a).fab = s.fab := rfl
@[simp] theorem State.sched_coll (due route : Nat) (i : Instr) (a : Arg) : (s.sched_ due route i a).coll = s.coll := rfl
@[simp] theorem State.sched_ck (due route : Nat) (i : Instr) (a : Arg) : (s.sched_ due route i a).ck = s.ck := rfl
@[simp] theorem State.sched_mg (due route : Nat) (i : Instr) (a : Arg) : (s.sched_ due route i a).mg = s.mg := rfl

/-! ### after -/

@[simp] theorem State.after_pcyc (least route : Nat) (i : Instr) (a : Arg) : (s.after least route i a).pcyc = s.pcyc := rfl
@[simp] theorem State.after_ltBase (least route : Nat) (i : Instr) (a : Arg) : (s.after least route i a).ltBase = s.ltBase := rfl
@[simp] theorem State.after_agenda (least route : Nat) (i : Instr) (a : Arg) : (s.after least route i a).agenda = s.agenda := rfl
@[simp] theorem State.after_inputs (least route : Nat) (i : Instr) (a : Arg) : (s.after least route i a).inputs = s.inputs := rfl
@[simp] theorem State.after_upsets (least route : Nat) (i : Instr) (a : Arg) : (s.after least route i a).upsets = s.upsets := rfl
@[simp] theorem State.after_nextId (least route : Nat) (i : Instr) (a : Arg) : (s.after least route i a).nextId = s.nextId := rfl
@[simp] theorem State.after_iss (least route : Nat) (i : Instr) (a : Arg) : (s.after least route i a).iss = s.iss := rfl
@[simp] theorem State.after_arg (least route : Nat) (i : Instr) (a : Arg) : (s.after least route i a).arg = s.arg := rfl
@[simp] theorem State.after_mem (least route : Nat) (i : Instr) (a : Arg) : (s.after least route i a).mem = s.mem := rfl
@[simp] theorem State.after_host (least route : Nat) (i : Instr) (a : Arg) : (s.after least route i a).host = s.host := rfl
@[simp] theorem State.after_lines (least route : Nat) (i : Instr) (a : Arg) : (s.after least route i a).lines = s.lines := rfl
@[simp] theorem State.after_upds (least route : Nat) (i : Instr) (a : Arg) : (s.after least route i a).upds = s.upds := rfl
@[simp] theorem State.after_ftdir (least route : Nat) (i : Instr) (a : Arg) : (s.after least route i a).ftdir = s.ftdir := rfl
@[simp] theorem State.after_hearth (least route : Nat) (i : Instr) (a : Arg) : (s.after least route i a).hearth = s.hearth := rfl
@[simp] theorem State.after_cores (least route : Nat) (i : Instr) (a : Arg) : (s.after least route i a).cores = s.cores := rfl
@[simp] theorem State.after_clus (least route : Nat) (i : Instr) (a : Arg) : (s.after least route i a).clus = s.clus := rfl
@[simp] theorem State.after_dies (least route : Nat) (i : Instr) (a : Arg) : (s.after least route i a).dies = s.dies := rfl
@[simp] theorem State.after_bars (least route : Nat) (i : Instr) (a : Arg) : (s.after least route i a).bars = s.bars := rfl
@[simp] theorem State.after_reqs (least route : Nat) (i : Instr) (a : Arg) : (s.after least route i a).reqs = s.reqs := rfl
@[simp] theorem State.after_groups (least route : Nat) (i : Instr) (a : Arg) : (s.after least route i a).groups = s.groups := rfl
@[simp] theorem State.after_vres (least route : Nat) (i : Instr) (a : Arg) : (s.after least route i a).vres = s.vres := rfl
@[simp] theorem State.after_msgs (least route : Nat) (i : Instr) (a : Arg) : (s.after least route i a).msgs = s.msgs := rfl
@[simp] theorem State.after_promos (least route : Nat) (i : Instr) (a : Arg) : (s.after least route i a).promos = s.promos := rfl
@[simp] theorem State.after_rels (least route : Nat) (i : Instr) (a : Arg) : (s.after least route i a).rels = s.rels := rfl
@[simp] theorem State.after_copies (least route : Nat) (i : Instr) (a : Arg) : (s.after least route i a).copies = s.copies := rfl
@[simp] theorem State.after_saves (least route : Nat) (i : Instr) (a : Arg) : (s.after least route i a).saves = s.saves := rfl
@[simp] theorem State.after_dist (least route : Nat) (i : Instr) (a : Arg) : (s.after least route i a).dist = s.dist := rfl
@[simp] theorem State.after_fq (least route : Nat) (i : Instr) (a : Arg) : (s.after least route i a).fq = s.fq := rfl
@[simp] theorem State.after_fab (least route : Nat) (i : Instr) (a : Arg) : (s.after least route i a).fab = s.fab := rfl
@[simp] theorem State.after_coll (least route : Nat) (i : Instr) (a : Arg) : (s.after least route i a).coll = s.coll := rfl
@[simp] theorem State.after_ck (least route : Nat) (i : Instr) (a : Arg) : (s.after least route i a).ck = s.ck := rfl
@[simp] theorem State.after_mg (least route : Nat) (i : Instr) (a : Arg) : (s.after least route i a).mg = s.mg := rfl

/-! ### hold -/

@[simp] theorem State.hold_pcyc : (s.hold).pcyc = s.pcyc := rfl
@[simp] theorem State.hold_ltBase : (s.hold).ltBase = s.ltBase := rfl
@[simp] theorem State.hold_agenda : (s.hold).agenda = s.agenda := rfl
@[simp] theorem State.hold_sched : (s.hold).sched = s.sched := rfl
@[simp] theorem State.hold_inputs : (s.hold).inputs = s.inputs := rfl
@[simp] theorem State.hold_upsets : (s.hold).upsets = s.upsets := rfl
@[simp] theorem State.hold_fresh : (s.hold).fresh = s.fresh := rfl
@[simp] theorem State.hold_nextId : (s.hold).nextId = s.nextId := rfl
@[simp] theorem State.hold_arg : (s.hold).arg = s.arg := rfl
@[simp] theorem State.hold_mem : (s.hold).mem = s.mem := rfl
@[simp] theorem State.hold_host : (s.hold).host = s.host := rfl
@[simp] theorem State.hold_lines : (s.hold).lines = s.lines := rfl
@[simp] theorem State.hold_upds : (s.hold).upds = s.upds := rfl
@[simp] theorem State.hold_ftdir : (s.hold).ftdir = s.ftdir := rfl
@[simp] theorem State.hold_hearth : (s.hold).hearth = s.hearth := rfl
@[simp] theorem State.hold_cores : (s.hold).cores = s.cores := rfl
@[simp] theorem State.hold_clus : (s.hold).clus = s.clus := rfl
@[simp] theorem State.hold_dies : (s.hold).dies = s.dies := rfl
@[simp] theorem State.hold_bars : (s.hold).bars = s.bars := rfl
@[simp] theorem State.hold_reqs : (s.hold).reqs = s.reqs := rfl
@[simp] theorem State.hold_groups : (s.hold).groups = s.groups := rfl
@[simp] theorem State.hold_vres : (s.hold).vres = s.vres := rfl
@[simp] theorem State.hold_msgs : (s.hold).msgs = s.msgs := rfl
@[simp] theorem State.hold_promos : (s.hold).promos = s.promos := rfl
@[simp] theorem State.hold_rels : (s.hold).rels = s.rels := rfl
@[simp] theorem State.hold_copies : (s.hold).copies = s.copies := rfl
@[simp] theorem State.hold_saves : (s.hold).saves = s.saves := rfl
@[simp] theorem State.hold_dist : (s.hold).dist = s.dist := rfl
@[simp] theorem State.hold_fq : (s.hold).fq = s.fq := rfl
@[simp] theorem State.hold_fab : (s.hold).fab = s.fab := rfl
@[simp] theorem State.hold_coll : (s.hold).coll = s.coll := rfl
@[simp] theorem State.hold_ck : (s.hold).ck = s.ck := rfl
@[simp] theorem State.hold_mg : (s.hold).mg = s.mg := rfl

/-! ### effect -/

@[simp] theorem State.effect_pcyc (e : Effect) : (s.effect e).pcyc = s.pcyc := rfl
@[simp] theorem State.effect_ltBase (e : Effect) : (s.effect e).ltBase = s.ltBase := rfl
@[simp] theorem State.effect_agenda (e : Effect) : (s.effect e).agenda = s.agenda := rfl
@[simp] theorem State.effect_sched (e : Effect) : (s.effect e).sched = s.sched := rfl
@[simp] theorem State.effect_inputs (e : Effect) : (s.effect e).inputs = s.inputs := rfl
@[simp] theorem State.effect_upsets (e : Effect) : (s.effect e).upsets = s.upsets := rfl
@[simp] theorem State.effect_fresh (e : Effect) : (s.effect e).fresh = s.fresh := rfl
@[simp] theorem State.effect_nextId (e : Effect) : (s.effect e).nextId = s.nextId := rfl
@[simp] theorem State.effect_arg (e : Effect) : (s.effect e).arg = s.arg := rfl
@[simp] theorem State.effect_mem (e : Effect) : (s.effect e).mem = s.mem := rfl
@[simp] theorem State.effect_host (e : Effect) : (s.effect e).host = s.host := rfl
@[simp] theorem State.effect_lines (e : Effect) : (s.effect e).lines = s.lines := rfl
@[simp] theorem State.effect_upds (e : Effect) : (s.effect e).upds = s.upds := rfl
@[simp] theorem State.effect_ftdir (e : Effect) : (s.effect e).ftdir = s.ftdir := rfl
@[simp] theorem State.effect_hearth (e : Effect) : (s.effect e).hearth = s.hearth := rfl
@[simp] theorem State.effect_cores (e : Effect) : (s.effect e).cores = s.cores := rfl
@[simp] theorem State.effect_clus (e : Effect) : (s.effect e).clus = s.clus := rfl
@[simp] theorem State.effect_dies (e : Effect) : (s.effect e).dies = s.dies := rfl
@[simp] theorem State.effect_bars (e : Effect) : (s.effect e).bars = s.bars := rfl
@[simp] theorem State.effect_reqs (e : Effect) : (s.effect e).reqs = s.reqs := rfl
@[simp] theorem State.effect_groups (e : Effect) : (s.effect e).groups = s.groups := rfl
@[simp] theorem State.effect_vres (e : Effect) : (s.effect e).vres = s.vres := rfl
@[simp] theorem State.effect_msgs (e : Effect) : (s.effect e).msgs = s.msgs := rfl
@[simp] theorem State.effect_promos (e : Effect) : (s.effect e).promos = s.promos := rfl
@[simp] theorem State.effect_rels (e : Effect) : (s.effect e).rels = s.rels := rfl
@[simp] theorem State.effect_copies (e : Effect) : (s.effect e).copies = s.copies := rfl
@[simp] theorem State.effect_saves (e : Effect) : (s.effect e).saves = s.saves := rfl
@[simp] theorem State.effect_dist (e : Effect) : (s.effect e).dist = s.dist := rfl
@[simp] theorem State.effect_fq (e : Effect) : (s.effect e).fq = s.fq := rfl
@[simp] theorem State.effect_fab (e : Effect) : (s.effect e).fab = s.fab := rfl
@[simp] theorem State.effect_coll (e : Effect) : (s.effect e).coll = s.coll := rfl
@[simp] theorem State.effect_ck (e : Effect) : (s.effect e).ck = s.ck := rfl
@[simp] theorem State.effect_mg (e : Effect) : (s.effect e).mg = s.mg := rfl

/-! ### declare -/

@[simp] theorem State.declare_pcyc (l : List Use) : (s.declare l).pcyc = s.pcyc := rfl
@[simp] theorem State.declare_ltBase (l : List Use) : (s.declare l).ltBase = s.ltBase := rfl
@[simp] theorem State.declare_agenda (l : List Use) : (s.declare l).agenda = s.agenda := rfl
@[simp] theorem State.declare_sched (l : List Use) : (s.declare l).sched = s.sched := rfl
@[simp] theorem State.declare_inputs (l : List Use) : (s.declare l).inputs = s.inputs := rfl
@[simp] theorem State.declare_upsets (l : List Use) : (s.declare l).upsets = s.upsets := rfl
@[simp] theorem State.declare_fresh (l : List Use) : (s.declare l).fresh = s.fresh := rfl
@[simp] theorem State.declare_nextId (l : List Use) : (s.declare l).nextId = s.nextId := rfl
@[simp] theorem State.declare_arg (l : List Use) : (s.declare l).arg = s.arg := rfl
@[simp] theorem State.declare_mem (l : List Use) : (s.declare l).mem = s.mem := rfl
@[simp] theorem State.declare_host (l : List Use) : (s.declare l).host = s.host := rfl
@[simp] theorem State.declare_lines (l : List Use) : (s.declare l).lines = s.lines := rfl
@[simp] theorem State.declare_upds (l : List Use) : (s.declare l).upds = s.upds := rfl
@[simp] theorem State.declare_ftdir (l : List Use) : (s.declare l).ftdir = s.ftdir := rfl
@[simp] theorem State.declare_hearth (l : List Use) : (s.declare l).hearth = s.hearth := rfl
@[simp] theorem State.declare_cores (l : List Use) : (s.declare l).cores = s.cores := rfl
@[simp] theorem State.declare_clus (l : List Use) : (s.declare l).clus = s.clus := rfl
@[simp] theorem State.declare_dies (l : List Use) : (s.declare l).dies = s.dies := rfl
@[simp] theorem State.declare_bars (l : List Use) : (s.declare l).bars = s.bars := rfl
@[simp] theorem State.declare_reqs (l : List Use) : (s.declare l).reqs = s.reqs := rfl
@[simp] theorem State.declare_groups (l : List Use) : (s.declare l).groups = s.groups := rfl
@[simp] theorem State.declare_vres (l : List Use) : (s.declare l).vres = s.vres := rfl
@[simp] theorem State.declare_msgs (l : List Use) : (s.declare l).msgs = s.msgs := rfl
@[simp] theorem State.declare_promos (l : List Use) : (s.declare l).promos = s.promos := rfl
@[simp] theorem State.declare_rels (l : List Use) : (s.declare l).rels = s.rels := rfl
@[simp] theorem State.declare_copies (l : List Use) : (s.declare l).copies = s.copies := rfl
@[simp] theorem State.declare_saves (l : List Use) : (s.declare l).saves = s.saves := rfl
@[simp] theorem State.declare_dist (l : List Use) : (s.declare l).dist = s.dist := rfl
@[simp] theorem State.declare_fq (l : List Use) : (s.declare l).fq = s.fq := rfl
@[simp] theorem State.declare_fab (l : List Use) : (s.declare l).fab = s.fab := rfl
@[simp] theorem State.declare_coll (l : List Use) : (s.declare l).coll = s.coll := rfl
@[simp] theorem State.declare_ck (l : List Use) : (s.declare l).ck = s.ck := rfl
@[simp] theorem State.declare_mg (l : List Use) : (s.declare l).mg = s.mg := rfl

/-! ### addEntry -/

@[simp] theorem State.addEntry_pcyc (g : Grant) (k : EntryKind) : (s.addEntry g k).pcyc = s.pcyc := rfl
@[simp] theorem State.addEntry_ltBase (g : Grant) (k : EntryKind) : (s.addEntry g k).ltBase = s.ltBase := rfl
@[simp] theorem State.addEntry_agenda (g : Grant) (k : EntryKind) : (s.addEntry g k).agenda = s.agenda := rfl
@[simp] theorem State.addEntry_sched (g : Grant) (k : EntryKind) : (s.addEntry g k).sched = s.sched := rfl
@[simp] theorem State.addEntry_inputs (g : Grant) (k : EntryKind) : (s.addEntry g k).inputs = s.inputs := rfl
@[simp] theorem State.addEntry_upsets (g : Grant) (k : EntryKind) : (s.addEntry g k).upsets = s.upsets := rfl
@[simp] theorem State.addEntry_fresh (g : Grant) (k : EntryKind) : (s.addEntry g k).fresh = s.fresh := rfl
@[simp] theorem State.addEntry_iss (g : Grant) (k : EntryKind) : (s.addEntry g k).iss = s.iss := rfl
@[simp] theorem State.addEntry_arg (g : Grant) (k : EntryKind) : (s.addEntry g k).arg = s.arg := rfl
@[simp] theorem State.addEntry_mem (g : Grant) (k : EntryKind) : (s.addEntry g k).mem = s.mem := rfl
@[simp] theorem State.addEntry_host (g : Grant) (k : EntryKind) : (s.addEntry g k).host = s.host := rfl
@[simp] theorem State.addEntry_lines (g : Grant) (k : EntryKind) : (s.addEntry g k).lines = s.lines := rfl
@[simp] theorem State.addEntry_upds (g : Grant) (k : EntryKind) : (s.addEntry g k).upds = s.upds := rfl
@[simp] theorem State.addEntry_ftdir (g : Grant) (k : EntryKind) : (s.addEntry g k).ftdir = s.ftdir := rfl
@[simp] theorem State.addEntry_hearth (g : Grant) (k : EntryKind) : (s.addEntry g k).hearth = s.hearth := rfl
@[simp] theorem State.addEntry_clus (g : Grant) (k : EntryKind) : (s.addEntry g k).clus = s.clus := rfl
@[simp] theorem State.addEntry_dies (g : Grant) (k : EntryKind) : (s.addEntry g k).dies = s.dies := rfl
@[simp] theorem State.addEntry_bars (g : Grant) (k : EntryKind) : (s.addEntry g k).bars = s.bars := rfl
@[simp] theorem State.addEntry_reqs (g : Grant) (k : EntryKind) : (s.addEntry g k).reqs = s.reqs := rfl
@[simp] theorem State.addEntry_groups (g : Grant) (k : EntryKind) : (s.addEntry g k).groups = s.groups := rfl
@[simp] theorem State.addEntry_vres (g : Grant) (k : EntryKind) : (s.addEntry g k).vres = s.vres := rfl
@[simp] theorem State.addEntry_msgs (g : Grant) (k : EntryKind) : (s.addEntry g k).msgs = s.msgs := rfl
@[simp] theorem State.addEntry_promos (g : Grant) (k : EntryKind) : (s.addEntry g k).promos = s.promos := rfl
@[simp] theorem State.addEntry_rels (g : Grant) (k : EntryKind) : (s.addEntry g k).rels = s.rels := rfl
@[simp] theorem State.addEntry_copies (g : Grant) (k : EntryKind) : (s.addEntry g k).copies = s.copies := rfl
@[simp] theorem State.addEntry_saves (g : Grant) (k : EntryKind) : (s.addEntry g k).saves = s.saves := rfl
@[simp] theorem State.addEntry_dist (g : Grant) (k : EntryKind) : (s.addEntry g k).dist = s.dist := rfl
@[simp] theorem State.addEntry_fq (g : Grant) (k : EntryKind) : (s.addEntry g k).fq = s.fq := rfl
@[simp] theorem State.addEntry_fab (g : Grant) (k : EntryKind) : (s.addEntry g k).fab = s.fab := rfl
@[simp] theorem State.addEntry_coll (g : Grant) (k : EntryKind) : (s.addEntry g k).coll = s.coll := rfl
@[simp] theorem State.addEntry_ck (g : Grant) (k : EntryKind) : (s.addEntry g k).ck = s.ck := rfl
@[simp] theorem State.addEntry_mg (g : Grant) (k : EntryKind) : (s.addEntry g k).mg = s.mg := rfl

end Sys2Proof.Machine
end

