-- ==== Sys2Proof/Laws/Tables.lean ====
section
/-! SUPPORT. Sparse tables and canonical memory: read after write, and that every write of memory keeps the canonical form. -/

namespace Sys2Proof.Machine

/-! ### Tables -/

@[simp] theorem tget_tset_self {α : Type} (t : Tab α) (n : Nat) (v d : α) : tget (tset t n v) n d = v := by
  induction t with
  | nil => simp [tset, tget]
  | cons p t ih =>
    obtain ⟨m, w⟩ := p
    simp only [tset]
    split_ifs with h1 h2
    · simp [tget]
    · simp [tget]
    · simp [tget, Ne.symm h2, ih]

theorem tget_tset_ne {α : Type} (t : Tab α) {n k : Nat} (v d : α) (h : k ≠ n) : tget (tset t n v) k d = tget t k d := by
  induction t with
  | nil => simp [tset, tget, Ne.symm h]
  | cons p t ih =>
    obtain ⟨m, w⟩ := p
    simp only [tset]
    split_ifs with h1 h2
    · simp [tget, Ne.symm h]
    · subst h2; simp [tget, Ne.symm h]
    · simp [tget, ih]

@[simp] theorem tget_tdel_self {α : Type} (t : Tab α) (n : Nat) (d : α) : tget (tdel t n) n d = d := by
  induction t with
  | nil => simp [tdel, tget]
  | cons p t ih =>
    obtain ⟨m, w⟩ := p
    by_cases h : m = n
    · simpa [tdel, h] using ih
    · simpa [tdel, tget, h] using ih

theorem tget_tdel_ne {α : Type} (t : Tab α) {n k : Nat} (d : α) (h : k ≠ n) : tget (tdel t n) k d = tget t k d := by
  induction t with
  | nil => simp [tdel]
  | cons p t ih =>
    obtain ⟨m, w⟩ := p
    by_cases hm : m = n
    · subst hm; simpa [tdel, tget, Ne.symm h] using ih
    · by_cases hk : m = k
      · subst hk; simp [tdel, tget, hm]
      · simpa [tdel, tget, hm, hk] using ih

/-! ### Memory -/

/-- Every listed address is above x. -/
def Memory.above (x : Nat) (m : Memory) : Prop := ∀ p ∈ m, x < p.1

theorem Memory.wf_cons (x : Nat) (b : Byte) (m : Memory) :
    Memory.wf ((x, b) :: m) = true ↔ b ≠ 0#8 ∧ Memory.above x m ∧ Memory.wf m = true := by
  induction m generalizing x b with
  | nil => simp [Memory.wf, Memory.above]
  | cons p m ih =>
    obtain ⟨y, c⟩ := p
    simp only [Memory.wf, Bool.and_eq_true, bne_iff_ne, ne_eq, decide_eq_true_eq, and_assoc]
    refine ⟨fun ⟨h1, h2, h3⟩ => ⟨h1, ?_, h3⟩, fun ⟨h1, h2, h3⟩ => ⟨h1, h2 (y, c) (by simp), h3⟩⟩
    intro q hq
    rcases List.mem_cons.1 hq with rfl | hq
    · exact h2
    · exact h2.trans ((ih y c).1 h3 |>.2.1 q hq)

theorem mget_above {m : Memory} {a x : Nat} (h : Memory.above x m) (ha : a ≤ x) : mget m a = 0#8 := by
  cases m with
  | nil => rfl
  | cons p m =>
    obtain ⟨y, c⟩ := p
    have : x < y := h (y, c) (by simp)
    simp [mget, show y ≠ a by omega, show a < y by omega]

theorem above_mset {m : Memory} {a x : Nat} (b : Byte) (h : Memory.above x m) (ha : x < a) : Memory.above x (mset m a b) := by
  induction m with
  | nil => simp only [mset]; split_ifs <;> simp [Memory.above, ha]
  | cons p m ih =>
    obtain ⟨y, c⟩ := p
    have hy : x < y := h (y, c) (by simp)
    have hm : Memory.above x m := fun q hq => h q (by simp [hq])
    simp only [mset]
    split_ifs <;> intro q hq
    · exact h q hq
    · rcases List.mem_cons.1 hq with rfl | hq
      exacts [ha, h q hq]
    · exact hm q hq
    · rcases List.mem_cons.1 hq with rfl | hq
      exacts [hy, hm q hq]
    · rcases List.mem_cons.1 hq with rfl | hq
      exacts [hy, ih hm q hq]

/-- A written byte keeps the canonical form. -/
theorem wf_mset {m : Memory} (a : Nat) (b : Byte) (h : Memory.wf m = true) : Memory.wf (mset m a b) = true := by
  induction m with
  | nil => simp only [mset]; split_ifs with hb <;> simp [Memory.wf, hb]
  | cons p m ih =>
    obtain ⟨y, c⟩ := p
    have hp := (Memory.wf_cons y c m).1 h
    simp only [mset]
    split_ifs with h1 h2 h3 h4
    · exact h
    · refine (Memory.wf_cons _ _ _).2 ⟨h2, ?_, h⟩
      intro q hq
      rcases List.mem_cons.1 hq with rfl | hq
      · exact h1
      · exact h1.trans (hp.2.1 q hq)
    · exact hp.2.2
    · exact (Memory.wf_cons _ _ _).2 ⟨h4, hp.2.1, hp.2.2⟩
    · exact (Memory.wf_cons _ _ _).2 ⟨hp.1, above_mset b hp.2.1 (by omega), ih hp.2.2⟩

theorem wf_mwrite (n : Nat) {m : Memory} (a v : Nat) (h : Memory.wf m = true) : Memory.wf (mwrite m a n v) = true := by
  induction n generalizing m a v with
  | zero => exact h
  | succ n ih => exact ih _ _ (wf_mset _ _ h)

theorem wf_mwriteBe (n : Nat) {m : Memory} (a v be : Nat) (h : Memory.wf m = true) :
    Memory.wf (mwriteBe m a n v be) = true := by
  induction n generalizing m a v be with
  | zero => exact h
  | succ n ih =>
    simp only [mwriteBe]
    split_ifs
    · exact ih _ _ _ (wf_mset _ _ h)
    · exact ih _ _ _ h

/-- A byte reads as what was last written to it. -/
theorem mget_mset_self {m : Memory} (a : Nat) (b : Byte) (h : Memory.wf m = true) : mget (mset m a b) a = b := by
  induction m with
  | nil => simp only [mset]; split_ifs with hb <;> simp [mget, hb]
  | cons p m ih =>
    obtain ⟨y, c⟩ := p
    have hp := (Memory.wf_cons y c m).1 h
    simp only [mset]
    split_ifs with h1 h2 h3 h4
    · simp [mget, h1, h2, show y ≠ a by omega]
    · simp [mget]
    · subst h3; rw [mget_above hp.2.1 le_rfl, h4]
    · simp [mget, h3]
    · simp [mget, show y ≠ a by omega, show ¬ a < y by omega, ih hp.2.2]

/-- A write of one byte leaves every other byte alone. -/
theorem mget_mset_ne {m : Memory} {a k : Nat} (b : Byte) (h : Memory.wf m = true) (hk : k ≠ a) :
    mget (mset m a b) k = mget m k := by
  induction m with
  | nil => simp only [mset]; split_ifs <;> simp [mget, Ne.symm hk]
  | cons p m ih =>
    obtain ⟨y, c⟩ := p
    have hp := (Memory.wf_cons y c m).1 h
    simp only [mset]
    split_ifs with h1 h2 h3 h4
    · rfl
    · simp only [mget, Ne.symm hk, if_false]
      split_ifs <;> first | rfl | (exfalso; omega)
    · subst h3
      simp only [mget, Ne.symm hk, if_false]
      split_ifs with h5
      · exact mget_above hp.2.1 h5.le
      · rfl
    · subst h3; simp [mget, Ne.symm hk]
    · simp [mget, ih hp.2.2]

/-- A write of n bytes leaves every byte outside them alone. -/
theorem mget_mwrite_outside (n : Nat) {m : Memory} {a k : Nat} (v : Nat) (h : Memory.wf m = true)
    (hk : k < a ∨ a + n ≤ k) : mget (mwrite m a n v) k = mget m k := by
  induction n generalizing m a v with
  | zero => rfl
  | succ n ih =>
    simp only [mwrite]
    rw [ih _ (wf_mset _ _ h) (by omega), mget_mset_ne _ h (by omega)]

theorem mget_mwriteBe_outside (n : Nat) {m : Memory} {a k : Nat} (v be : Nat) (h : Memory.wf m = true)
    (hk : k < a ∨ a + n ≤ k) : mget (mwriteBe m a n v be) k = mget m k := by
  induction n generalizing m a v be with
  | zero => rfl
  | succ n ih =>
    simp only [mwriteBe]
    split_ifs
    · rw [ih _ _ (wf_mset _ _ h) (by omega), mget_mset_ne _ h (by omega)]
    · exact ih _ _ h (by omega)

end Sys2Proof.Machine
end

