-- ==== Sys2Proof/Laws/Ops.lean ====
section
/-! SUPPORT. What the shared operations do: cores and contexts after an update, the form of every slot meaning, results,
entries, records, registers after a write. -/

namespace Sys2Proof.Machine

variable (s : State)

/-! ### Cores, contexts, clusters, dies, launches -/

@[simp] theorem State.core_modCore_self (c : Nat) (f : Core → Core) : (s.modCore c f).core c = f (s.core c) := by
  simp [State.modCore, State.core]
theorem State.core_modCore_ne {c d : Nat} (f : Core → Core) (h : d ≠ c) : (s.modCore c f).core d = s.core d := by
  simp [State.modCore, State.core, tget_tset_ne _ _ _ h]
@[simp] theorem State.clu_modClu_self (c : Nat) (f : Clus → Clus) : (s.modClu c f).clu c = f (s.clu c) := by
  simp [State.modClu, State.clu]
theorem State.clu_modClu_ne {c d : Nat} (f : Clus → Clus) (h : d ≠ c) : (s.modClu c f).clu d = s.clu d := by
  simp [State.modClu, State.clu, tget_tset_ne _ _ _ h]
@[simp] theorem State.die_modDie_self (c : Nat) (f : Die → Die) : (s.modDie c f).die c = f (s.die c) := by
  simp [State.modDie, State.die]
theorem State.die_modDie_ne {c d : Nat} (f : Die → Die) (h : d ≠ c) : (s.modDie c f).die d = s.die d := by
  simp [State.modDie, State.die, tget_tset_ne _ _ _ h]
@[simp] theorem State.ctx_modCtx_self (c x : Nat) (f : Ctx → Ctx) : (s.modCtx c x f).ctx c x = f (s.ctx c x) := by
  simp [State.modCtx, State.ctx]
theorem State.ctx_modCtx_ne {c x d y : Nat} (f : Ctx → Ctx) (h : d ≠ c ∨ y ≠ x) :
    (s.modCtx c x f).ctx d y = s.ctx d y := by
  by_cases hd : d = c
  · subst hd
    have hy : y ≠ x := by simpa using h
    simp [State.modCtx, State.ctx, tget_tset_ne _ _ _ hy]
  · simp [State.modCtx, State.ctx, State.core_modCore_ne _ _ hd]
theorem State.core_modCtx_ne {c d : Nat} (x : Nat) (f : Ctx → Ctx) (h : d ≠ c) : (s.modCtx c x f).core d = s.core d :=
  s.core_modCore_ne _ h
theorem State.core_modCtx_self (c x : Nat) (f : Ctx → Ctx) :
    (s.modCtx c x f).core c = { s.core c with ctxs := tset (s.core c).ctxs x (f (s.ctx c x)) } := by
  simp [State.modCtx, State.ctx]
@[simp] theorem State.cx_modCx (f : Ctx → Ctx) : (s.modCx f).cx = f s.cx := s.ctx_modCtx_self _ _ _
@[simp] theorem State.cc_modCc (f : Core → Core) : (s.modCc f).cc = f s.cc := s.core_modCore_self _ _

/-! ### The form of every slot meaning -/

/-- Once the bundle's checks have passed, a slot acts. -/
theorem perform_go {i : Instr} {chk : Option Trap} {w : Wait} {act : State → State} (h : s.iss.go = true) :
    perform i chk w act s = .next (act s) := by simp [perform, h]

/-- With no failed check and no wait, a slot acts. -/
theorem perform_acts {i : Instr} {act : State → State} (h : s.Issues i) : perform i none .go act s = .next (act s) := by
  rcases h with h | h <;> simp [perform, h]

/-- Tried with no pending register, a failed check traps. -/
theorem perform_trap {i : Instr} {t : Trap} {w : Wait} {act : State → State} (h : s.Tried i) :
    perform i (some t) w act s = .next (s.trap t) := by simp [perform, h.1, h.2]

/-- Tried with no pending register and no failed check, a wait holds. -/
theorem perform_hold {i : Instr} {act : State → State} (h : s.Tried i) : perform i none .hold act s = .next s.hold := by
  simp [perform, h.1, h.2]

/-- Tried with a pending register, a slot of an issuing bundle holds. -/
theorem perform_blocked {i : Instr} {chk : Option Trap} {w : Wait} {act : State → State} (h : s.iss.go = false)
    (hl : s.iss.late = false) (hc : s.iss.clear = false) (hb : s.cx.blocked i = true) : perform i chk w act s = .next s.hold := by
  simp [perform, State.stalled, h, hl, hc, hb]

/-- Everything a slot can do: act, hold, hold with the drain or the acknowledgements asked for, or trap. -/
theorem perform_cases (i : Instr) (chk : Option Trap) (w : Wait) (act : State → State) :
    perform i chk w act s = .next (act s) ∨ perform i chk w act s = .next s.hold ∨
      perform i chk w act s = .next s.holdDrain ∨ perform i chk w act s = .next s.holdAck ∨ ∃ t, perform i chk w act s = .next (s.trap t) := by
  unfold perform
  split_ifs
  · exact .inl rfl
  · exact .inr (.inl rfl)
  · cases chk with
    | some t => exact .inr (.inr (.inr (.inr ⟨t, rfl⟩)))
    | none => cases w with
      | go => exact .inl rfl
      | hold => exact .inr (.inl rfl)
      | drain => exact .inr (.inr (.inl rfl))
      | ack => exact .inr (.inr (.inr (.inl rfl)))
      | trap t => exact .inr (.inr (.inr (.inr ⟨t, rfl⟩)))

/-- A slot always answers a next state. -/
theorem perform_next (i : Instr) (chk : Option Trap) (w : Wait) (act : State → State) :
    ∃ t, perform i chk w act s = .next t := by
  rcases perform_cases s i chk w act with h | h | h | h | ⟨t, h⟩ <;> exact ⟨_, h⟩

@[simp] theorem need_true (t : Trap) : need true t = none := rfl
@[simp] theorem need_false (t : Trap) : need false t = some t := rfl
@[simp] theorem waitFor_true : waitFor true = .go := rfl
@[simp] theorem waitFor_false : waitFor false = .hold := rfl
@[simp] theorem Wait.go_and (w : Wait) : Wait.go.and w = w := rfl
@[simp] theorem Wait.and_go (w : Wait) : w.and .go = w := by cases w <;> rfl

/-! ### Results (R139) -/

/-- A result joins the flight of the issuing context, or the second cycle of a split bundle. -/
theorem State.result_cx (dist : Nat) (w : RegWrite) (ld : Bool) (ps : List (Nat × Nat × Nat)) :
    (s.result dist w ld ps).cx =
      if s.iss.split ∧ s.iss.slot = 4 then { s.cx with split := s.cx.split ++ [⟨dist, w, ld, s.iss.serial, ps⟩] }
      else { s.cx with r := { s.cx.r with flight := s.cx.r.flight ++ [⟨dist, w, ld, s.iss.serial, ps⟩] } } := by
  unfold State.result
  by_cases h : s.iss.split = true ∧ s.iss.slot = 4 <;> simp [h]

/-- A change of the issuing context changes nothing else. -/
theorem State.sameElsewhere_modCx (f : Ctx → Ctx) : s.SameElsewhere (s.modCx f) := by
  refine ⟨rfl, fun c h => s.core_modCtx_ne _ _ h, ?_, fun x h => s.ctx_modCtx_ne _ (.inr h)⟩
  simp [State.modCx, State.core_modCtx_self]

/-- A result changes nothing but the issuing context's results in flight. -/
theorem State.result_frame (dist : Nat) (w : RegWrite) (ld : Bool) (ps : List (Nat × Nat × Nat)) :
    s.SameElsewhere (s.result dist w ld ps) ∧ s.cx.SameButFlight (s.result dist w ld ps).cx := by
  refine ⟨?_, ?_⟩
  · unfold State.result; split_ifs <;> exact s.sameElsewhere_modCx _
  · rw [s.result_cx]; split_ifs <;> rfl

/-! ### Registers (R113, R181) -/

theorem Regs.sreg_zero (r : Regs) : r.sreg 0 = 0#64 := rfl
theorem Regs.kreg_zero (r : Regs) : r.kreg 0 = BitVec.allOnes 512 := rfl
theorem Regs.write_s_zero (r : Regs) (v : Dword) : r.write (.s 0 v) = r := rfl
theorem Regs.write_k_zero (r : Regs) (v en : KWord) : r.write (.k 0 v en) = r := rfl

theorem Regs.sreg_write_self (r : Regs) {d : SReg} (v : Dword) (h : d ≠ 0) : (r.write (.s d v)).sreg d = v := by
  simp [Regs.write, Regs.sreg, h]
theorem Regs.sreg_write_ne (r : Regs) {d e : SReg} (v : Dword) (h : e ≠ d) : (r.write (.s d v)).sreg e = r.sreg e := by
  have h' : d.val ≠ e.val := fun q => h (Fin.ext q.symm)
  by_cases hd : d = 0
  · subst hd; rfl
  · simp [Regs.write, Regs.sreg, hd, Vector.getElem_set_ne _ _ h']
theorem Regs.vreg_write_self (r : Regs) (d : VReg) (v en : VWord) :
    (r.write (.v d v en)).vreg d = (v &&& en) ||| (r.vreg d &&& ~~~en) := by
  simp [Regs.write, Regs.vreg]

/-! ### Entries and records -/

/-- An entry joins the issuing core's commit buffer, last. -/
theorem State.addEntry_cc (g : Grant) (k : EntryKind) :
    (s.addEntry g k).cc = { s.cc with cb := s.cc.cb ++
      [{ id := s.nextId, ctx := s.iss.ctx, serial := s.iss.serial, pos := s.iss.pos, grant := g, kind := k }] } := by
  exact State.cc_modCc { s with nextId := s.nextId + 1 } _

/-- A record enters the ring with the next number while the ring has room and nothing is held. -/
theorem State.post_room (r : Rec) (h : s.fq.ring.length < Config.faultRecords) (hh : s.fq.heldRecs = []) :
    s.post r = { s with fq := { s.fq with ring := s.fq.ring ++ [r.word s.fq.seq.toNat s.pcyc], seq := s.fq.seq + 1#32 } } := by
  simp [State.post, h, hh]

end Sys2Proof.Machine
end

