-- ==== Sys2Proof/Tests/Slice0.lean ====
section
/-! SUPPORT. Tests: words and values that the spec writes out or that follow from its tables by hand, ill-formed instructions,
one step of instructions and events on small states, and for every statement with hypotheses a state that meets them. -/

namespace Sys2Proof.Tests

open Sys2Proof Sys2Proof.Machine

-- each theorem in turn: many at once would ask for more stacks than the checker's memory holds
set_option Elab.async false

/-! ### Words (the rule that writes each out, or gives its encoding, is named) -/

/-- R155, R163, R160 to R164: control. -/
theorem test_words_control :
    decodeSlot 0 0x0000008A1206 = .ok (.loop 4 10 2#16 false true)
    ∧ decodeSlot 0 0x00000110050D = .ok (.fpmode 5 .rtz .interlocked)
    ∧ decodeSlot 0 0x640000400007 = .ok (.loopi 400#10 0 1#16 false false)
    ∧ decodeSlot 0 0x011600000E0B = .ok (.sysrd 14 0x116#16)
    -- R108 BR: op, cond 3 (GE), a 1, b 2, off −4
    ∧ decodeSlot 0 (0x02 + 3 * 2 ^ 8 + 1 * 2 ^ 12 + 2 * 2 ^ 18 + (2 ^ 24 - 4) * 2 ^ 24) = .ok (.brc .ge 1 2 (-4)) := by decide

/-- R168, R165, R171, R175 to R178: scalar slots, and R117: a control operation is in the wrong slot in S, a ring operation in C. -/
theorem test_words_scalar :
    decodeSlot 1 0xB7AB6FBBC541 = .ok (.li 5 0xDEADBEEF#32 2)
    ∧ decodeSlot 1 0x5DDDDDDDDC41 = .ok (.li 28 0x77777777#32 1)
    ∧ decodeSlot 1 0x071034009557 = .ok (.fcvt .n64 .f32 21 2 .ctx false)
    ∧ decodeSlot 0 (0x22 + 6 * 2 ^ 8 + 2 * 2 ^ 14 + (2 ^ 28 - 1) * 2 ^ 20) = .ok (.addi 6 2 (-1))
    ∧ decodeSlot 1 (0x61 + 3 * 2 ^ 8 + 0 * 2 ^ 14 + 1 * 2 ^ 20) = .ok (.hadvf 3 0 1)
    ∧ decodeSlot 1 0x00000110050D = .error .wrongSlot
    ∧ decodeSlot 0 (0x61 + 3 * 2 ^ 8 + 1 * 2 ^ 20) = .error .wrongSlot
    ∧ decodeSlot 1 0x44 = .error .illegalOpcode
    ∧ decodeSlot 1 (0x20 + 2 ^ 30) = .error .reservedField := by decide

/-- R188, R203, R435, R438, R444: vector slots. -/
theorem test_words_vector :
    decodeSlot 3 0x00000008A3214104 = .ok (.vfma ⟨.f32, 4, 1, 2, true⟩ (.vec 2) 3 .rne true)
    ∧ decodeSlot 3 0x0000024800016158 = .ok (.vcvt ⟨.f32, 6, 1, 0, false⟩ .e4m3 2 .rne true)
    ∧ decodeSlot 4 0x0000004810012158 = .ok (.vcvt ⟨.f32, 2, 1, 1, false⟩ .e4m3 0 .rne true)
    ∧ decodeSlot 4 0x00001FF000013145 = .ok (.vrot ⟨.f32, 3, 1, 0, false⟩ 511)
    ∧ decodeSlot 3 0x00001F0000018145 = .ok (.vrot ⟨.f32, 8, 1, 0, false⟩ 496)
    ∧ decodeSlot 3 0x4000015704024104 = .ok (.vfma ⟨.f32, 4, 2, 0, false⟩ (.scal 21) 4 .ctx false)
    ∧ decodeSlot 3 0x4000014700012103 = .ok (.vmul ⟨.f32, 2, 1, 0, false⟩ (.scal 20) .ctx false)
    ∧ decodeSlot 4 0x000021C00000103D = .ok (.kmov (.toChunk 1 0 28))
    -- R122: format code 0xE
    ∧ decodeSlot 3 (0x01 + 14 * 2 ^ 8) = .error .reservedField := by decide

/-- R288 to R315, R438, R441, R444: memory slot. -/
theorem test_words_memory :
    decodeSlot 2 0x0000020050038A20 = .ok (.gld 5 7 .w (some 1) 16)
    ∧ decodeSlot 2 0x04E80103D8019218 = .ok (.rsst 9 3 .d ⟨2, 7, 1, false⟩ 8)
    ∧ decodeSlot 2 0x00000023C0038833 = .ok (.fred 4 7 none .f32)
    ∧ decodeSlot 2 0x0000000FD9250A30 = .ok (.amo 5 10 9 .d none .pkg .swap)
    ∧ decodeSlot 2 0x0000000FC00BB611 = .ok (.ldfe 27 23 .pkg 0)
    ∧ decodeSlot 2 0x00000003F8058804 = .ok (.vsst 4 11 7 0)
    ∧ decodeSlot 2 0x00000003C0008209 = .ok (.vhld 1 1 0 0)
    ∧ decodeSlot 2 0x04000003C8048419 = .ok (.rvst 2 9 1 ⟨2, 0, 0, false⟩ 0)
    ∧ decodeSlot 2 0x04000007C005161B = .ok (.rste 11 10 .clus ⟨2, 0, 0, false⟩ 0)
    ∧ decodeSlot 2 0x00000003D8081E01 = .ok (.sld 15 16 .d 0)
    ∧ decodeSlot 2 0x00000003D0070223 = .ok (.vgst 1 14 2 none 0)
    ∧ decodeSlot 2 0x00000103D8050E21 = .ok (.gst 7 10 .d none 8) := by decide

/-- R234 to R240, R435: matrix beats. -/
theorem test_words_matrix :
    decodeSlot 5 0x00E79001 = .ok (.wloadNxt 7 2 7) ∧ decodeSlot 5 0x00011001 = .ok (.wload 1 2 0)
    ∧ decodeSlot 5 0x00401802 = .ok (.afeed 3 2) ∧ decodeSlot 5 0x00000053 = .ok (.accum 5)
    ∧ decodeSlot 5 0x04000054 = .ok (.drainClr 5) ∧ decodeSlot 5 0x00000005 = .ok .tswap
    ∧ decodeSlot 5 0x03E00006 = .ok (.tzero 0 31) ∧ decodeSlot 5 0x00000007 = .ok .tclose
    ∧ decodeSlot 5 0x00000001 = .ok (.wloadTongs 0) ∧ decodeSlot 5 0x8 = .error .illegalOpcode := by decide

/-- R321, R435, R438, R441, R444: engine slot. -/
theorem test_words_engine :
    decodeSlot 6 0x050A30B29002 = .ok (.cpyx 16 10 11 12 .die 1 5) ∧ decodeSlot 6 0x010B3985CF01 = .ok (.cpy 15 23 24 14 .pkg 1 1)
    ∧ decodeSlot 6 0x000000024020 = .ok (.mregw false 0 9) ∧ decodeSlot 6 0x01000000001A = .ok (.bar 1)
    ∧ decodeSlot 6 0x09080000000A = .ok (.tladv 0 true 9) ∧ decodeSlot 6 0x090000050009 = .ok (.tlwait 20 .core 9)
    ∧ decodeSlot 6 0x091800001308 = .ok (.tlrd 19 9 3) ∧ decodeSlot 6 0x001B00B08513 = .ok (.acqp 5 2 11 .pkg .geu)
    ∧ decodeSlot 6 0x000100B08012 = .ok (.rel 2 11 .clus) ∧ decodeSlot 6 0x001900C08011 = .ok (.acq 2 12 .clus .geu)
    ∧ decodeSlot 6 0x16 = .ok .wack
    -- R321: d of CPYX is no multiple of 4
    ∧ decodeSlot 6 (0x02 + 17 * 2 ^ 8) = .error .reservedField := by decide

/-- The same words come back from the encoder. -/
theorem test_words_encoded :
    encode (.loop 4 10 2 false true) = some (.c, 0x0000008A1206) ∧ encode (.li 5 0xDEADBEEF 2) = some (.cs, 0xB7AB6FBBC541)
    ∧ encode (.vfma ⟨.f32, 4, 1, 2, true⟩ (.vec 2) 3 .rne true) = some (.v, 0x00000008A3214104)
    ∧ encode (.gld 5 7 .w (some 1) 16) = some (.m, 0x0000020050038A20) ∧ encode (.wloadNxt 7 2 7) = some (.t, 0x00E79001)
    ∧ encode (.cpyx 16 10 11 12 .die 1 5) = some (.e, 0x050A30B29002) ∧ encode .bundleDecode = none := by decide

/-- R106, R116: header bits 4 to 15 are reserved; two destinations are the same register: the later slot takes the trap. -/
theorem test_bundles :
    decodeBundle (BitVec.ofNat 384 (2 ^ 4)) = .error (.reservedField, 7)
    ∧ decodeBundle (BitVec.ofNat 384 (2 ^ 3 + (0x0E + 5 * 2 ^ 8) * 2 ^ 16)) = .ok (⟨false, false, false, true⟩, [(0, .cyc 5)])
    ∧ decodeBundle (BitVec.ofNat 384 ((0x0E + 5 * 2 ^ 8) * 2 ^ 16 + (0x20 + 5 * 2 ^ 8) * 2 ^ 64)) = .error (.reservedField, 1) := by decide

/-! ### Ill-formed instructions: one for each check of `Instr.wellFormed` -/

theorem test_wellFormed_refuses :
    (Instr.loop 1 0 0 false false).wellFormed = false ∧ (Instr.loopi 5 3 1 false false).wellFormed = false
    ∧ (Instr.sysrd 1 0x113).wellFormed = false ∧ (Instr.syswr 1 0x300).wellFormed = false
    ∧ (Instr.bfx 1 2 60 5 false).wellFormed = false ∧ (Instr.bfi 1 2 0 0).wellFormed = false
    ∧ (Instr.vbcast .f64 1 0 false (.elem 2 256)).wellFormed = false
    ∧ (Instr.vcvt ⟨.f32, 1, 2, 0, false⟩ .f16 2 .rne false).wellFormed = false
    ∧ (Instr.vcvtsr ⟨.f32, 1, 2, 0, false⟩ .f32 1 false).wellFormed = false
    ∧ (Instr.vqblk .f32 1 2 .rne false ⟨0, 4, 0, 0⟩).wellFormed = false
    ∧ (Instr.vdqblk ⟨.f16, 1, 2, 0, false⟩ .rne false ⟨0, 0, 7, 57⟩).wellFormed = false
    ∧ (Instr.wload 3 0 0).wellFormed = false ∧ (Instr.wloadNxt 3 0 0).wellFormed = false
    ∧ (Instr.tzero 100 28).wellFormed = false ∧ (Instr.cpyx 18 1 2 3 .core 0 0).wellFormed = false
    ∧ (Instr.cpyx 0 1 2 3 .core 0 0).wellFormed = false := by decide

theorem test_wellFormed_accepts :
    (Instr.loop 1 3 1 false true).wellFormed = true ∧ (Instr.sysrd 1 0x112).wellFormed = true
    ∧ (Instr.bfx 1 2 60 4 false).wellFormed = true ∧ (Instr.vbcast .f64 1 0 false (.elem 2 255)).wellFormed = true
    ∧ (Instr.vqblk .f32 1 2 .rne false ⟨0, 3, 0, 0⟩).wellFormed = true ∧ (Instr.tzero 100 27).wellFormed = true
    ∧ (Instr.cpyx 60 1 2 3 .core 0 0).wellFormed = true := by decide

/-! ### Values of the number formats and of the folds -/

/-- R51, R55, R434: the conversions of the checked tile's table. -/
theorem test_convert :
    convert .f32 .e4m3 .rne true false 0x40980000 = 0x4A ∧ convert .f32 .e4m3 .rne true false 0xBFF00000 = 0xBF
    ∧ convert .f32 .e4m3 .rne true false 0x44600000 = 0x7E ∧ convert .f32 .e4m3 .rne true false 0x42600000 = 0x66
    ∧ convert .f32 .e4m3 .rne true false 0x43FA0000 = 0x7E ∧ convert .f32 .e4m3 .rne true false 0x7FC00000 = 0x7F
    ∧ convert .n64 .f32 .rne false false 352 = 0x43B00000 ∧ convert .n64 .f32 .rne false false 1024 = 0x44800000 := by decide

/-- R226: the polynomial of CRC-64/ECMA-182, whose published check value over the digits 1 to 9 starts from 0. -/
theorem test_crc64 : crc64 0 [0x31, 0x32, 0x33, 0x34, 0x35, 0x36, 0x37, 0x38, 0x39] = 0x6C40DF5F0B497347 := by decide +kernel

/-! ### Small states -/

/-- Context 0 of core 0 about to try an instruction of its bundle: its launch has every bank and the matrix engine. -/
def base : State := { State.reset.withFetchWord 48 0 with agenda := [], iss := { clear := true } }
/-- Scalar registers of the issuing context. -/
def sets (s : State) (l : List (SReg × Nat)) : State := s.modCx (fun k =>
  { k with r := { k.r with s := l.foldl (fun v p => v.set p.1.val (BitVec.ofNat 64 p.2) p.1.isLt) k.r.s } })
/-- A ring handle of the issuing context. -/
def ring (s : State) (h : HReg) (g : Ring) : State := s.modCx (fun k => { k with r := { k.r with h := k.r.h.set h.val g h.isLt } })
/-- The issuing context in interlocked mode. -/
def ilk (s : State) : State := s.modCx (fun k => { k with r := { k.r with ilk := true } })
/-- Entries of the issuing context's range table. -/
def lrt (s : State) (l : List Lrt) : State := s.modLaunch 1 (fun k => { k with lrt := l })
/-- An entry of a range table that permits everything. -/
def range (base limit : Nat) : Lrt := { base := base, limit := limit, v := true, home := 1, cache := 1, rd := true, wr := true, at_ := true, dmask := 1 }
/-- Scalar register d as the instruction's result leaves it once it lands. -/
def result (s : State) (i : Instr) (d : SReg) : Option Dword :=
  match exec i s with
  | .next t => (t.cx.r.flight.find? (fun f => f.w.ref = .s d)).map (fun f => (t.cx.r.write f.w).sreg d)
  | _ => none
/-- The state a step leaves. -/
def nextOf : Out → State
  | .next t => t
  | _ => State.reset
/-- The step answers a next state. -/
def isNext : Out → Bool
  | .next _ => true
  | _ => false
theorem next_of {o : Out} (h : isNext o = true) : o = .next (nextOf o) := by
  cases o <;> first | rfl | cases h
/-- What stops the instruction. -/
def stopOf (s : State) (i : Instr) : Option Stop := match exec i s with | .next t => t.iss.stop | _ => none

/-! ### Witnesses: hypotheses of the statements that hold together -/

/-- Every statement about an instruction that has no other hypothesis: it issues, and is tried, here. -/
theorem witness_issues (i : Instr) : base.Issues i ∧ base.Tried i := ⟨Or.inr rfl, rfl, rfl⟩

theorem witness_DecodeEncodeScalarEngine :
    ((Instr.add 1 2 3).wellFormed = true ∧ encode (.add 1 2 3) = some (.cs, 0x20 + 1 * 2 ^ 8 + 2 * 2 ^ 14 + 3 * 2 ^ 20))
    ∧ ((Instr.br 1).wellFormed = true ∧ encode (.br 1) = some (.c, 0x01 + 2 ^ 24))
    ∧ ((Instr.hset 1 2).wellFormed = true ∧ encode (.hset 1 2) = some (.s, 0x60 + 1 * 2 ^ 8 + 2 * 2 ^ 14))
    ∧ ((Instr.accum 5).wellFormed = true ∧ encode (.accum 5) = some (.t, 0x53))
    ∧ ((Instr.wack).wellFormed = true ∧ encode .wack = some (.e, 0x16)) := by decide

theorem witness_DecodeEncodeVectorMemory :
    (Instr.vmov ⟨.f32, 1, 2, 0, false⟩).wellFormed = true
    ∧ encode (.vmov ⟨.f32, 1, 2, 0, false⟩) = some (.v, 0x40 + 1 * 2 ^ 8 + 1 * 2 ^ 12 + 2 * 2 ^ 16)
    ∧ (Instr.vsst 4 11 7 0).wellFormed = true ∧ encode (.vsst 4 11 7 0) = some (.m, 0x00000003F8058804) := by decide

theorem witness_WordsAndBundles :
    fld (BitVec.ofNat 384 (2 ^ 15)).toNat 4 12 ≠ 0
    ∧ decodeBundle (BitVec.ofNat 384 (3 + 0x16 * 2 ^ 336)) = .ok (⟨true, true, false, false⟩, [(6, .wack)])
    ∧ (fld (BitVec.ofNat 384 (0x44 * 2 ^ 64)).toNat 4 12 = 0
      ∧ (∀ m < 1, ∃ i, decodeSlot m (slotWord (BitVec.ofNat 384 (0x44 * 2 ^ 64)).toNat m) = .ok i)
      ∧ decodeSlot 1 (slotWord (BitVec.ofNat 384 (0x44 * 2 ^ 64)).toNat 1) = .error .illegalOpcode)
    -- s5 is the destination of CYC in the C slot and of ADD in the S slot
    ∧ (let b : Bundle := BitVec.ofNat 384 ((0x0E + 5 * 2 ^ 8) * 2 ^ 16 + (0x20 + 5 * 2 ^ 8) * 2 ^ 64)
      fld b.toNat 4 12 = 0 ∧ (∀ k < 7, (decodeSlot k (slotWord b.toNat k)).isOk = true) ∧ decodeSlot 0 (slotWord b.toNat 0) = .ok (.cyc 5)
      ∧ decodeSlot 1 (slotWord b.toNat 1) = .ok (.add 5 0 0) ∧ .s 5 ∈ (Instr.cyc 5).dests ∧ .s 5 ∈ (Instr.add 5 0 0).dests
      ∧ (RegRef.s 5).isNull = false ∧ ¬ ∃ m n : Nat, m < n ∧ n < 1) :=
  ⟨by decide, by decide,
    ⟨by decide, fun m h => ⟨.nop, by
        obtain rfl : m = 0 := by omega
        decide⟩, by decide⟩,
    ⟨by decide, by decide, by decide, by decide, by decide, by decide, by decide, fun ⟨m, n, h, k⟩ => by omega⟩⟩

theorem witness_StepRunsEvent :
    State.reset.agenda = .ev .packagePowerOnReset {} :: [] ∧ ({ State.reset with agenda := [] } : State).agenda = [] := by decide

/-- Core 0 about to issue a bundle with ADD s3, s1, s2 in its C slot. -/
def addBundle : State := State.reset.withFetchWord 48 (0x20 + 3 * 2 ^ 8 + 1 * 2 ^ 14 + 2 * 2 ^ 20)
/-- The state that ADD acts on. -/
def addIssue : State := State.heldByTable { (State.modCore { addBundle with agenda := [.ev .packagePowerOnReset {}] } 0 (fun k =>
    { k with lead0 := k.prim0 })) with
  arg := { core := 0, ctx := 0 },
  iss := { core := 0, ctx := 0, serial := (addBundle.ctx 0 0).serial, pos := 0, next := 25, slots := [(0, .add 3 1 2)], fmk := false,
           fyd := false, fqp := false, fnd := false, split := false, valid := true, clear := true } } 0 0 false
/-- What ADD leaves, and what the bundle leaves. -/
def addActs : State := nextOf (exec (.add 3 1 2) { addIssue with iss := { addIssue.iss with slot := 0 } })
def addSeq : State.Seq := addActs.sequencer addIssue
def addEnd : Run State :=
  State.finishBundle ((addActs.modSp 0 (fun sp => sp.rouseUses (addIssue.now 0) (addActs.iss.uses ++ addSeq.uses))).modSp 0 (fun sp =>
    { sp with cells := sp.cells ++ [] })) addSeq
def addDone : State := match addEnd with | .ok v => v | _ => State.reset

theorem witness_StepRunsBundle :
    let bundle : Bundle := BitVec.ofNat 384 ((0x20 + 3 * 2 ^ 8 + 1 * 2 ^ 14 + 2 * 2 ^ 20) * 2 ^ 16)
    addBundle.agenda = .issue 0 false :: [.ev .packagePowerOnReset {}] ∧ (addBundle.core 0).split = false
    ∧ (∀ y < 8, (addBundle.ctx 0 y).splitOn = false ∧ (addBundle.ctx 0 y).cancelDue = false ∧ (addBundle.ctx 0 y).pre = none)
    ∧ (addBundle.core 0).prim0 = 0 ∧ (addBundle.ctx 0 0).isReady = true ∧ addBundle.canTry 0 0 = true
    ∧ (∀ y < 8, y ≠ 0 → (addBundle.ctx 0 y).isReady = false) ∧ addBundle.fetch 0 0 = .bundle bundle 25
    ∧ decodeBundle bundle = .ok (⟨false, false, false, false⟩, [(0, .add 3 1 2)])
    ∧ State.interlocked (addBundle.ctx 0 0) (.add 3 1 2) = false ∧ (addBundle.ctx 0 0).blocked (.add 3 1 2) = false
    ∧ addBundle.inFlight 0 0 + State.fixedResults (.add 3 1 2) ≤ 64
    ∧ State.lateSlot addIssue (.add 3 1 2) = false ∧ State.seesEngine (.add 3 1 2) = false
    ∧ exec (.add 3 1 2) { addIssue with iss := { addIssue.iss with slot := 0 } } = .next addActs ∧ addActs.iss.stop = none
    ∧ addSeq.bad = none ∧ (addIssue.core 0).sp.grantUses (addActs.iss.uses ++ addSeq.uses) [] [] = some []
    ∧ (match addEnd with | .ok _ => true | _ => false) = true ∧ addBundle.fits 0 0 addDone.bundleCost = true := by
  refine ⟨?_, ?_, ?_, ?_, ?_, ?_, ?_, ?_, ?_, ?_, ?_, ?_, ?_, ?_, next_of ?_, ?_, ?_, ?_, ?_, ?_⟩ <;> decide +kernel

/-- The step itself, with 5 in s1 and 7 in s2: s3 holds 12 after it (R165, distance 1), and the position is past the escape and
its bundle of 24 halfwords (R101). -/
theorem test_step_add :
    let s := addBundle.modCtx 0 0 (fun k => { k with r := { k.r with s := (k.r.s.set 1 5#64).set 2 7#64 } })
    let t := nextOf (step s)
    (t.ctx 0 0).r.sreg 3 = 12#64 ∧ (t.ctx 0 0).r.pc = 25 ∧ t.agenda = addDone.agenda ∧ (t.core 0).pow0.spent = addDone.bundleCost := by
  refine ⟨?_, ?_, ?_, ?_⟩ <;> decide +kernel

theorem witness_MemoryStaysCanonical : State.reset.MemOk ∧ ∃ t, step State.reset = .next t :=
  ⟨⟨by decide, by decide⟩, _, rfl⟩

theorem witness_EveryInstructionAnswers : (encode .nop).isSome = true ∧ Instr.yield ∈ [Instr.restartMark, .yield, .quenchPoint, .endOfTask] := by
  decide

theorem witness_RegistersAndResults :
    (1 : SReg) ≠ 0 ∧ (63 : SReg) ≠ 1 ∧ (7 : KReg) ≠ 0
    ∧ ({ flight := [⟨1, .s 3 5#64, false, 4, []⟩] } : Regs).flight = [⟨1, .s 3 5#64, false, 4, []⟩] ∧ (0 : Nat) < 1 := by decide

theorem witness_SequencerAndEffects :
    let e : LoopEntry := { idx := 1, cnt := 3, start := 2, stop := 4 }
    let s : State := base.modCx (fun k => { k with r := { k.r with ls := [e] } })
    (s.iss.extra = 0 ∧ s.iss.fnd = false ∧ ∀ f rest, State.stackOf s.iss.effects s.cx.r.ls = f :: rest → (s.iss.next : Int) ≠ f.stop)
    ∧ (({ ls := [e], next := 4 } : State.Seq).next = e.stop ∧ e.sk = false ∧ e.idx + 1 < e.cnt)
    ∧ ({ e with idx := 2 } : LoopEntry).cnt ≤ 2 + 1 := by
  refine ⟨⟨by decide, by decide, ?_⟩, by decide, by decide⟩
  intro f rest h
  obtain ⟨rfl, -⟩ := List.cons.inj (h : [_] = _)
  decide

theorem witness_ScalarMultiplyDivide :
    let s := sets base [(1, 2 ^ 63), (2, 2 ^ 64 - 1)]
    s.rs 1 = BitVec.intMin 64 ∧ s.rs 2 = -1#64 ∧ s.Issues (.div 3 1 2) := ⟨by decide +kernel, by decide +kernel, Or.inr rfl⟩

theorem witness_ScalarBits : bitfieldOk 0 64 = true ∧ bitfieldOk 63 1 = true ∧ bitfieldOk 1 64 = false := by decide

theorem witness_BranchesAndLoopExit :
    let s := sets base [(1, 5), (2, 2 ^ 64 - 1)]
    let t := s.modCx (fun k => { k with r := { k.r with ls := [{ idx := 1, cnt := 3, start := 2, stop := 4 }] } })
    (s.rs 1 ≠ s.rs 2 ∧ (s.rs 2).toInt < (s.rs 1).toInt ∧ (s.rs 1).toNat < (s.rs 2).toNat ∧ s.rs 1 = s.rs 1)
    ∧ s.cx.r.ls = [] ∧ t.cx.r.ls ≠ [] ∧ t.cx.r.ls[0]? = some { idx := 1, cnt := 3, start := 2, stop := 4 } ∧ t.cx.r.ls.length ≤ 5 := by
  refine ⟨⟨?_, ?_, ?_, rfl⟩, ?_, ?_, ?_, ?_⟩ <;> decide +kernel

theorem witness_LoopsAndSkipMaps :
    let s := ilk (sets base [(1, 3), (2, 2 ^ 22), (4, 4), (5, 2 ^ 22 - 8)])
    let six := s.modCx (fun k => { k with r := { k.r with ls := List.replicate 6 {} } })
    six.cx.r.ls.length = 6 ∧ s.cx.r.ls.length ≠ 6 ∧ s.exposed = false ∧ base.exposed = true
    ∧ 2 ^ 22 ≤ (s.rs 2).toNat ∧ (s.rs 4).toNat % 8 ≠ 0 ∧ s.loopCheck 5 3 true = none ∧ s.loopCheck 0 0 false = none
    ∧ Config.spadBytes / 8 < 2 ^ 20 := by
  refine ⟨?_, ?_, ?_, ?_, ?_, ?_, ?_, ?_, ?_⟩ <;> decide +kernel

theorem witness_SystemInstructions :
    let s := ilk base
    let busy := s.result 4 (.s 3 5#64)
    let live := s.modCx (fun k => { k with r := { k.r with ls := [{ sk := true }] } })
    let filled := s.modCc (fun k => { k with cb := List.replicate 64 { id := 0, ctx := 0, serial := 0, kind := .notice 0 0 } })
    let many := s.modCc (fun k => { k with cb := List.replicate 256 { id := 0, ctx := 7, serial := 0, kind := .notice 0 0 } })
    (0x8000001#28).getLsbD 27 = true ∧ (0x7FFFFFF#28).getLsbD 27 = false
    ∧ ¬ (64 ≤ s.cc.occupied s.iss.ctx ∨ 256 ≤ s.cc.cb.length) ∧ 64 ≤ filled.cc.occupied filled.iss.ctx
    ∧ (many.cc.occupied many.iss.ctx < 64 ∧ 256 ≤ many.cc.cb.length) ∧ (0x0031#16) ≠ 0x0030#16
    ∧ live.cx.r.ls.any (fun e => e.sk) = true ∧ s.cx.r.ls.any (fun e => e.sk) = false
    -- a result of an earlier bundle is in flight
    ∧ (busy.cx.r.ilk = true ∧ ({ busy with iss := { busy.iss with serial := 1 } } : State).quiet = false) ∧ s.quiet = true := by
  refine ⟨?_, ?_, ?_, ?_, ⟨?_, ?_⟩, ?_, ?_, ?_, ⟨?_, ?_⟩, ?_⟩ <;> decide +kernel

theorem witness_ScalarFloat :
    isFP .f32 = true ∧ isFP .bf16 = true ∧ isFP .e4m3 = false ∧ Ty.n32.code = 12 ∧ Ty.i16.code = 7 ∧ Ty.n8.code = 10
    ∧ base.exposed = true ∧ (ilk base).exposed = false := by
  refine ⟨?_, ?_, ?_, ?_, ?_, ?_, ?_, ?_⟩ <;> decide +kernel

/-- A ring of 4 slots of 512 B at byte 0x1000 with records in two of them. -/
def ringOf (fmt : Nat) : Ring := { v := true, k := 3, base := 64, cnt := 3, fmt := fmt, fill := 2 }

theorem witness_RingHandles :
    let s := ilk (sets (ring base 1 (ringOf 1)) [(1, 5), (2, 2), (3, 3), (4, 2 ^ 64 - 1), (5, 2 ^ 57), (6, 1)])
    let r := s.rh 1
    (s.rh 0).eng = 0 ∧ Ring.valid (s.rs 0).toNat = true ∧ Ring.valid (s.rs 5).toNat = false
    ∧ ({ ringOf 1 with eng := 1 } : Ring).eng ≠ 0 ∧ (s.rh 0).v = false ∧ r.v = true ∧ s.exposed = false ∧ base.exposed = true
    -- 5 is more than the slots and −1 is below 0; 2 and 0 are in range, 3 is more than the room
    ∧ (r.cnt + 1 : Int) < (s.rs 1).toInt ∧ (s.rs 4).toInt < 0 ∧ 0 ≤ (s.rs 2).toInt ∧ (s.rs 2).toInt ≤ (r.cnt + 1 : Nat)
    ∧ r.eng = 0 ∧ r.fill + (s.rs 2).toInt ≤ (r.cnt + 1 : Nat) ∧ ¬ (r.fill + (s.rs 3).toInt ≤ (r.cnt + 1 : Nat)) ∧ (s.rs 0).toInt = 0
    ∧ (s.rs 2).toInt ≤ r.fill ∧ ¬ ((s.rs 3).toInt ≤ r.fill) := by
  refine ⟨?_, ?_, ?_, ?_, ?_, ?_, ?_, ?_, ?_, ?_, ?_, ?_, ?_, ?_, ?_, ?_, ?_, ?_⟩ <;> decide +kernel

theorem witness_MaskedWrite :
    (0 < Ty.f64.count ∧ 255 < Ty.f64.count ∧ 2047 < Ty.n8.count ∧ (1 : VReg) ≠ 0)
    ∧ (isFloat .e4m3 = true ∧ isFloat .f64 = true ∧ (3 : Nat) ≠ 0 ∧ ([(true, 3, -2), (false, 0, 0)] : List (Bool × Nat × ℤ)) ≠ [])
    ∧ (isFloat .i8 = false ∧ value .f32 0x7FC00000 = .nan ∧ value .f32 0xFF800000 = .inf true ∧ value .f16 0x3E00 = .fin false 0x600 (-10)
      ∧ isFloat .n64 = false ∧ Ty.i8 ≠ .i16) := by decide

theorem witness_VectorArithmetic :
    isFP .f64 = true ∧ bsrcOk .f32 (.scal 3) = true ∧ bsrcOk .f32 (.imm 1) = false ∧ bsrcOk .f32 (.vec 0) = true ∧ isFP .i8 = false
    ∧ isInt .n64 = true ∧ isInt .i8 = true ∧ isInt .e5m2 = false ∧ base.exposed = true ∧ (ilk base).exposed = false := by
  refine ⟨?_, ?_, ?_, ?_, ?_, ?_, ?_, ?_, ?_, ?_⟩ <;> decide +kernel

theorem witness_VectorMasksAndMoves :
    bsrcOk .i8 (.imm 1) = true ∧ bsrcOk .e4m3 (.imm 1) = false ∧ isFloat .e4m3 = true ∧ isFloat .i8 = false ∧ (1 : KReg) ≠ 0 ∧ 511 < 512
    ∧ isInt .n8 = true ∧ isInt .f32 = false ∧ 16 ≤ Ty.bf16.width ∧ Ty.e4m3.width < 16 := by decide

theorem witness_VectorReductionsAndConversions :
    isFP .bf16 = true ∧ isFP .e4m3 = false ∧ isInt .e4m3 = false ∧ isInt .i64 = true ∧ isInt .i16 = true ∧ halfTy .i16 ≠ .i16
    ∧ halfTy .n8 = .n8 ∧ isInt .n8 = true ∧ doubleTy .n32 ≠ .n32 ∧ doubleTy .i64 = .i64 ∧ ((2 : Fin 4) ≠ 3)
    ∧ (∀ j ≤ (0 : Nat), blkZeroOk (base.record 1 ⟨0, 0, 0, 0⟩ j) = true)
    ∧ (∃ j ≤ (0 : Nat), blkZeroOk ((base.modCx (fun k => { k with r := { k.r with v := k.r.v.set 1 (BitVec.ofNat 16384 (2 ^ 8)) } })).record
        1 ⟨0, 0, 0, 0⟩ j) = false) := by
  refine ⟨?_, ?_, ?_, ?_, ?_, ?_, ?_, ?_, ?_, ?_, ?_, ?_, ⟨0, Nat.le_refl 0, ?_⟩⟩ <;> decide +kernel

/-- n entries of the issuing context in the commit buffer, and m of context 7. -/
def entries (s : State) (n m : Nat) (st : EntrySt) : State :=
  let mine : Entry := { id := 0, ctx := 0, serial := 0, st := st, kind := .notice 0 0 }
  s.modCc (fun k => { k with cb := List.replicate n mine ++ List.replicate m { mine with ctx := 7, st := .held } })

theorem witness_ScratchpadChecks :
    let none_ := base.modCc (fun k => { k with sp := { k.sp with owner := [] } })
    ((-1 : Int) < 0 ∧ (2 : Int) ^ 22 < (2 ^ 22 - 7) + (8 : Nat)) ∧ ((0 : Int) ≤ 2 ^ 22 - 12 ∧ (2 ^ 22 - 12 : Int) + (8 : Nat) ≤ 2 ^ 22
      ∧ (2 ^ 22 - 12 : Int).toNat % 8 ≠ 0)
    ∧ ((2 ^ 22 - 8 : Int) + (8 : Nat) ≤ 2 ^ 22 ∧ (2 ^ 22 - 8 : Int).toNat % 8 = 0 ∧ base.banksOk (2 ^ 22 - 8) 8 = true
      ∧ none_.banksOk (2 ^ 22 - 8) 8 = false)
    ∧ (let s := entries base 63 192 .held
       (s.cc.cb.filter (fun e => e.ctx = s.iss.ctx)).length + 1 ≤ 64 ∧ s.cc.cb.length + 1 ≤ 256)
    ∧ (let s := entries base 63 193 .held
       (s.cc.cb.filter (fun e => e.ctx = s.iss.ctx)).length + 1 ≤ 64 ∧ 256 < s.cc.cb.length + 1)
    ∧ (let s := entries base 64 0 .released
       64 < (s.cc.cb.filter (fun e => e.ctx = s.iss.ctx)).length + 1
       ∧ s.cc.cb.any (fun e => e.ctx = s.iss.ctx && e.covered s.cx) = true)
    ∧ (let s := entries base 64 0 .held
       s.cc.cb.any (fun e => e.ctx = s.iss.ctx && e.covered s.cx) = false) := by
  refine ⟨?_, ?_, ?_, ?_, ?_, ?_, ?_⟩ <;> decide +kernel

theorem witness_ScratchpadForwarding : (base.core 0).cb = [] ∧ (base.core 0).sp.wr = [] ∧ (0 : Nat) ≠ 64 := by decide

/-- Vector register 1 with the byte offsets 0, 64, … of 32 chunks in its first lanes. -/
def gatherRow (s : State) : State := s.modCx (fun k => { k with r := { k.r with v := k.r.v.set 1 (BitVec.ofNat 16384
  (pack 32 (fun i => 64 * i) 32 0)) } })

theorem witness_ScratchpadLoadsAndStores :
    let s := gatherRow (sets (ring base 1 (ringOf 1)) [(1, 0x1000), (2, 64), (3, 2 ^ 22 - 4), (4, 2 ^ 22)])
    let full := s.modCc (fun k => { k with sp := { k.sp with full := [0x1000] } })
    let t : Trap := { cause := 0x08, addr := 2 ^ 22 }
    let full64 : Trap := { cause := 0x10 }
    (s.spCheck (s.spEa 1 0) 8 8 = none ∧ s.spCheck (s.spEa 4 0) 8 8 = some t)
    ∧ (s.chunkCheck (rowChunks (s.spEa 1 0)) = none ∧ s.chunkCheck (rowChunks (s.spEa 4 0)) = some t)
    ∧ (s.strideCheck 1 2 0 = none ∧ s.strideCheck 4 2 0 = some t)
    ∧ (s.gatherCheck (s.gatherAddrs 1 1 0) = none ∧ (packChunks (s.gatherAddrs 1 1 0) []).isSome = true
      ∧ s.gatherCheck (s.gatherAddrs 4 1 0) = some t)
    ∧ ((s.rh 1).v = true ∧ s.chunkCheck ((s.rh 1).chunks ((s.rh 1).cp % ((s.rh 1).cnt + 1))) = none ∧ 0 < (s.rh 1).fill
      ∧ (s.rh 1).fill ≤ (2#10).toNat ∧ (s.rh 0).v = false)
    ∧ (Size.store .d = true ∧ Size.store .ws = false ∧ s.room 1 = .go ∧ (entries s 64 0 .released).room 1 = .hold
      ∧ (entries s 64 0 .held).room 1 = .trap full64 ∧ s.room (chunkCount (s.rk 0) 2048) = .go)
    ∧ ((s.rh 1).eng = 0 ∧ (s.rh 1).fill + (1#10).toNat < (s.rh 1).cnt + 1 ∧ ¬ ((s.rh 1).fill + (2#10).toNat < (s.rh 1).cnt + 1)
      ∧ s.chunkCheck ((s.rh 1).chunks 2) = none)
    ∧ (s.tagCheck 4 0 = some t ∧ s.tagCheck 1 0 = none ∧ s.isFull 0 0x1000 (s.now 0 + 2) = false
      ∧ full.isFull 0 0x1000 (full.now 0 + 2) = true ∧ s.drained = true ∧ s.waitRelease .sys = .go)
    ∧ (let u : State := { entries s 1 0 .held with iss := { s.iss with serial := 1 } }
       u.drained = false ∧ u.Tried (.tagwr 2 1 0))
    ∧ (let u := s.modCx (fun k => { k with sendNo := 1 })
       let m : Msg := { id := 1, core := 0, ctx := 0, task := u.cx.task, launch := 1, dest := 1, addr := 0 }
       ({ u with msgs := [m] } : State).waitRelease .clus = .ack ∧ (entries s 1 0 .held).waitRelease .clus = .go
       ∧ ({ entries s 1 0 .held with iss := { s.iss with serial := 1 } } : State).waitRelease .clus = .drain) := by
  refine ⟨⟨?_, ?_⟩, ⟨?_, ?_⟩, ⟨?_, ?_⟩, ⟨?_, ?_, ?_⟩, ⟨?_, ?_, ?_, ?_, ?_⟩, ⟨?_, ?_, ?_, ?_, ?_, ?_⟩, ⟨?_, ?_, ?_, ?_⟩,
    ⟨?_, ?_, ?_, ?_, ?_, ?_⟩, ⟨?_, ⟨rfl, rfl⟩⟩, ⟨?_, ?_, ?_⟩⟩ <;> decide +kernel

/-- Die 0 with its first cluster's cores enabled, and named in the launch. -/
def dieOn (s : State) : State :=
  (s.modDie 0 (fun d => { d with clen := 1#12, cen := 15#48 })).modLaunch 1 (fun l => { l with hdr := l.hdr ||| BitVec.ofNat 2048 (2 ^ 48) })

theorem witness_RemoteStores :
    let s := dieOn (sets base [(1, 0x1000), (2, 2 ^ 22)])
    let pl : Place := ⟨0, 0, 1, false⟩
    let t : Trap := { cause := 0x08, addr := 2 ^ 22 }
    let held : State := { (s.modCx (fun k => { k with sendNo := 1 })) with
      msgs := [{ id := 1, core := 0, ctx := 0, task := s.cx.task, launch := 1, dest := 1, addr := 0 }] }
    remoteCheck (s.plOk pl) (s.remoteEa 1 0) 8 8 = none ∧ remoteCheck (s.plOk pl) (s.remoteEa 2 0) 8 8 = some t
    ∧ Size.store .d = true ∧ Size.store .hs = false ∧ s.room 1 = .go ∧ s.room (chunkCount (s.rk 0) 2048) = .go
    ∧ remoteCheck (s.plOk pl) (s.remoteEa 1 0) 2048 64 = none ∧ remoteCheck (s.plOk pl) (s.remoteEa 2 0) 2048 64 = some t
    ∧ (6#4) ≠ 0#4 ∧ (remoteCheck (([1, 2] : List Nat).all (fun k => s.placeOk 0 0 k false)) (s.remoteEa 1 0) 2048 64 = none)
    ∧ (remoteCheck (([1, 2] : List Nat).all (fun k => s.placeOk 0 0 k false)) (s.remoteEa 2 0) 2048 64 = some t)
    -- one cluster: scope CORE is raised to CLUS
    ∧ Scope.max .core (Machine.scopeOf s.iss.core pl.num (s.half s.iss.core s.iss.ctx) 0) = .clus
    ∧ s.waitRelease .clus = .go ∧ held.waitRelease .clus = .ack
    ∧ ({ entries s 1 0 .held with iss := { s.iss with serial := 1 } } : State).waitRelease .clus = .drain := by
  refine ⟨?_, ?_, ?_, ?_, ?_, ?_, ?_, ?_, ?_, ?_, ?_, ?_, ?_, ?_, ?_⟩ <;> decide +kernel

/-- The issuing context's table holds one range of 4 MiB at 2^44, and its registers name its first and last chunks and the
byte past it. -/
def global : State :=
  sets (lrt base [range (2 ^ 44) (2 ^ 44 + 2 ^ 22)]) [(1, 2 ^ 44), (2, 2 ^ 44 + 2 ^ 22 - 8), (3, 2 ^ 44 + 2 ^ 22 - 4), (4, 128), (5, 2 ^ 20)]

theorem witness_GlobalChecks :
    let e := range (2 ^ 44) (2 ^ 44 + 2 ^ 22)
    let inside (a n : Nat) := global.cl.lrt.filter (fun e => e.v && e.base ≤ a && a + n ≤ e.limit)
    (canonVa (2 ^ 44 + 2 ^ 22 - 8) = true ∧ canonVa (2 ^ 44 + 2 ^ 22 - 1) = true ∧ canonVa (2 ^ 60) = false)
    ∧ inside (2 ^ 44 + 2 ^ 22 - 8) 8 = [e] ∧ (inside (2 ^ 44 + 2 ^ 22 - 4) 8).length ≠ 1 ∧ (inside (2 ^ 44 - 1) 8).length ≠ 1
    ∧ e.rd = true ∧ ({ e with wr := false } : Lrt).wr = false ∧ (2 ^ 44 + 2 ^ 22 - 8) % 8 = 0 ∧ (2 ^ 44 + 2 ^ 22 - 12) % 8 ≠ 0
    ∧ inside (2 ^ 44 + 2 ^ 22 - 12) 8 = [e] := by
  refine ⟨⟨?_, ?_, ?_⟩, ?_, ?_, ?_, ?_, ?_, ?_, ?_, ?_⟩ <;> decide +kernel

theorem witness_GlobalAccesses :
    let s := global
    let e := range (2 ^ 44) (2 ^ 44 + 2 ^ 22)
    let miss : Trap := { cause := 0x05, addr := 2 ^ 44 + 2 ^ 22 - 4 }
    let none_ := s.modCx (fun k => { k with r := { k.r with k := k.r.k.set 1 1#512 } })
    (s.gcheck (s.gEa 2 0) 8 (·.rd) 8 = .ok e ∧ s.gcheck (s.gEa 3 0) 8 (·.rd) 8 = .error miss)
    ∧ (Size.store .d = true ∧ s.gcheck (s.gEa 2 0) 8 (·.wr) 8 = .ok e ∧ s.room 1 = .go ∧ s.gcheck (s.gEa 3 0) 8 (·.wr) 8 = .error miss)
    ∧ (s.gcheck (s.gEa 1 0) 2048 (·.rd) 64 = .ok e ∧ s.gcheck (s.gEa 3 0) 2048 (·.rd) 64 = .error miss
      ∧ s.gcheck (s.gEa 1 0) 2048 (·.wr) 64 = .ok e ∧ s.room (chunkCount (s.rk 0) 2048) = .go)
    ∧ (none_.laneAddrs 1 0 1 0 = [(0, 2 ^ 44)] ∧ (∃ f, none_.gcheck (2 ^ 44) 4 (·.rd) 4 = .ok f) ∧ (∃ f, none_.gcheck (2 ^ 44) 4 (·.wr) 4 = .ok f)
      ∧ s.laneAddrs 1 0 2 0 = [] ∧ none_.laneAddrs 3 0 1 4 = [(0, 2 ^ 44 + 2 ^ 22)]
      ∧ none_.gcheck (2 ^ 44 + 2 ^ 22) 4 (·.rd) 4 = .error { miss with addr := 2 ^ 44 + 2 ^ 22 })
    ∧ (s.cl.lrtFind (2 ^ 44 + 2 ^ 22) 128 (·.rd) = .error { miss with addr := 2 ^ 44 + 2 ^ 22 } ∧ s.cl.lrtFind (2 ^ 44) 128 (·.rd) = .ok e
      ∧ e.cache = 1 ∧ (lrt base [{ e with cache := 0 }]).cl.lrtFind (2 ^ 44) 128 (·.rd) = .ok { e with cache := 0 })
    ∧ (s.rangeCheck (s.gEa 1 0) 1048576 1048576 (·.rd) (fun e => e.cache = 1 || e.cache = 2) = .ok e
      ∧ s.rangeCheck (s.gEa 1 0) (2 ^ 22) (2 ^ 32) (fun _ => true) (fun _ => true) = .ok e
      ∧ s.rangeCheck (s.gEa 1 0) 1048704 1048576 (·.rd) (fun e => e.cache = 1 || e.cache = 2) = .error { cause := 0x07, addr := 2 ^ 44 }
      ∧ (s.gEa 2 0) % 128 ≠ 0) := by
  refine ⟨⟨?_, ?_⟩, ⟨?_, ?_, ?_, ?_⟩, ⟨?_, ?_, ?_, ?_⟩, ⟨?_, ⟨range (2 ^ 44) (2 ^ 44 + 2 ^ 22), ?_⟩, ⟨range (2 ^ 44) (2 ^ 44 + 2 ^ 22), ?_⟩,
    ?_, ?_, ?_⟩, ⟨?_, ?_, ?_, ?_⟩, ⟨?_, ?_, ?_, ?_⟩⟩ <;> decide +kernel

theorem witness_AtomicsAndReductions :
    let s := global
    let e := range (2 ^ 44) (2 ^ 44 + 2 ^ 22)
    let miss : Trap := { cause := 0x05, addr := 2 ^ 44 + 2 ^ 22 - 4 }
    Size.atomic .w = true ∧ Size.atomic .b = false ∧ s.gcheck (s.rs 1).toNat 8 (·.at_) 8 = .ok e ∧ s.waitRelease .sys = .go
    ∧ s.gcheck (s.rs 3).toNat 8 (·.at_) 8 = .error miss ∧ Size.store .d = true ∧ Size.store .bs = false ∧ AmoOp.add ≠ .swap ∧ s.room 1 = .go
    ∧ fredOk .bf16 = true ∧ fredOk .f64 = false ∧ s.gcheck (s.rs 1).toNat (fredBytes .bf16) (·.at_) (fredBytes .bf16) = .ok e
    ∧ s.spCheck (s.rs 4).toNat 8 8 = none ∧ s.spCheck ((s.rs 1).toNat : Int) 8 8 = some { cause := 0x08, addr := 2 ^ 44 }
    -- the line is in no cache, and it is write-pending in the slice
    ∧ s.lendOk s.iss.core e (s.rs 1).toNat = true
    ∧ (s.modClu 0 (fun k => { k with l2 := [{ asid := 0, va := 2 ^ 44, data := 0#1024, valid := BitVec.allOnes 128, ent := e, wpend := 1 }] })).lendOk
        s.iss.core e (s.rs 1).toNat = false := by
  refine ⟨?_, ?_, ?_, ?_, ?_, ?_, ?_, ?_, ?_, ?_, ?_, ?_, ?_, ?_, ?_, ?_⟩ <;> decide +kernel

/-- A state whose engine is f of its engine at rest. -/
def engine (s : State) (f : Engine → Engine) : State := s.modEng f
/-- An open tile of context 0 that has initialised row 5. -/
def openTile : Tile := { id := 7, init := [5] }

theorem witness_MatrixBeats :
    let s := base
    let t := engine s (fun e => { e with owner := some 0, tile := some openTile })
    let off := s.modLaunch 1 (fun l => { l with hdr := 0#2048 })
    off.cl.mx = false ∧ s.cl.mx = true ∧ (engine s (fun e => { e with owner := some 3 })).eng.owner = some 3 ∧ (3 : Nat) ≠ s.iss.ctx
    ∧ s.beatWait = .go ∧ s.tile = none ∧ t.tile = some openTile ∧ t.beatWait = .go ∧ s.beatFits (.tzero 100 27) = .go
    -- the tile id of a set whose reserved bits are 0, and of one whose are not
    ∧ s.eng.shadow.tileOk = true ∧ s.eng.active.tileOk = true
    ∧ (engine s (fun e => { e with shadow := { e.shadow with tile := BitVec.ofNat 64 (2 ^ 32) } })).eng.shadow.tileOk = false
    ∧ (engine s (fun e => { e with active := { e.active with tile := BitVec.ofNat 64 (2 ^ 32) } })).eng.active.tileOk = false
    ∧ s.engRetired = false ∧ t.eng.closed.length < 3
    ∧ 3 ≤ (engine t (fun e => { e with closed := List.replicate 3 openTile })).eng.closed.length := by
  refine ⟨?_, ?_, ?_, ?_, ?_, ?_, ?_, ?_, ?_, ?_, ?_, ?_, ?_, ?_, ?_, ?_⟩ <;> decide +kernel

theorem witness_MatrixArithmetic :
    (let s := ring (ring base 1 (ringOf 4)) 0 (ringOf 4)
     s.opens s.eng.active = .go ∧ s.cl.mx = true ∧ s.beatWait = .go ∧ (s.mset true).wsrc = false ∧ (s.mset true).ctlOk = true ∧ (s.rh 1).v = true
     ∧ (mxClass (s.rh 1).fmt).isSome = true ∧ mxRowBytes (s.rh 1).fmt ≤ (s.rh 1).slotBytes ∧ s.latchOk false 4 = .go
     ∧ s.beatFits (.wload (s.eng.sel != false) 31 4 512 (.spad 0x1000)) = .go ∧ s.spCheck 0x1000 256 64 = none ∧ (1 : Nat) < (s.rh 1).fill
     ∧ mxZeroOk 4 (s.spRead 0x1000 256) = true ∧ s.mapOk (s.mset false) 31 4 (s.spRead 0x1000 256) = .go)
    ∧ (let l : CLine := { asid := 0, va := 2 ^ 44, data := 0#1024, valid := BitVec.allOnes 128, ent := {}, pins := 1 }
       let set : MxSet := { ctl := 9#64, tbase := BitVec.ofNat 64 (2 ^ 44), tstr := BitVec.ofNat 64 (2 + 4 * 2 ^ 16) }
       let s := (engine global (fun e => { e with active := set })).modClu 0 (fun k => { k with l2 := [l, { l with va := 2 ^ 44 + 128 }] })
       let m := s.mset false
       s.cl.lrtFind (2 ^ 44) (mxRowBytes m.tfmt) (·.rd) = .ok (range (2 ^ 44) (2 ^ 44 + 2 ^ 22)) ∧ s.tongsRow 0 0 s.iss.serial 0 (2 ^ 44) 256 = some 0
       ∧ m.wsrc = true ∧ m.tongsOk = true ∧ m.ctlOk = true ∧ (mxClass m.tfmt).isSome = true ∧ s.latchOk false m.tfmt = .go
       ∧ s.beatFits (.wload (s.eng.sel != false) 0 m.tfmt 256 (.tongs (2 ^ 44) 0)) = .go ∧ mxZeroOk m.tfmt 0 = true
       ∧ s.mapOk m 0 m.tfmt 0 = .go ∧ s.beatWait = .go ∧ s.cl.mx = true ∧ s.opens s.eng.active = .go)
    ∧ (let s := ring base 1 (ringOf 4)
       (∀ f, (s.eng.bank false).fmt = some f → mxClass f = mxClass (s.rh 1).fmt)
       ∧ s.beatFits (.afeed 4 512 0x1000 (s.now 0 + 2) none 0#32 []) = .go)
    ∧ (let row : FedRow := { left := 0, ctx := 0, tile := 7, num := 0, q := 8, i8 := false, cols := [] }
       let s := ilk (engine base (fun e => { e with owner := some 0, tile := some openTile, rows := [row] }))
       s.beatWait = .go ∧ s.opens s.eng.active = .go ∧ s.eng.active.afmt ≠ 3 ∧ s.eng.active.ctlOk = true ∧ 5 ∈ (s.tile.getD {}).init ∧ s.exposed = false
       ∧ (if s.tile.isSome then s.takeRow else none) = some row ∧ row.left = 0 ∧ s.beatFits (.accum 5 false (some 0)) = .go
       ∧ s.eng.active.aty ≠ .i32 ∧ row.q ≠ 1) := by
  refine ⟨⟨?_, ?_, ?_, ?_, ?_, ?_, ?_, ?_, ?_, ?_, ?_, ?_, ?_, ?_⟩, ⟨?_, ?_, ?_, ?_, ?_, ?_, ?_, ?_, ?_, ?_, ?_, ?_, ?_⟩,
    ⟨fun f h => (by cases (h : (none : Option Nat) = some f)), ?_⟩, ⟨?_, ?_, ?_, ?_, ?_, ?_, ?_, ?_, ?_, ?_, ?_⟩⟩ <;> decide +kernel

theorem witness_MatrixDrain :
    let s := ring (engine base (fun e => { e with owner := some 0, tile := some openTile })) 0 (ringOf 1)
    let m := s.eng.active
    s.opens m = .go ∧ s.cl.mx = true ∧ s.beatWait = .go ∧ m.ctlOk = true ∧ m.afmt ≠ 3 ∧ drainTy m = some .f32 ∧ Machine.rmOf m.drm = some .rne
    ∧ Fin.ofNat 16 m.dh = 0 ∧ 5 ∈ (s.tile.getD {}).init ∧ (s.rh 0).v = true ∧ 128 ≤ (s.rh 0).slotBytes
    ∧ s.beatFits (.drain 5 false (s.rm .rne) []) = .go ∧ s.beatFits (.drain 5 true (s.rm .rne) []) = .go ∧ s.spCheck ((s.rh 0).slotAddr 2) 128 64 = none
    ∧ (s.rh 0).fill + (s.rh 0).eng < (s.rh 0).cnt + 1 ∧ s.room 2 = .go ∧ s.Issues (.drain 5) ∧ s.Issues (.drainClr 5)
    -- the other half of a core in split mode
    ∧ s.half s.iss.core s.iss.ctx = 0 ∧ (s.modCc (fun k => { k with split := true })).half s.iss.core 4 = 1 := by
  refine ⟨?_, ?_, ?_, ?_, ?_, ?_, ?_, ?_, ?_, ?_, ?_, ?_, ?_, ?_, ?_, ?_, Or.inr rfl, Or.inr rfl, ?_, ?_⟩ <;> decide +kernel

theorem witness_MatrixSignature : 2 ^ 64 - 1 < 2 ^ 64 ∧ crc64 0 [] = 0 := by decide

theorem witness_CopyCommands :
    let s := ilk (ring (sets base [(4, 0x1410), (1, 0x1000), (2, 0x2000), (3, 64), (5, 63), (6, 2 ^ 22), (7, 2 ^ 34), (8, 0x3400), (9, 1),
      (12, 0x410 + 2 * 2 ^ 12), (13, 2 ^ 33)]) 1 (ringOf 1))
    let c := s.copyCmd 4 1 2 3 .core 0 0 false
    let onRing := s.copyCmd 8 1 9 3 .core 0 0 false
    c.bitsOk false = true ∧ (s.copyCmd 7 1 2 3 .core 0 0 false).bitsOk false = true ∧ (s.copyCmd 6 1 2 0 .core 0 0 false).sizesOk (s.rh 0) = false
    ∧ ({ c with mw := BitVec.ofNat 64 (2 ^ 43) } : CopyCmd).bitsOk false = false ∧ c.sizesOk (s.rh 0) = true ∧ c.formatsOk = true
    ∧ ({ c with mw := BitVec.ofNat 64 (0x1410 + 4 + 14 * 2 ^ 14 + 2 ^ 19) } : CopyCmd).formatsOk = false
    ∧ c.time ≤ s.pcyc + 2 ^ 32 ∧ s.pcyc + 2 ^ 32 < ({ c with time := 2 ^ 32 + 1 } : CopyCmd).time ∧ s.copyPlace c = none
    ∧ s.copyPlace (s.copyCmd 12 1 13 3 .core 0 0 false) = some (2 ^ 33) ∧ c.dk = 1 ∧ s.copyBank c (s.rh 0) = none ∧ s.room 1 = .go
    ∧ onRing.dk = 3 ∧ onRing.bitsOk false = true ∧ onRing.sizesOk (s.rh 1) = true ∧ (s.rh 1).fill + (s.rh 1).eng < (s.rh 1).cnt + 1
    ∧ ¬ ({ ringOf 1 with fill := 4 } : Ring).fill + 0 < 4 := by
  refine ⟨?_, ?_, ?_, ?_, ?_, ?_, ?_, ?_, ?_, ?_, ?_, ?_, ?_, ?_, ?_, ?_, ?_, ?_, ?_⟩ <;> decide +kernel

theorem witness_Timelines :
    let s := sets base [(1, 5), (2, 6)]
    let at5 := s.modTl 0 9 (fun t => { t with val := 5#64, rel := 5#64 })
    let busy := s.modTl 0 9 (fun t => { t with val := 5#64, rel := 6#64 })
    let park := s.modTl 0 9 (fun t => { t with park := 1 })
    (park.tl 0 9).park ≠ 0 ∧ (at5.tl 0 9).park = 0 ∧ (at5.tl 0 9).val.toNat < (at5.rs 2).toNat ∧ (at5.rs 1).toNat ≤ (at5.tl 0 9).val.toNat
    ∧ at5.drained = true ∧ (at5.tl 0 9).val = (at5.tl 0 9).rel ∧ (busy.tl 0 9).val ≠ (busy.tl 0 9).rel ∧ (8 : Nat) ≠ (9 : Fin 64).val
    ∧ (({} : Timeline).val.toNat + 2 < 2 ^ 64 ∧ ∀ p ∈ ({} : Timeline).done, p.1 ≤ ({} : Timeline).val.toNat) := by
  refine ⟨?_, ?_, ?_, ?_, ?_, ?_, ?_, ?_, ?_, ?_⟩ <;> decide +kernel

/-- A binding of the issuing context whose sync word lies in the range at 2^44. -/
def bound : State := (sets global [(1, 2 ^ 44), (2, 2 ^ 45), (3, 2 ^ 45 + 128), (4, 7), (5, 2 ^ 44 + 8), (6, 2 ^ 45 + 2 ^ 20)]).modCx (fun k =>
  { k with r := { k.r with b := k.r.b.set 1 { sync := BitVec.ofNat 64 (2 ^ 44), base := BitVec.ofNat 64 (2 ^ 45), limit := BitVec.ofNat 64 (2 ^ 45 + 128), v := true } } })

theorem witness_FencesAndAcquires :
    let s := bound
    let e := range (2 ^ 44) (2 ^ 44 + 2 ^ 22)
    let va := s.cx.r.b[(1 : Fin 16).val].sync.toNat
    let ans : SyncAns := { va := va, word := 7#128, wts := 3 }
    let got := s.modCx (fun k => { k with sync := some ans })
    let sending : State := { (s.modCx (fun k => { k with sendNo := 1, pbytes := 64 })) with
      msgs := [{ id := 1, core := 0, ctx := 0, task := s.cx.task, launch := 1, dest := 1, addr := 0 }] }
    let reading : State := { s with groups := [{ id := 1, who := .ctx 0 0 }] }
    let held : State := { entries s 1 0 .held with iss := { s.iss with serial := 1 } }
    (s.waitRelease .sys = .go ∧ s.readsBack = true ∧ reading.waitRelease .sys = .go ∧ reading.readsBack = false ∧ sending.waitRelease .sys = .ack)
    ∧ (held.drained = false ∧ held.Tried (.fence .sys)) ∧ (s.drained = true ∧ s.cx.pbytes = 0 ∧ sending.drained = true ∧ sending.cx.pbytes ≠ 0)
    ∧ (s.satisfied va 4 .geu = none ∧ s.syncCheck 1 (·.rd) = .ok e ∧ s.Tried (.acq 1 4 .sys .geu) ∧ s.Tried (.acqp 5 1 4 .sys .geu))
    ∧ (base.syncCheck 1 (·.rd) = .error { cause := 0x11, sub := 2 }) ∧ (got.satisfied va 4 .geu = some ans ∧ got.syncCheck 1 (·.rd) = .ok e)
    ∧ (base.syncCheck 1 (·.wr) = .error { cause := 0x11, sub := 2 } ∧ s.drained = true ∧ s.syncCheck 1 (·.wr) = .ok e) := by
  refine ⟨⟨?_, ?_, ?_, ?_, ?_⟩, ⟨?_, ⟨rfl, rfl⟩⟩, ⟨?_, ?_, ?_, ?_⟩, ⟨?_, ?_, ⟨rfl, rfl⟩, ⟨rfl, rfl⟩⟩, ?_, ⟨?_, ?_⟩, ⟨?_, ?_, ?_⟩⟩ <;>
    decide +kernel

theorem witness_BindingsAndBarriers :
    let sw : Lrt := { range (2 ^ 45) (2 ^ 45 + 2 ^ 20) with coh := 1 }
    let s := lrt bound [range (2 ^ 44) (2 ^ 44 + 2 ^ 22), sw]
    let lv := bound.modLaunch 1 (fun l => { l with hdr := l.hdr ||| BitVec.ofNat 2048 (2 * 2 ^ 128) })
    let done (s : State) : State := { s with bars := [{ id := 9, launch := 1, level := 1, group := 0, size := 1, done := 1#32 }] }
    let arr (s : State) : State := s.modCx (fun k => { k with arr := k.arr.set 1 2#32 })
    let on (s : State) : State := s.modCx (fun k => { k with barOn := true })
    ((s.rs 1).toNat % 16 = 0 ∧ (s.rs 2).toNat % 128 = 0 ∧ (s.rs 3).toNat % 128 = 0 ∧ (s.rs 2).toNat < (s.rs 3).toNat
      ∧ (∃ e ∈ s.cl.lrt, e.v = true ∧ e.coh = 1 ∧ e.base ≤ (s.rs 2).toNat ∧ (s.rs 3).toNat ≤ e.limit)
      ∧ (∃ e ∈ s.cl.lrt, e.v = true ∧ e.wr = true ∧ e.coh ≠ 2 ∧ e.base ≤ (s.rs 1).toNat ∧ (s.rs 1).toNat + 16 ≤ e.limit))
    ∧ (s.rs 5).toNat % 16 ≠ 0 ∧ bit bound.cl.barlv 1 = false
    ∧ (bit lv.cl.barlv 1 = true ∧ lv.drained = true ∧ (lv.barrier 0 0 1).2.done = lv.cx.arr[1] ∧ lv.waitRelease (lv.cl.barScope 1) = .go)
    ∧ ((done lv).barrier 0 0 1).2.done ≠ (done lv).cx.arr[1] ∧ (done lv).cx.arr[1].toNat ≤ ((done lv).barrier 0 0 1).2.done.toNat
    ∧ ((arr (done lv)).barrier 0 0 1).2.done.toNat < (arr (done lv)).cx.arr[1].toNat
    ∧ (on (done lv)).cx.barOn = true ∧ (on (arr (done lv))).cx.barOn = true ∧ lv.cx.barOn = false ∧ lv.iss.stop = none ∧ lv.baraWait 1 = .go
    ∧ lv.Tried (.bar 1) := by
  refine ⟨⟨?_, ?_, ?_, ?_, ?_, ?_⟩, ?_, ?_, ⟨?_, ?_, ?_, ?_⟩, ?_, ?_, ?_, ?_, ?_, ?_, ?_, ?_, ⟨rfl, rfl⟩⟩ <;> decide +kernel

theorem witness_EngineRegistersAndBanks :
    let s := dieOn (sets base [(1, 2 ^ 31), (2, 2 ^ 30), (3, 2 ^ 33)])
    let off := s.modLaunch 1 (fun l => { l with hdr := 0#2048 })
    let other := engine s (fun e => { e with owner := some 3 })
    let tile := engine s (fun e => { e with owner := some 0, tile := some openTile })
    let lent := s.modCc (fun k => { k with sp := { k.sp with owner := tset k.sp.owner 31 2 } })
    off.cl.mx = false ∧ s.cl.mx = true ∧ s.beatWait = .go ∧ s.tile = none ∧ tile.beatWait = .go ∧ tile.tile ≠ none ∧ other.beatWait = .hold
    ∧ (∃ b < 32, bit ((off.rs 1).toNat % 2 ^ 32) b = true ∧ bit off.cl.bank b = false)
    ∧ (∀ b < 32, bit ((s.rs 1).toNat % 2 ^ 32) b = true → bit s.cl.bank b = true)
    ∧ (∀ b < 32, bit ((s.rs 1).toNat % 2 ^ 32) b = true → tget s.cc.sp.owner b 0 = s.cx.launch)
    ∧ ¬ (∀ b < 32, bit ((lent.rs 1).toNat % 2 ^ 32) b = true → tget lent.cc.sp.owner b 0 = lent.cx.launch)
    ∧ s.drained = true ∧ s.cc.cb = [] ∧ s.powerPlace (s.rs 1).toNat = none
    ∧ s.powerPlace 0 = some (0, 0) ∧ (0, 0) = (s.iss.core, s.half s.iss.core s.iss.ctx) ∧ s.powerPlace (2 ^ 24) = some (1, 0)
    ∧ (1, 0) ≠ (s.iss.core, s.half s.iss.core s.iss.ctx) := by
  refine ⟨?_, ?_, ?_, ?_, ?_, ?_, ?_, ⟨31, ?_, ?_⟩, ?_, ?_, ?_, ?_, ?_, ?_, ?_, ?_, ?_, ?_⟩ <;> decide +kernel

theorem witness_MessagesAndLaunches :
    let s := sets base [(1, 0x1000), (2, 2 ^ 24 - 1), (3, 4096), (4, 2 ^ 24), (5, 2 ^ 22), (6, 64)]
    let q (u : LQueue) : State := s.modLq 3 (fun _ => u)
    let open_ : LQueue := { en := true, dev := true, lg := 4 }
    let msg (n : Nat) : LMsg := { src := 0, gin := 0, lt := 3, bytes := List.replicate n 1#8 }
    let lrq (l : List LMsg) : State := s.modLrq 2 (fun _ => { en := true, used := 2, msgs := l })
    let t : Trap := { cause := 0x08, addr := 2 ^ 22 }
    (s.spCheck ((s.rs 1).toNat : Int) 4096 64 = none ∧ (s.rs 2).toNat < 2 ^ 24 ∧ (s.rs 3).toNat % 64 = 0 ∧ 64 ≤ (s.rs 3).toNat
      ∧ (s.rs 3).toNat ≤ 4096 ∧ s.room 1 = .go ∧ ¬ (s.rs 4).toNat < 2 ^ 24 ∧ s.spCheck ((s.rs 5).toNat : Int) 4096 64 = some t)
    ∧ (s.spCheck ((s.rs 1).toNat : Int) 256 64 = none ∧ s.room 4 = .go)
    ∧ (((q open_).lqueue 3).en = true ∧ ((q open_).lqueue 3).dev = true ∧ ((q open_).lqueue 3).held + ((q open_).lqueue 3).reserved < 2 ^ 4)
    ∧ ((q { open_ with dev := false }).lqueue 3).dev = false
    ∧ 2 ^ 4 ≤ ((q { open_ with reserved := 16 }).lqueue 3).held + ((q { open_ with reserved := 16 }).lqueue 3).reserved
    ∧ (s.drained = true ∧ ((lrq []).lrq 2).room = [] ∧ (((lrq []).dropCancelled 2).lrq 2).msgs = []
      ∧ (((lrq [msg 64]).dropCancelled 2).lrq 2).msgs = [msg 64] ∧ (msg 64).bytes.length ≤ (s.rs 6).toNat ∧ (s.rs 6).toNat < (msg 65).bytes.length
      ∧ (((lrq [msg 65]).dropCancelled 2).lrq 2).msgs = [msg 65] ∧ ((lrq [msg 65]).dropCancelled 2).spCheck ((s.rs 1).toNat : Int) 64 64 = none
      ∧ (lrq [msg 65]).Tried (.recv 7 1 6 .core 2)) := by
  refine ⟨⟨?_, ?_, ?_, ?_, ?_, ?_, ?_, ?_⟩, ⟨?_, ?_⟩, ⟨?_, ?_, ?_⟩, ?_, ?_, ⟨?_, ?_, ?_, ?_, ?_, ?_, ?_, ?_, ⟨rfl, rfl⟩⟩⟩ <;> decide +kernel

theorem witness_HeaderFlags :
    let t := engine base (fun e => { e with owner := some 0, tile := some openTile })
    let two := base.modCx (fun k => { k with mark2 := some (3, k.r) })
    t.tile ≠ none ∧ two.tile = none ∧ two.cx.mark2 ≠ none ∧ base.tile = none ∧ base.cx.mark2 = none ∧ base.cx.markAt = none := by
  refine ⟨?_, ?_, ?_, ?_, ?_, ?_⟩ <;> decide +kernel

/-! ### Witnesses: events -/

/-- Core 0 with one change. -/
def core0 (s : State) (f : Core → Core) : State := s.modCore 0 f
/-- Context 0 of core 0 with one change. -/
def ctx0 (s : State) (f : Ctx → Ctx) : State := s.modCtx 0 0 f
/-- The argument of the step. -/
def arg (s : State) (a : Arg) : State := { s with arg := a }

theorem witness_FetchAndDecode :
    let good : Bundle := BitVec.ofNat 384 ((0x20 + 3 * 2 ^ 8 + 1 * 2 ^ 14 + 2 * 2 ^ 20) * 2 ^ 16)
    let bad := State.reset.withFetchWord 48 0x44
    let out := ctx0 base (fun k => { k with r := { k.r with pc := -1 } })
    let left := ctx0 base (fun k => { k with r := { k.r with pc := 2 ^ 32, brFrom := some 5 } })
    (addBundle.fetch 0 0 = .bundle good 25 ∧ decodeBundle good = .ok (⟨false, false, false, false⟩, [(0, .add 3 1 2)]))
    ∧ (bad.fetch 0 0 = .bundle (BitVec.ofNat 384 (0x44 * 2 ^ 16)) 25
      ∧ decodeBundle (BitVec.ofNat 384 (0x44 * 2 ^ 16)) = .error (.illegalOpcode, 0))
    ∧ ((out.ctx 0 0).r.pc < 0 ∧ (out.ctx 0 0).r.brFrom = none)
    ∧ (((left.launch (left.ctx 0 0).launch).nidx : Int) ≤ (left.ctx 0 0).r.pc ∧ (left.ctx 0 0).r.brFrom = some 5) := by
  refine ⟨⟨?_, ?_⟩, ⟨?_, ?_⟩, ⟨?_, ?_⟩, ⟨?_, ?_⟩⟩ <;> decide +kernel

theorem witness_FetchEvents :
    let dict := core0 base (fun k => { k with regions := [{ image := 0, first := 8, count := 4, users := [1] }], dictErr := [(11, true)] })
    let waiting := ctx0 base (fun k => { k with status := .waiting })
    let parked := ctx0 base (fun k => { k with status := .parked })
    let resv := arg (ctx0 base (fun k => { k with resv := [(15, 2, 3, true)] })) { n := 15 }
    let cold := core0 base (fun k => { k with freeze := 5 })
    (128 * (2 ^ 33 - 1) < 2 ^ 40 ∧ 2 ^ 40 ≤ 128 * 2 ^ 33 ∧ (base.core 0).icache.length ≤ 256)
    ∧ (dict.core 0).regions.find? (fun r => r.first ≤ 11 && 11 < r.first + r.count) = some { image := 0, first := 8, count := 4, users := [1] }
    ∧ (waiting.ctx 0 0).status = .waiting ∧ (base.ctx 0 0).status ≠ .waiting ∧ (parked.ctx 0 0).status = .parked
    ∧ (resv.arg.n = 15 ∧ 15 < 16 ∧ (resv.ctx 0 0).resv = [(15, 2, 3, true)])
    -- a row of format 5 lands in the active bank, which holds format 4, under a tile that has fed it
    ∧ (((base.core 0).eng 0).newFormat = false
      ∧ (let late : LateRow := { left := 1, row := 3, fmt := 5, data := 0#4096, from_ := { serial := 0, use := 0, src := .spad 0 } }
         let e := ((engine base (fun e => { e with owner := some 0, tile := some { openTile with fed := true },
                                                   bank0 := { fmt := some 4, late := [late] }, sel := false })).core 0).eng 0
         e.owner = some 0 ∧ e.newFormat = true))
    ∧ (base.core 0).freeze ≤ base.pcyc ∧ cold.pcyc < (cold.core 0).freeze := by
  refine ⟨⟨?_, ?_, ?_⟩, ?_, ?_, ?_, ?_, ⟨?_, ?_, ?_⟩, ⟨?_, ?_, ?_⟩, ?_, ?_⟩ <;> decide +kernel

theorem witness_MarksAndMismatches :
    let two := ctx0 base (fun k => { k with mark2 := some (3, k.r) })
    let wait := ctx0 two (fun k => { k with pend := [(1, 2, .s 3)] })
    let roll := ctx0 base (fun k => { k with status := .halted, why := .rolling })
    let split := core0 base (fun k => { k with split := true })
    let again := core0 base (fun k => { k with lockBad := [0], resBad := [(0, 1)] })
    ((two.ctx 0 0).mark2.map (·.1) = some 3 ∧ two.markDue 0 0 = true ∧ wait.markDue 0 0 = false)
    ∧ ((roll.ctx 0 0).why = .rolling ∧ roll.recordHeld 0 0 = false ∧ (roll.ctx 0 0).nextAt ≤ roll.now 0
      ∧ (let soon := ctx0 roll (fun k => { k with nextAt := 9 }); soon.now 0 < (soon.ctx 0 0).nextAt))
    ∧ ((base.core 0).split = false ∧ (base.ctx 0 0).running = true ∧ 0 ∉ (base.core 0).lockBad ∧ 0 ∈ (again.core 0).lockBad
      ∧ (again.ctx 0 0).running = true ∧ (split.core 0).split = true ∧ (0, 1) ∉ (base.core 0).resBad ∧ (0, 1) ∈ (again.core 0).resBad) := by
  refine ⟨⟨?_, ?_, ?_⟩, ⟨?_, ?_, ?_, ?_⟩, ⟨?_, ?_, ?_, ?_, ?_, ?_, ?_, ?_⟩⟩ <;> decide +kernel

theorem witness_ScratchpadEvents :
    let w : PWrite := { id := 4, clk := 0, addr := 2 ^ 22 - 64, be := 1#64, src := .entry 9 }
    let d : Delta := { wid := 4, fixed := 0, g := 0, row := 0, post := 0, apply := none, data := 1#512, tags := 0#8 }
    let s := core0 base (fun k => { k with stopDrain := 1, sp := { k.sp with wr := [w], deltas := [d],
                                                                             power := [(0, .sleep), (1, .waking 3 false), (2, .waking 3 true)] } })
    let t : Tile := { id := 7 }
    let bad : Tile := { t with sigs := 1#64 }
    let tiles (t : Tile) (e : List Entry) : State := (core0 base (fun k => { k with cb := e, eng0 := { k.eng0 with closed := [t] } })).modClu 0
      (fun u => { u with hardy := { queue := [(0, 7, 0)] } })
    let e : Entry := { id := 2, ctx := 0, serial := 0, kind := .drain 0 0#512 1#64 0 7 0 }
    let b (s : State) : State := s.modClu 0 (fun u => { u with hardy := { queue := [], until_ := none } })
    (s.pcyc < (s.core 0).stopDrain ∧ (base.core 0).stopDrain ≤ base.pcyc ∧ (base.core 0).freeze ≤ base.pcyc
      ∧ (let cold := core0 base (fun k => { k with freeze := 24 }); cold.pcyc < (cold.core 0).freeze ∧ (cold.core 0).freeze ≤ cold.pcyc + 24)
      ∧ (s.core 0).sp.errs = [])
    ∧ ((s.core 0).sp.wr.find? (fun w => w.id = 4) = some w ∧ w.read = false ∧ w.red = none ∧ w.addr % 64 = 0 ∧ w.tset = 0#8
      ∧ Memory.wf (s.core 0).sp.data = true ∧ (s.core 0).sp.deltas.find? (fun d => d.wid = 4) = some d)
    ∧ ((base.core 0).sp.powerOf 31 = .on ∧ (s.core 0).sp.powerOf 0 ≠ .on ∧ (s.core 0).sp.powerOf 1 = .waking 3 false
      ∧ (s.core 0).sp.powerOf 2 = .waking 3 true)
    ∧ ((tiles t []).closedTile 0 7 = some t ∧ t.siga = t.sigs ∧ (tiles bad []).closedTile 0 7 = some bad ∧ bad.siga ≠ bad.sigs)
    ∧ (((tiles bad []).clu 0).hardy.queue = (0, 7, 0) :: [] ∧ (b (tiles bad [])).closedTile 0 7 = some bad
      -- the replay of a record with no beat gives the signature the set began with, all ones
      ∧ ((b (tiles bad [])).replay 0 bad).sig ≠ bad.siga.toNat ∧ ((b (tiles bad [])).replay 0 bad).sig ≠ bad.sigs.toNat
      ∧ (let both : Tile := { t with siga := BitVec.allOnes 64, sigs := BitVec.allOnes 64 }
         ((b (tiles both [])).replay 0 both).sig = both.siga.toNat ∧ ((b (tiles both [])).replay 0 both).sig = both.sigs.toNat)
      ∧ (let a : Tile := { t with siga := BitVec.allOnes 64 }
         ((b (tiles a [])).replay 0 a).sig = a.siga.toNat ∧ ((b (tiles a [])).replay 0 a).sig ≠ a.sigs.toNat)
      ∧ (let a : Tile := { t with sigs := BitVec.allOnes 64 }
         ((b (tiles a [e])).replay 0 a).sig ≠ a.siga.toNat ∧ ((b (tiles a [e])).replay 0 a).sig = a.sigs.toNat
         ∧ ((b (tiles a [e])).core 0).cb.any (·.read) = false ∧ ((b (tiles a [{ e with read := true }])).core 0).cb.any (·.read) = true)) := by
  refine ⟨⟨?_, ?_, ?_, ⟨?_, ?_⟩, ?_⟩, ⟨?_, ?_, ?_, ?_, ?_, ?_, ?_⟩, ⟨?_, ?_, ?_, ?_⟩, ⟨?_, ?_, ?_, ?_⟩, ⟨?_, ?_, ?_, ?_, ⟨?_, ?_⟩, ⟨?_, ?_⟩, ⟨?_, ?_, ?_, ?_⟩⟩⟩ <;>
    decide +kernel

/-- A request of context 0 of core 0 for 8 bytes at va. -/
def request (va : Nat) (e : Lrt) (w : Want) : Req :=
  { id := 5, who := .ctx 0 0, launch := 1, task := (base.ctx 0 0).task, g := { va := va, len := 8, ent := e }, want := w }

theorem witness_RequestsAndWritesAtHomes :
    let here : Lrt := { home := 0, hdie := 0, dmask := 1 }
    let touch : Lrt := { home := 2, dmask := 1 }
    let with_ (r : Req) (a : Arg) : State := arg { base with reqs := [r] } a
    let r := request 0x1000 here (.write 1 255)
    let u := request 0x1000 touch (.write 1 255)
    let spill (n : Nat) : State := base.modClu 0 (fun k => { k with spill := [5], inbuf := List.replicate n 5 })
    let m : Msg := { id := 5, core := 1, ctx := 0, task := 0, launch := 1, dest := 0, addr := 64, rste := some .clus }
    let pinned : State := ({ with_ { r with p := some 0x1000 } { id := 5 } with lines := [(0x1000 / 128, { pins := [0] })] } : State)
    let tile : Tile := { openTile with beats := [(0, .wload false 0 4 512 (.tongs 0x1000 0))] }
    let line : CLine := { asid := 0, va := 0x1000, data := 0#1024, valid := BitVec.allOnes 128, ent := here, pins := 1, home := some 0x1000 }
    let kept : State := (core0 pinned (fun k => { k with eng0 := { k.eng0 with tile := some tile } })).modClu 0 (fun k => { k with l2 := [line] })
    let many : State := { base with msgs := List.replicate 32 { m with here := true } }
    ((with_ r { id := 5 }).req? 5 = some r ∧ (with_ r { id := 5 }).reqHome r = 0 ∧ (with_ u { id := 5 }).reqHome u = 9
      ∧ ((with_ r { id := 5 }).die 0).dfail = false ∧ (((with_ r {}).modDie 0 (fun d => { d with dfail := true })).die 0).dfail = true
      ∧ (with_ r {}).earlierOwn r = false ∧ State.away r = false ∧ State.away (request 0x1000 { here with home := 4 } (.write 1 255)) = true ∧ (with_ { r with p := some 0x1000 } { id := 5, flag := true }).req? 5 = some { r with p := some 0x1000 })
    ∧ ((with_ r {}).homeDie r.g.ent r.g.va).isSome = true ∧ (with_ u {}).homeDie u.g.ent u.g.va = none ∧ ((with_ u {}).die 0).frames = []
    ∧ ((with_ u {}).modDie 0 (fun d => { d with frames := [0x4000] })).homeDie u.g.ent u.g.va = none
    ∧ (((with_ u {}).modDie 0 (fun d => { d with frames := [0x4000] })).die 0).frames = 0x4000 :: []
    ∧ (((spill 63).clu 0).spill = 5 :: [] ∧ ((spill 63).clu 0).inbuf.length < 64 ∧ 64 ≤ ((spill 64).clu 0).inbuf.length)
    ∧ (({ base with msgs := [m] } : State).msg? 5 = some m
      ∧ (({ base with msgs := [m] } : State).msgs.filter (fun n => n.dest = m.dest && n.rste.isSome && n.here)).length < 32
      ∧ many.msg? 5 = some { m with here := true }
      ∧ 32 ≤ (many.msgs.filter (fun n => n.dest = m.dest && n.rste.isSome && n.here)).length)
    ∧ (kept.pinnedBy 0x1000 = some 0 ∧ (kept.clu 0).spill = [] ∧ (kept.clu 0).inbuf.length < 64
      ∧ ((kept.modClu 0 (fun k => { k with spill := [5] })).clu 0).spill.length < spillMax ∧ (List.replicate spillMax 5).length = spillMax)
    ∧ (pinned.req? 5 = some { r with p := some 0x1000 } ∧ pinned.earlierOwn { r with p := some 0x1000 } = false
      ∧ (with_ { r with p := some 0x1000 } {}).pinnedBy 0x1000 = none ∧ (255 : Nat) ≠ 0
      ∧ pinned.backOut { r with p := some 0x1000 } = false ∧ pinned.ckUnit 0x1000 = none
      ∧ ((with_ r {}).line 0x1000).err = false
      ∧ (({ with_ r {} with lines := [(0x1000 / 128, { err := true })] } : State).line 0x1000).err = true
      ∧ ¬ (8 = 128 ∧ 0x1000 % 128 = 0 ∧ 255 = 2 ^ 128 - 1)) := by
  refine ⟨⟨?_, ?_, ?_, ?_, ?_, ?_, ?_, ?_, ?_⟩, ?_, ?_, ?_, ?_, ?_, ⟨?_, ?_, ?_⟩, ⟨?_, ?_, ?_, ?_⟩, ⟨?_, ?_, ?_, ?_, List.length_replicate⟩,
    ⟨?_, ?_, ?_, ?_, ?_, ?_, ?_, ?_, ?_⟩⟩ <;> decide +kernel

theorem witness_HomeWriteBytes :
    base.MemOk ∧ base.upds = [] ∧ 0 < 128 ∧ (2 ^ 40 - 128) + 128 ≤ 2 ^ 40 ∧ (2 ^ 40 - 128) / 128 = ((2 ^ 40 - 128) + 128 - 1) / 128 :=
  ⟨⟨by decide +kernel, by decide +kernel⟩, by decide +kernel, by decide, by decide, by decide⟩

theorem witness_AnswersOfHomes :
    let of_ (w : Want) : Req := request 0x1000 { home := 0 } w
    let s (r : Req) : State := arg { base with reqs := [r] } { id := 5 }
    -- one of each kind of request of a context that runs its task still
    let ready (w : Want) : Prop := (s (of_ w)).req? (s (of_ w)).arg.id = some (of_ w) ∧ (of_ w).who = .ctx 0 0 ∧ (s (of_ w)).listening (of_ w) = true
      ∧ (s (of_ w)).arg.flag = false
    let q : RelRun := { id := 7, core := 0, ctx := 0, task := 0, launch := 1, serial := 0, pos := 0, va := 0, ent := {}, val := 0#64,
                        sc := .clus, ranges := [], sn := 0 }
    let r := of_ (.read 3)
    let marked := ctx0 (s r) (fun k => { k with markSer := some 0 })
    ready (.read 3) ∧ ready (.prefetch true) ∧ ready (.amo 2 1 .add 1 .d) ∧ ready (.cas 2 1 1 1 .d) ∧ ready .sync ∧ ready (.grant 7)
    ∧ ready (.write 1 255) ∧ ready (.red .add 1) ∧ ready .pin
    ∧ ((1 : SReg) ≠ 0 ∧ (ctx0 (s r) (fun k => { k with syncReq := some 5 })).cx.syncReq = some r.id ∧ (s r).rel? 7 = none
      ∧ ({ s r with rels := [q] } : State).rel? 7 = some q)
    -- a refusal of a context that runs, before and in the bundle of its mark, and of one whose task has ended
    ∧ (((s r).ctx 0 0).why ≠ .trapped ∧ ((s r).ctx 0 0).why ≠ .lost ∧ ((s r).ctx 0 0).why ≠ .done ∧ ¬ (∃ n, ((s r).ctx 0 0).markSer = some n ∧ r.serial ≤ n)
      ∧ (∃ n, (marked.ctx 0 0).markSer = some n ∧ r.serial ≤ n) ∧ ({ r with code := 1 } : Req).code = 1
      ∧ ((ctx0 (s (of_ (.write 1 255))) (fun k => { k with status := .halted, why := .done })).ctx 0 0).why = .done
      ∧ (ctx0 (s (of_ (.write 1 255))) (fun k => { k with status := .halted, why := .done })).listening (of_ (.write 1 255)) = true)
    ∧ (r.want = .read 3 ∧ ∀ a d, ((s r).ctx 0 0).why ≠ .saving a d) := by
  refine ⟨⟨?_, ?_, ?_, ?_⟩, ⟨?_, ?_, ?_, ?_⟩, ⟨?_, ?_, ?_, ?_⟩, ⟨?_, ?_, ?_, ?_⟩, ⟨?_, ?_, ?_, ?_⟩, ⟨?_, ?_, ?_, ?_⟩, ⟨?_, ?_, ?_, ?_⟩,
    ⟨?_, ?_, ?_, ?_⟩, ⟨?_, ?_, ?_, ?_⟩, ⟨?_, ?_, ?_, ?_⟩,
    ⟨?_, ?_, ?_, fun ⟨n, h, _⟩ => (by cases (h : (none : Option Nat) = some n)), ⟨0, ?_, ?_⟩, ?_, ?_, ?_⟩, ⟨?_, fun a d h => ?_⟩⟩ <;>
      first | decide +kernel | cases (h : Why.none = _)

theorem witness_ClockAndOrderEvents :
    let v : VRes := { id := 5, core := 0, ctx := 0, w := .s 3 9#64 }
    let m : Msg := { id := 5, core := 0, ctx := 0, task := (base.ctx 0 0).task, launch := 1, dest := 0, addr := 64, bytes := 8 }
    let p : Promo := { id := 5, core := 0, ctx := 0, task := (base.ctx 0 0).task, sc := .clus, va := 0, asid := 0, seq := 0, ep := 0, target := 0 }
    let s (v : VRes) : State := arg { base with vres := [v], msgs := [m], promos := [p] } { id := 5, flag := true }
    let mig := arg (ctx0 base (fun k => { k with why := .migrating })) { id := (base.ctx 0 0).task }
    ((s v).vres.find? (fun v => v.id = (s v).arg.id) = some v ∧ v.tl = none ∧ (3 : SReg) ≠ 0)
    ∧ (s { v with tl := some (9, 3) }).vres.find? (fun v => v.id = 5) = some { v with tl := some (9, 3) }
    ∧ ((mig.ctx mig.arg.core mig.arg.ctx).why = .migrating ∧ (mig.ctx 0 0).task = mig.arg.id ∧ (base.ctx 0 0).why ≠ .migrating)
    ∧ ((s v).msg? 5 = some m ∧ ((s v).ctx m.core m.ctx).task = m.task)
    ∧ ((s v).promo? 5 = some p ∧ (base.coreOn 0 = false) ∧ (dieOn base).coreOn 0 = true ∧ ((dieOn base).core 0).epoch % 2 ^ 16 = p.ep
      ∧ ((dieOn base).core 0).plog = []
      ∧ ({ base with vres := [{ v with id := 6 }] } : State).vres.find? (fun v => v.core = p.core && v.ctx = p.ctx && v.id = p.id + 1)
          = some { v with id := 6 }
      ∧ ((s v).ctx p.core p.ctx).task = p.task) := by
  refine ⟨⟨?_, ?_, ?_⟩, ?_, ⟨?_, ?_, ?_⟩, ⟨?_, ?_⟩, ⟨?_, ?_, ?_, ?_, ?_, ?_, ?_⟩⟩ <;> decide +kernel

/-! ### Witnesses: copies, messages, links, collectives -/

/-- A copy command of context 0 of core 0 under way: control word, length, issue time. -/
def copyRun (mw len time : Nat) (ph : CopyPhase) : CopyRun :=
  { id := 3, cmd := { launch := 1, gin := 7, src := 0x1000, dst := 0x100, len := len, mw := BitVec.ofNat 64 mw, time := time, aux1 := 5#64 },
    entry := 1, task := (base.ctx 0 0).task, serial := 0, pos := 0, clus := 0, sn := 0, phase := ph }

theorem witness_CopyEvents :
    let s (r : CopyRun) (a : Arg) : State := arg { base with copies := [r] } a
    let at_ : Arg := { id := 3 }
    let plain := copyRun 0 64 0 .rel
    let piece := { copyRun 0 64 0 .retry with pieces := [(0, 64)] }
    let busy := { copyRun 0 64 0 .rel with task := 9, sn := 1, cmd := { plain.cmd with sc := .clus } }
    let msg : Msg := { id := 5, core := 0, ctx := 0, task := 9, launch := 1, dest := 0, addr := 64 }
    let verify := copyRun 32 64 0 .back
    ((s plain at_).copy? (s plain at_).arg.id = some plain ∧ plain.phase = .rel ∧ (s plain at_).copyReleased plain = true
      ∧ ({ s busy at_ with msgs := [msg] } : State).copyReleased busy = false)
    ∧ (piece.pieces[piece.piece]? = some (0, 64) ∧ piece.cmd.isIdx = false ∧ piece.cmd.sk = 0
      ∧ ∃ t, ((s piece at_).launchOn 0 1).lrtFind (piece.srcAt 0) (64 * piece.cmd.srcUnit) (·.rd) = .error t)
    ∧ (verify.phase ≠ .tags ∧ verify.cmd.isSigv = true ∧ verify.fold ≠ verify.cmd.aux1 ∧ verify.tries < 3
      ∧ plain.cmd.isSigv = false ∧ plain.cmd.isTagf = false)
    ∧ (let q := copyRun 0 64 0 .queued
       let late := copyRun 0 64 99 .queued
       (s q {}).copyHead 0 0 = some q ∧ q.cmd.time ≤ (s q {}).pcyc ∧ (s q {}).pathFree 0 0 ≤ (s q {}).pcyc
       ∧ (s q {}).dist.cancel.contains 7 = false ∧ (s late {}).copyHead 0 0 = some late ∧ (s late {}).pcyc < late.cmd.time
       ∧ (let c : State := { s q {} with dist := { (s q {}).dist with cancel := [7] } }
          c.copyHead 0 0 = some q ∧ c.dist.cancel.contains 7 = true)) := by
  refine ⟨⟨?_, ?_, ?_, ?_⟩, ⟨?_, ?_, ?_, ⟨_, rfl⟩⟩, ⟨?_, ?_, ?_, ?_, ?_, ?_⟩, ⟨?_, ?_, ?_, ?_, ?_, ?_, ?_, ?_⟩⟩ <;> decide +kernel

theorem witness_MessageAndLinkEvents :
    let r : SendRun := { id := 3, core := 0, ctx := 0, task := (base.ctx 0 0).task, launch := 1, serial := 0, sn := 0, tl := 0, sc := .core,
                         chip := 4, queue := 2, addr := 0, len := 64 }
    let s (r : SendRun) (a : Arg) : State := arg { base with fab := { base.fab with sends := [r] } } a
    let open_ (u : LRQ) (a : Arg) : State := arg { base with fab := { base.fab with lrqs := [(2, u)] } } a
    let p : Packet := .msg 4 0 3 2 7 9 [1#8]
    ((s r { id := 3 }).send? 3 = some r ∧ r.phase = 0 ∧ (s r { id := 3 }).sendReleased r = true
      ∧ (s { r with sn := 1, sc := .clus } {}).sendReleased { r with sn := 1, sc := .clus } = true)
    ∧ ((s { r with phase := 1 } { id := 3 }).reachable 4 = false
      ∧ ({ base with fab := { base.fab with route := [(4, 1#32)] } } : State).reachable 4 = true)
    ∧ ((open_ { used := 255, room := [(4, 3, 1)] } { n := 2 }).lrq 2 = { used := 255, room := [(4, 3, 1)] }
      ∧ (open_ { used := 256, room := [(4, 3, 1)] } { n := 2 }).lrq 2 = { used := 256, room := [(4, 3, 1)] })
    ∧ ((open_ { en := true } { n := 2, pkt := some p }).arg.pkt = some (.msg 4 0 3 2 7 9 [1#8]) ∧ ((open_ { en := true } {}).lrq 2).en = true
      ∧ ((open_ {} {}).lrq 2).en = false)
    -- packets: for this chip, number 0, and for another
    ∧ (pktChip p = base.mg.chip.toNat ∧ pktChip (.cancel 4 7) ≠ base.mg.chip.toNat)
    ∧ (let l : Link := { replay := [p], retr := 0x0101#16, tx := 0xFE#8 }
       let k : State := { base with fab := { base.fab with links := [(2, l)], routeNew := [(4, 1#32)] } }
       -- every wavelength active, flit 5 the next, and a set of seven agreed on: a packet of 2 flits ends before flit 8, one of 4 does not
       let up : Link := { tx := 0xFF#8, rx := 0xFF#8, flits := 5, txNew := some 0xFE#8 }
       (up.up = true ∧ up.flits + pktFlits p ≤ 8 ∧ (5 + 7) / 8 * 8 = 8 ∧ 8 < 5 + pktFlits (.msg 4 0 3 2 7 9 (List.replicate 48 1#8))
        ∧ up.txNew.getD up.tx &&& BitVec.ofNat 8 (2 ^ 1) ≠ 0#8 ∧ up.txNew.getD up.tx &&& BitVec.ofNat 8 (2 ^ 0) = 0#8
        ∧ up.retr &&& BitVec.ofNat 16 (2 ^ 0) = 0#16)
       ∧ (k.link 2).replay = p :: [] ∧ (k.link 2).retr &&& BitVec.ofNat 16 (2 ^ 0) ≠ 0#16 ∧ (k.link 2).retr &&& BitVec.ofNat 16 (2 ^ (0 + 8)) ≠ 0#16
       ∧ k.fab.routeNew.find? (fun e => e.1 = 4) = some (4, 1#32)) := by
  refine ⟨⟨?_, ?_, ?_, ?_⟩, ⟨?_, ?_⟩, ⟨?_, ?_⟩, ⟨?_, ?_, ?_⟩, ⟨?_, ?_⟩, ⟨⟨?_, ?_, ?_, ?_, ?_, ?_, ?_⟩, ?_, ?_, ?_, ?_⟩⟩ <;> decide +kernel

theorem witness_CollectiveEvents :
    let w : CWait := { id := 3, core := 0, ctx := 0, task := (base.ctx 0 0).task, launch := 1, serial := 0, sn := 0, tab := 2, va := 0x1000,
                       coll := false, steps := 1, tl := 0, sc := .core }
    let s (w : CWait) : State := arg { base with coll := { base.coll with waits := [w] } } { id := 3 }
    let coll : CWait := { w with coll := true, steps := 0 }
    let c : CStep := { op := 0, fmt := 0, dep := 0xFF, tag := 0, peer := 0, src := 0, dst := 0, len := 0, lq := 0, lv := false, lh := 0 }
    let i : CInst := { id := 3, tab := 2, gin := 7, arg := 0, core := 0, ctx := 0, task := 0, tl := 0, num := 1, launch := 1 }
    let inst (cs : List CStep) (i : CInst) (rs : List CRun) (a : Arg) : State :=
      arg { base with coll := { base.coll with tabs := [(2, 7, cs)], insts := [i], runs := rs } } a
    let r : CRun := { id := 5, inst := 3, step := 0 }
    ((s w).wait? 3 = some w ∧ (s w).waitFirst w = true ∧ (s w).coll.insts.any (fun i => i.tab = w.tab) = false ∧ w.busy = false
      ∧ 1 ≤ w.steps ∧ (∃ t, ((s w).launchOn 0 1).lrtFind w.va (64 * w.steps) (·.rd) = .error t))
    -- an image of one empty entry: its dependence names itself, and is refused; with no dependence it is accepted
    ∧ (stepOk 0 0 = false ∧ stepOk (0xFF * 2 ^ 16) 0 = true ∧ (s { w with busy := true }).waitFirst { w with busy := true } = true)
    ∧ ((s coll).wait? 3 = some coll ∧ (s coll).waitFirst coll = true
      ∧ (s coll).coll.insts.length + ((s coll).coll.waits.filter (fun v => v.num != 0)).length < 64
      ∧ 64 ≤ (List.replicate 63 i).length + ([{ coll with num := 1 }].filter (fun (v : CWait) => v.num != 0)).length
      ∧ (s { coll with num := 1 }).performedOf 0 0 (base.ctx 0 0).task 0 .core = true)
    ∧ ((inst [c] i [] { id := 3 }).inst? 3 = some i ∧ (inst [c] i [] { id := 3 }).dist.cancel.contains 7 = false ∧ i.dead = false
      ∧ ((inst [c] i [] { id := 3 }).stepsOf i)[0]? = some c ∧ (inst [c] i [] { id := 3 }).stepReady i 0 = true
      ∧ (inst [{ c with dep := 0 }] i [] { id := 3 }).stepReady i 0 = false
      -- a step of an instance that has met a fault, whose message has not come
      ∧ (let o : CInst := { i with dead := true }
         o.dead = true ∧ (inst [{ c with op := 2 }] o [] { id := 3 }).stepReady o 0 = true))
    ∧ ((inst [c] i [r] { id := 5 }).run? 5 = some r ∧ (inst [c] i [r] { id := 5 }).inst? r.inst = some i
      ∧ ((inst [c] i [r] {}).stepsOf i).length ≤ i.done.length + 1 ∧ i.done.length + 1 < ((inst [c, c] i [r] {}).stepsOf i).length)
    ∧ (let far : State := { base with dist := { base.dist with queues := [(0, { en := true, dev := true, lg := 4, base := 2 ^ 40 })] } }
       (far.lqueue 0).en = true ∧ (far.lqueue 0).dev = true ∧ (far.lqueue 0).free = true ∧ 2 ^ 40 ≤ far.lqSlot 0
       ∧ (base.modLq 0 (fun _ => { en := true, dev := true, lg := 4 })).lqSlot 0 < 2 ^ 40)
    ∧ (7 ∉ base.dist.cancel ∧ 7 ∉ base.dist.cancelWait ∧ base.dist.cancel.length < Config.cancelMax
      ∧ Config.cancelMax ≤ (List.replicate Config.cancelMax 9).length ∧ 7 ∉ List.replicate Config.cancelMax 9) := by
  refine ⟨⟨?_, ?_, ?_, ?_, ?_, ⟨_, rfl⟩⟩, ⟨?_, ?_, ?_⟩, ⟨?_, ?_, ?_, ?_, ?_⟩, ⟨?_, ?_, ?_, ?_, ?_, ?_, ⟨?_, ?_⟩⟩, ⟨?_, ?_, ?_, ?_⟩, ⟨?_, ?_, ?_, ?_, ?_⟩, ⟨?_, ?_, ?_, ?_, ?_⟩⟩ <;>
    decide +kernel

/-! ### Witnesses: launches, placing, power, pre-emption, management -/

/-- Launch queue 2 alone. -/
def queue (u : LQueue) (a : Arg) : State := arg { base with dist := { base.dist with queues := [(2, u)] } } a

theorem witness_LaunchQueueEvents :
    let e : LEntry := { id := 3, q := 2, parts := List.replicate 4 0#512, core := 0, ctx := 0, task := (base.ctx 0 0).task, launch := 1, sn := 0 }
    let w (u : LQueue) : State := { queue u { id := 3 } with dist := { (queue u {}).dist with lentries := [e] } }
    let on : LQueue := { en := true, dev := true, lg := 4, base := 0x1000, tail := 1#32 }
    let far : LQueue := { on with base := 2 ^ 40 }
    let head : BitVec 2048 := BitVec.ofNat 2048 (2 ^ 1920)
    let good : State := { queue on { n := 2 } with mem := mwrite [] 0x1000 256 (2 ^ 1920) }
    let rec_ : LQueue := { cren := true, crlg := 4, crwait := [(1, 32, 5#256)] }
    ((w on).dist.lentries.find? (fun e => e.id = 3) = some e ∧ e.parts.length = 4 ∧ (w on).performedOf 0 0 e.task 0 .pkg = true
      ∧ ((w on).lqueue 2).en = true ∧ ((w on).lqueue 2).dev = true ∧ (w on).lqSlot 2 < 2 ^ 40 ∧ 2 ^ 40 ≤ (w far).lqSlot 2
      ∧ ((w { on with dev := false }).lqueue 2).dev = false)
    ∧ (good.fetchDue 2 = true ∧ good.headSlot 2 + 256 ≤ 2 ^ 40 ∧ fld (mread good.mem (good.headSlot 2) 256) 1920 32 = ((good.lqueue 2).head + 1#32).toNat
      ∧ fld (mread (queue on {}).mem ((queue on {}).headSlot 2) 256) 1920 32 ≠ (((queue on {}).lqueue 2).head + 1#32).toNat
      ∧ (queue far {}).fetchDue 2 = true ∧ 2 ^ 40 < (queue far {}).headSlot 2 + 256)
    ∧ (((queue { on with busy := true } {}).lqueue 2).busy = true ∧ ((queue { on with rereads := 15 } {}).lqueue 2).rereads = 15)
    ∧ ((queue on {}).setFwait.popStalled = false ∧ (queue { on with ready := some head } {}).setFwait.serveNext = some (0, 2)
      ∧ ((queue { on with ready := some head } {}).setFwait.lqueue 2).ready = some head
      ∧ (let c : State := { base with dist := { base.dist with cancelWait := [7] } }
         c.setFwait.popStalled = true))
    ∧ (((queue rec_ { n := 2 }).lqueue 2).crwait = (1, 32, 5#256) :: [] ∧ (rec_.crtail - rec_.crhead).toNat < 2 ^ rec_.crlg
      ∧ 2 ^ rec_.crlg ≤ (16#32 - rec_.crhead).toNat ∧ (base.lqueue 2).cren = false) := by
  refine ⟨⟨?_, ?_, ?_, ?_, ?_, ?_, ?_, ?_⟩, ⟨?_, ?_, ?_, ?_, ?_, ?_⟩, ⟨?_, ?_⟩, ⟨?_, ?_, ?_, ?_⟩, ⟨?_, ?_, ?_, ?_⟩⟩ <;> decide +kernel

theorem witness_PlacingAndTaskEnds :
    let p : Portion := { launch := 1, first := 0, count := 1, die := 0 }
    let pend (s : State) : State := arg (s.modDie 0 (fun d => { d with pending := [p] })) { n := 0 }
    let wait : State := { dieOn base with dist := { (dieOn base).dist with waiting := [p] } }
    let stuck : State := { base with dist := { base.dist with launches := base.dist.launches.map (fun l => { l with only := [20], started := 0 }) } }
    let starts : State := arg (core0 base (fun k => { k with starts := [(3, 1, 9#64)] })) { ctx := 3 }
    (stuck.dist.launches.find? (fun l => stuck.followStuck l)).isSome = true
    ∧ (wait.dist.launches.find? (fun l => wait.followStuck l) = none ∧ wait.cutPortions.dist.waiting = [p]
      ∧ (wait.cutPortions.die p.die).pending.length + (wait.cutPortions.dist.handing.filter (fun q => q.die = p.die)).length < Config.pendingPortions
      ∧ (wait.cutPortions.die p.die).dfail = false ∧ wait.arg.flag = false)
    ∧ (let on : State := arg { wait with dist := { wait.dist with waiting := [], handing := [p] } } { n := 1, m := 0, flag := true }
       on.arg.flag = true ∧ on.dist.handing.find? (fun p => p.launch = on.arg.n && p.first = on.arg.m) = some p)
    -- no level above the portion is a gang's; the last context of core 0 is free
    ∧ ((pend (dieOn base)).arg.flag = false ∧ ((pend (dieOn base)).purgePending 0).firstPortion 0 = some p
      ∧ State.upperGangs ((pend (dieOn base)).launch 1) = []
      ∧ ((pend (dieOn base)).purgePending 0).fixLevels ((pend (dieOn base)).launch 1) 0 [] [6, 5, 4, 3, 2, 1, 0] (3, 0) p ≠ .never)
    -- no preload; one chunk at 0x1000, whose bank is the launch's or is not; and one whose bytes lie past the end of memory
    ∧ (let at_ := (base.launch 1).preAt
       let pre (l : Nat) (f : Core → Core) : State := arg (core0 { base with mem := mwrite (mwrite [] at_ 8 l) (at_ + 8) 16 (0x1000 + 64 * 2 ^ 64) }
         (fun k => f { k with setup := [(1, 2, 0)] })) { id := 1 }
       let chunks (s : State) : List (Nat × Nat) := ((s.preloads (s.launch 1)).filter (fun e => e.2.2.2.2)).flatMap (fun e =>
         ((List.range (e.2.2.1 / 64)).map (fun i => (e.2.1 + 64 * i, (s.launch 1).image + e.2.2.2.1 + 64 * i))).filter (fun a => bit (s.launch 1).bank (bankOf a.1)))
       ((pre 1 id).core 0).setup.find? (fun p => p.1 = ((pre 1 id).launch 1).id) = some (((pre 1 id).launch 1).id, 2, 0)
       ∧ chunks (pre 0 id) = [] ∧ chunks (pre 1 id) = [(0x1000, (base.launch 1).image)] ∧ (base.launch 1).image + 64 ≤ 2 ^ 40
       ∧ (∀ a ∈ chunks (pre 1 id), tget ((pre 1 id).core 0).sp.owner (bankOf a.1) 0 = ((pre 1 id).launch 1).id)
       ∧ ¬ (∀ a ∈ chunks (pre 1 id), tget ((pre 1 (fun k => { k with sp := { k.sp with owner := [] } })).core 0).sp.owner (bankOf a.1) 0 = ((pre 1 id).launch 1).id)
       ∧ [(0x1000, 2 ^ 40)].find? (fun a : Nat × Nat => 2 ^ 40 < a.2 + 64) = some (0x1000, 2 ^ 40))
    ∧ ((starts.core 0).starts.find? (fun p => p.1 = 3) = some (3, 1, 9#64) ∧ (starts.launch 1).cancelled = false) := by
  refine ⟨?_, ⟨?_, ?_, ?_, ?_, ?_⟩, ⟨?_, ?_⟩, ⟨?_, ?_, ?_, ?_⟩, ⟨?_, ?_, ?_, ?_, ?_, ?_, ?_⟩, ⟨?_, ?_⟩⟩ <;> decide +kernel

theorem witness_PowerAndCompletion :
    let done (f : Launch → Launch) : State :=
      arg { base with cores := [], dist := { base.dist with launches := base.dist.launches.map f } } { id := 1 }
    let ended := done (fun l => { l with total := 1, ended := 1 })
    let fixed := done (fun l => { l with total := 1, ended := 1, status := some 0 })
    let close := done (fun l => { l with total := 1, ended := 1, status := some 0, closing := true })
    (base.arg.flag = false ∧ (arg base { flag := true }).arg.flag = true ∧ (base.die 0).tlim ≤ 0 ∧ 0 < ((base.modDie 0 (fun d => { d with tlim := 9 })).die 0).tlim)
    ∧ ((arg base { id := 1 }).launch? 1 = some (base.launch 1) ∧ (done (fun l => { l with total := 1 })).completeDue ((done (fun l => { l with total := 1 })).launch 1) = false)
    ∧ (ended.completeDue (ended.launch 1) = true ∧ (ended.launch 1).status = none)
    ∧ (fixed.completeDue (fixed.launch 1) = true ∧ (fixed.launch 1).status = some 0 ∧ (fixed.launch 1).closing = false)
    ∧ (close.completeDue (close.launch 1) = true ∧ (close.launch 1).closing = true)
    ∧ (fixed.settled 1 = true ∧ close.closingOut (close.launch 1) = false
      ∧ (done (fun l => { l with total := 1, ended := 1, cmds := 1 })).settled 1 = false
      ∧ (let out : State := { lrt close [{ range 0 4096 with coh := 1 }] with
           reqs := [{ id := 5, who := .evict 0, g := { va := 0x80, len := 128, ent := range 0 4096 }, want := .wback 1 1 }] }
         out.closingOut (out.launch 1) = true))
    ∧ (let s : State := { base with fq := { base.fq with ring := [1#512], heldRecs := [2#512] } }
       s.fq.ring = 1#512 :: [] ∧ s.fq.heldRecs = 2#512 :: []) := by
  refine ⟨⟨?_, ?_, ?_, ?_⟩, ⟨?_, ?_⟩, ⟨?_, ?_⟩, ⟨?_, ?_, ?_⟩, ⟨?_, ?_⟩, ⟨?_, ?_, ?_, ?_⟩, ⟨?_, ?_⟩⟩ <;> decide +kernel

theorem witness_PreemptionEvents :
    let busy := core0 base (fun k => { k with pmctl := 128#64 })
    let gone := ctx0 base (fun k => { k with status := .free })
    let q : PreReq := { area := 4096, debug := false, deadline := 0 }
    let due := ctx0 base (fun k => { k with pre := some q })
    let save (d : Bool) (a : Nat) := ctx0 base (fun k => { k with status := .halted, why := .saving a d })
    let w : Save := { area := 4096, core := 0, task := 3, launch := 1, wid := 0#64, origin := 0, serial := 0, sendNo := 0, rels := [(5, 2#64)] }
    let saved : State := arg { gone with saves := [w], mem := mwrite [] 4096 4 0x4C595331 } { v := 4096 }
    let kept : State := arg { ctx0 base (fun k => { k with status := .halted, why := .debug 4096 }) with mem := mwrite [] 4096 4 0x4C595331 } { v := 4096 }
    let move : State := arg (((dieOn { base with cores := [], saves := [w] }).modTl 0 5 (fun t => { t with val := 2#64, rel := 2#64 })).modDie 0
      (fun d => { d with cen := 255#48, mxen := 255#48 })) { core := 0, n := 1, id := 1 }
    let own : State := arg { base with mg := { base.mg with areas := [8192] } } { id := (base.ctx 0 0).task, flag := true }
    (busy.pmBusy 0 = true ∧ base.pmBusy 0 = false ∧ gone.ctxOver 0 0 = true ∧ base.ctxOver 0 0 = false)
    ∧ ((due.ctx 0 0).pre = some q ∧ due.ctxOver 0 0 = false ∧ (due.ctx 0 0).status ≠ .halted ∧ q.deadline ≤ due.pcyc
      ∧ (let later := ctx0 base (fun k => { k with pre := some { q with deadline := 9 } })
         later.pcyc < 9))
    ∧ (((save true 4096).ctx 0 0).why = .saving 4096 true ∧ (save true 4096).saveDue 0 0 = true ∧ 4096 + 163840 ≤ 2 ^ 40
      ∧ (save false 4096).saveDue 0 0 = true ∧ (save false (2 ^ 40)).saveDue 0 0 = true ∧ 2 ^ 40 < 2 ^ 40 + 163840 ∧ base.saveDue 0 0 = false)
    ∧ (pmArea 4096 = 4096 ∧ saved.pmBusy 0 = false ∧ (saved.ctx 0 0).status = .free ∧ (saved.ctx 0 0).why = .none
      ∧ (saved.core 0).starts.any (fun p => p.1 = 0) = false ∧ saved.saves.find? (fun w => w.area = 4096) = some w
      ∧ mread saved.mem 4096 4 = 0x4C595331 ∧ (saved.core 0).split = (saved.launch 1).split)
    ∧ ((kept.ctx 0 0).why = .debug 4096 ∧ kept.pmBusy 0 = false ∧ mread kept.mem 4096 4 = 0x4C595331)
    ∧ ((move.core 0).ctxs.any (fun p => p.2.status != .free && p.2.launch = 1) = false ∧ (move.core 0).starts.any (fun p => p.2.1 = 1) = false
      ∧ move.savedOn 0 1 = [w] ∧ (move.savedOn 0 1).all (move.savedDone 0) = true ∧ move.moveFits 0 (move.launch 1) 1 = true
      ∧ (move.launch 1).id = 1 ∧ move.arg.flag = false)
    ∧ (own.ctxOver 0 0 = false ∧ own.arg.flag = true ∧ (own.ctx 0 0).task = own.arg.id ∧ own.freeArea = some 8192 ∧ 2 ^ 40 < pmArea (2 ^ 40) + 163840)
    ∧ (let lost : State := ({ base with mg := { base.mg with factory := { base.mg.factory with failed := [(0, 1#12)] } } } : State).modDie 0
         (fun d => { d with clen := 1#12, cen := 0#48, spare := 2#12 })
       tget lost.mg.factory.failed 0 0#12 ≠ 0#12
       ∧ (lost.die 0).spare.getLsbD 1 = true ∧ (base.die 0).spare.getLsbD 1 = false) := by
  refine ⟨⟨?_, ?_, ?_, ?_⟩, ⟨?_, ?_, ?_, ?_, ?_⟩, ⟨?_, ?_, ?_, ?_, ?_, ?_, ?_⟩, ⟨?_, ?_, ?_, ?_, ?_, ?_, ?_, ?_⟩, ⟨?_, ?_, ?_⟩,
    ⟨?_, ?_, ?_, ?_, ?_, ?_, ?_⟩, ⟨?_, ?_, ?_, ?_, ?_⟩, ⟨?_, ?_, ?_⟩⟩ <;> decide +kernel

theorem witness_ManagementWrites :
    let ready : State := { base with mg := { base.mg with ready := true } }
    let fails : State := { base with mg := { base.mg with factory := { base.mg.factory with fail := some (9, 3) } } }
    let host : LQueue := { en := true, lg := 4 }
    let w : State := arg (ctx0 { base with fq := { base.fq with waits := [(4, 0, 0, none)] } } (fun k => { k with why := .resolve 4 false })) { n := 4 }
    (base.mg.factory.fail = none ∧ fails.mg.factory.fail = some (9, 3))
    ∧ (ready.mg.ready = true ∧ (ready.lqueue 2).en = false ∧ bit (1 + 4 * 4) 0 = true ∧ fld (1 + 4 * 4) 2 4 = 4 ∧ fld (1 + 12 * 4) 2 4 = 12
      ∧ fld 1 2 4 < 4 ∧ ({ base with mg := { base.mg with ready := false } } : State).mg.ready = false)
    ∧ (((queue host {}).lqueue 2).en = true ∧ ((queue host {}).lqueue 2).dev = false ∧ (16#32 - host.head).toNat ≤ 2 ^ host.lg
      ∧ 2 ^ host.lg < (17#32 - host.head).toNat ∧ bit 9 0 = true ∧ fld 9 1 4 = 4)
    ∧ (base.dist.cancelWait = [] ∧ w.fq.waits.find? (fun w => w.1 = 4 % 2 ^ 32) = some (4 % 2 ^ 32, 0, 0, none)
      ∧ (w.ctx 0 0).why = .resolve (4 % 2 ^ 32) false ∧ base.fq.waits.find? (fun w => w.1 = 4 % 2 ^ 32) = none)
    ∧ ((base.modDie 0 (fun d => { d with htBusy := some [] })).invDue 0 = true ∧ ((base.modDie 0 (fun d => { d with htBusy := some [] })).die 0).htBusy ≠ none ∧ base.invDue 0 = false ∧ (base.lrq 0).en = false
      ∧ (let l : State := { base with fab := { base.fab with lrqs := [(0, { en := true })] } }
         (l.lrq 0).en = true ∧ (l.lrq 0).room = [])) := by
  refine ⟨⟨?_, ?_⟩, ⟨?_, ?_, ?_, ?_, ?_, ?_, ?_⟩, ⟨?_, ?_, ?_, ?_, ?_, ?_⟩, ⟨?_, ?_, ?_, ?_⟩, ⟨?_, ?_, ?_, ?_, ⟨?_, ?_⟩⟩⟩ <;> decide +kernel

/-- A full reserve of stack 0 keeps writes to the unit 0 waiting, and none once the drain is closed. -/
theorem witness_ckStuck (n : Nat) (h : 52428 ≤ n) :
    let ck (o : Bool) : State := { base with ck := { open_ := o, copies := List.replicate n (1, []) } }
    (ck true).ckStuck 0x1000 256 = true ∧ (ck false).ckStuck 0x1000 256 = false := by
  refine ⟨?_, by simp [State.ckStuck]⟩
  have h1 : (0x1000 + 256 - 1) / 65536 + 1 - 0x1000 / 65536 = 1 := by decide
  simp only [State.ckStuck, h1]
  have h2 : n ≠ 0 := by omega
  simp [State.ckUnit, Config.ppaLimit, List.any_replicate, List.filter_replicate, List.range_succ, h2]
  omega

theorem witness_MemoryManagement :
    let ck : State := { base with ck := { base.ck with open_ := true } }
    let busy := base.modDie 0 (fun d => { d with htBusy := some [] })
    base.MemOk ∧ base.upds = [] ∧ base.lines = [] ∧ (2 ^ 40 - 3) + 3 ≤ 2 ^ 40 ∧ 2 ^ 40 < (2 ^ 40 - 3) + 4
    ∧ ((busy.die (0x1000 / 2 ^ 37)).htBusy ≠ none ∧ (base.die (0x1000 / 2 ^ 37)).htBusy = none ∧ 256 % 128 = 0 ∧ 0x1000 + 256 ≤ 0x1100)
    ∧ (base.ck.open_ = false ∧ ck.ck.open_ = true ∧ ck.ck.stopped = false ∧ ck.ckNext = some 0
      ∧ ck.fq.ring.length < Config.faultRecords ∧ ck.fq.heldRecs = []) :=
  ⟨⟨by decide +kernel, by decide +kernel⟩, by decide +kernel, by decide +kernel, by decide, by decide,
    ⟨by decide +kernel, by decide +kernel, by decide, by decide⟩, ⟨by decide +kernel, by decide +kernel, by decide +kernel, by decide +kernel, by decide +kernel,
      by decide +kernel⟩⟩

theorem witness_SlotInstructionFrame :
    (encode (.add 3 1 2)).isSome = true ∧ exec (.add 3 1 2) base = .next (nextOf (exec (.add 3 1 2) base)) ∧ (1 ≠ base.iss.core ∨ 0 ≠ base.iss.ctx) :=
  ⟨by decide, next_of (by decide +kernel), Or.inl (by decide +kernel)⟩

theorem witness_TrapsAndRollbacks :
    base.fq.ring.length < Config.faultRecords ∧ base.fq.heldRecs = [] ∧ (base.ctx 0 0).why = .none
    ∧ ((base.core 0).eng (base.half 0 0)).opens.filter (fun o => o.ctx = 0) = [] := by
  refine ⟨?_, ?_, ?_, ?_⟩ <;> decide +kernel

/-- The walk of a page table of one node, with the one page 0x1000 at place 0x5000, and of a machine with no table. -/
theorem witness_translationWalk :
    let m : Memory := mwrite (mwrite (mwrite [] 0 16 0x2001) 0x2000 32 3) 0x2020 32 (0x1000 + 0x2000 * 2 ^ 64 + 0x5000 * 2 ^ 128)
    let r := request 0x1008 { home := 0, hdie := 0, dmask := 1 } (.write 1 255)
    let s (m : Memory) : State := arg { base with reqs := [r], mem := m } { id := 5, n := 0 }
    let by_ (s : State) := s.walkBy (s.walkRead 0 r.g.ent.asid) 0 r.g.ent.asid r.g.va
    (s m).req? 5 = some r ∧ (by_ (s m)).1 = .at 0x5008 0x1000 4096 0x5000 ∧ by_ (s []) = (.fail 2, []) := by
  refine ⟨?_, ?_, ?_⟩ <;> decide +kernel

end Sys2Proof.Tests
end

section
/-! PROOFS. Most operations on the state leave package memory and host memory as they are (R3, R407): for each operation F a
lemma `State.F_mems` says so. -/

namespace Sys2Proof.Machine

/-- The two memories whose canonical form `State.MemOk` states. -/
def State.mems (s : State) : Memory × Memory := (s.mem, s.host)

@[simp] theorem State.mems_eta (s : State) : (s.mem, s.host) = s.mems := by rfl

@[simp] theorem State.mems_mk (pcyc ltBase agenda sched inputs upsets fresh nextId iss arg mem host lines upds ftdir hearth
    cores clus dies bars reqs groups vres msgs promos rels copies saves dist fq fab coll ck mg) :
    (State.mk pcyc ltBase agenda sched inputs upsets fresh nextId iss arg mem host lines upds ftdir hearth cores clus dies
      bars reqs groups vres msgs promos rels copies saves dist fq fab coll ck mg).mems = (mem, host) := by rfl

theorem State.MemOk.of_mems {s t : State} (h : s.MemOk) (e : t.mems = s.mems) : t.MemOk := by
  obtain ⟨hm, hh⟩ := Prod.mk.inj e
  simpa [State.MemOk, hm, hh] using h

@[simp] theorem State.mems_ite (c : Prop) [Decidable c] (s t : State) :
    (if c then s else t).mems = if c then s.mems else t.mems := apply_ite _ _ _ _

@[simp] theorem foldl_mems {α : Type} (f : State → α → State) (l : List α) (s : State)
    (h : ∀ t a, (f t a).mems = t.mems) : (l.foldl f s).mems = s.mems := by
  induction l generalizing s with
  | nil => rfl
  | cons a l ih => exact (ih _).trans (h _ _)

variable (s : State)

/-! ### Shared operations -/

@[simp] theorem State.modCore_mems (c : Nat) (f : Core → Core) : (s.modCore c f).mems = s.mems := by rfl
@[simp] theorem State.modClu_mems (c : Nat) (f : Clus → Clus) : (s.modClu c f).mems = s.mems := by rfl
@[simp] theorem State.modDie_mems (d : Nat) (f : Die → Die) : (s.modDie d f).mems = s.mems := by rfl
@[simp] theorem State.modCtx_mems (c x : Nat) (f : Ctx → Ctx) : (s.modCtx c x f).mems = s.mems := by rfl
@[simp] theorem State.modCx_mems (f : Ctx → Ctx) : (s.modCx f).mems = s.mems := by rfl
@[simp] theorem State.modCc_mems (f : Core → Core) : (s.modCc f).mems = s.mems := by rfl
@[simp] theorem State.modLaunch_mems (l : Nat) (f : Launch → Launch) : (s.modLaunch l f).mems = s.mems := by rfl
@[simp] theorem State.delay_mems : s.delay.2.mems = s.mems := by rfl
@[simp] theorem State.choose_mems (n : Nat) : (s.choose n).2.mems = s.mems := by rfl
@[simp] theorem State.sched_mems (due route : Nat) (i : Instr) (a : Arg) : (s.sched_ due route i a).mems = s.mems := by rfl
@[simp] theorem State.after_mems (least route : Nat) (i : Instr) (a : Arg) : (s.after least route i a).mems = s.mems := by rfl

@[simp] theorem State.result_mems (dist : Nat) (w : RegWrite) (ld : Bool) (parts : List (Nat × Nat × Nat)) :
    (s.result dist w ld parts).mems = s.mems := by simp [State.result]

@[simp] theorem State.resS_mems (dist : Nat) (d : SReg) (x : Dword) : (s.resS dist d x).mems = s.mems := by simp [State.resS]
@[simp] theorem State.varAt_mems (clk : Option Nat) (w : RegWrite) (ld : Bool) : (s.varAt clk w ld).mems = s.mems := by rfl
@[simp] theorem State.varIn_mems (n : Nat) (w : RegWrite) (ld : Bool) : (s.varIn n w ld).mems = s.mems := by rfl
@[simp] theorem State.varRange_mems (lo hi : Nat) (w : RegWrite) : (s.varRange lo hi w).mems = s.mems := by rfl
@[simp] theorem State.hold_mems : s.hold.mems = s.mems := by rfl
@[simp] theorem State.holdAck_mems : s.holdAck.mems = s.mems := by rfl
@[simp] theorem State.quenchTiles_mems (c x : Nat) : (s.quenchTiles c x).mems = s.mems := by rfl
@[simp] theorem State.holdDrain_mems : s.holdDrain.mems = s.mems := by rfl
@[simp] theorem State.effect_mems (e : Effect) : (s.effect e).mems = s.mems := by rfl
@[simp] theorem State.declare_mems (l : List Use) : (s.declare l).mems = s.mems := by rfl
@[simp] theorem State.post_mems (r : Rec) : (s.post r).mems = s.mems := by simp [State.post]
@[simp] theorem State.cancelGin_mems (d gin : Nat) : (s.cancelGin d gin).mems = s.mems := by rfl
@[simp] theorem State.yieldPrimary_mems (c x : Nat) : (s.yieldPrimary c x).mems = s.mems := by simp [State.yieldPrimary]

@[simp] theorem State.dropHeld_mems (c x : Nat) : (s.dropHeld c x).mems = s.mems :=
  foldl_mems _ _ _ fun _ _ => by split <;> simp

@[simp] theorem State.pmEnd_mems (c : Nat) (saved : Bool) : (s.pmEnd c saved).mems = s.mems := by rfl
@[simp] theorem State.endRequest_mems (c x : Nat) : (s.endRequest c x).mems = s.mems := by simp [State.endRequest]
@[simp] theorem State.haltTrapped_mems (c x : Nat) : (s.haltTrapped c x).mems = s.mems := by simp [State.haltTrapped]

@[simp] theorem State.programError_mems (c x : Nat) (t : Trap) (pos : Nat) : (s.programError c x t pos).mems = s.mems := by
  simp [State.programError]

@[simp] theorem State.trap_mems (t : Trap) : (s.trap t).mems = s.mems := by simp [State.trap]
@[simp] theorem State.dropReplies_mems (c x : Nat) (of_ : Nat → Bool) : (s.dropReplies c x of_).mems = s.mems := by rfl
@[simp] theorem State.rollback_mems (c x : Nat) (why : Why) : (s.rollback c x why).mems = s.mems := by simp [State.rollback]
@[simp] theorem State.resumeFetch_mems (c x : Nat) : (s.resumeFetch c x).mems = s.mems := by rfl

@[simp] theorem State.publishOne_mems (c x h : Nat) : (s.publishOne c x h).mems = s.mems := by
  unfold State.publishOne
  split <;> simp

@[simp] theorem State.publish_mems (c x h : Nat) : (s.publish c x h).mems = s.mems := by simp [State.publish]
@[simp] theorem State.arrived_mems (c x id : Nat) : (s.arrived c x id).mems = s.mems := by rfl
@[simp] theorem State.raiseLt_mems (c x v : Nat) : (s.raiseLt c x v).mems = s.mems := by rfl

@[simp] theorem State.seesAcks_mems (c x : Nat) (sc : Scope) : (s.seesAcks c x sc).mems = s.mems := by
  unfold State.seesAcks
  split <;> simp

/-! ### The scratchpad -/

@[simp] theorem State.markRead_mems (c x a be use : Nat) (of_ : Entry → Bool) :
    (s.markRead c x a be use of_).mems = s.mems := by
  rfl

@[simp] theorem State.grantWrite_mems (c : Nat) (w : PWrite) : (s.grantWrite c w).mems = s.mems := by rfl
@[simp] theorem State.show_mems (c : Nat) (w : PWrite) : (s.show_ c w).mems = s.mems := by rfl

@[simp] theorem State.directWrite_mems (c : Nat) (w : PWrite) : (s.directWrite c w).mems = s.mems := by
  simp only [State.directWrite]
  split <;> simp

@[simp] theorem State.addEntry_mems (g : Grant) (k : EntryKind) : (s.addEntry g k).mems = s.mems := by rfl

/-! ### Global memory, requests and homes -/

@[simp] theorem State.modLine_mems (p : Nat) (f : LineInfo → LineInfo) : (s.modLine p f).mems = s.mems := by rfl

@[simp] theorem State.ckCopy_mems (p : Nat) : (s.ckCopy p).mems = s.mems := by
  unfold State.ckCopy
  split <;> simp

@[simp] theorem State.noFill_mems (clus asid va : Nat) : (s.noFill clus asid va).mems = s.mems := by rfl
@[simp] theorem State.modReq_mems (id : Nat) (f : Req → Req) : (s.modReq id f).mems = s.mems := by rfl
@[simp] theorem State.endReq_mems (id : Nat) : (s.endReq id).mems = s.mems := by rfl
@[simp] theorem State.toPort_mems (p : Packet) : (s.toPort p).mems = s.mems := by simp [State.toPort]
@[simp] theorem State.toPeer_mems (r : Req) : (s.toPeer r).mems = s.mems := by simp [State.toPeer]
@[simp] theorem State.askAgain_mems (r : Req) (n : Nat) : (s.askAgain r n).mems = s.mems := by rfl
@[simp] theorem State.ask_mems (r : Req) : (s.ask r).mems = s.mems := by simp [State.ask]

@[simp] theorem State.answer_mems (r : Req) : (s.answer r).mems = s.mems := by
  unfold State.answer
  (repeat' split) <;> simp

@[simp] theorem State.walkKeep_mems (die asid : Nat) (l : List (Nat × Nat)) : (s.walkKeep die asid l).mems = s.mems := by rfl
@[simp] theorem State.stampLine_mems (p lt : Nat) (stamp : Bool) : (s.stampLine p lt stamp).mems = s.mems := by rfl
@[simp] theorem State.hearthKeep_mems (c : CLine) : (s.hearthKeep c).mems = s.mems := by rfl
@[simp] theorem State.now_mems (i : Instr) (a : Arg) : (s.now_ i a).mems = s.mems := by rfl

theorem State.inOrder_mems (f : State → State) (h : ∀ t, (f t).mems = t.mems) : (s.inOrder f).mems = s.mems := by
  simp [State.inOrder, h]

@[simp] theorem State.writeBack_mems (who : Agent) (launch task sendNo : Nat) (e : Lrt) (va data be : Nat) :
    (s.writeBack who launch task sendNo e va data be).mems = s.mems := by
  unfold State.writeBack
  split <;> simp

theorem State.enterSlice_mems (k id : Nat) : ∀ t, s.enterSlice k id = some t → t.mems = s.mems := by
  simp only [State.enterSlice]
  split <;> simp

@[simp] theorem State.fillL2_mems (c : Nat) (l : CLine) : (s.fillL2 c l).mems = s.mems := by
  simp only [State.fillL2]
  split <;> simp

@[simp] theorem State.toSlice_mems (c : Nat) (l : CLine) : (s.toSlice c l).mems = s.mems := by simp [State.toSlice]

@[simp] theorem State.fillL1_mems (c : Nat) (l : CLine) : (s.fillL1 c l).mems = s.mems := by
  simp only [State.fillL1]
  split <;> simp

@[simp] theorem State.keepLine_mems (c : Nat) (r : Req) (l1 : Bool) : (s.keepLine c r l1).mems = s.mems := by
  simp only [State.keepLine]
  (repeat' split) <;> simp

@[simp] theorem State.lendLine_mems (c : Nat) (e : Lrt) (va : Nat) : (s.lendLine c e va).mems = s.mems := by
  simp only [State.lendLine]
  (repeat' split) <;> simp

/-! ### Scalar instructions -/

@[simp] theorem State.branch_mems (target : ℤ) (delay : Nat) : (s.branch target delay).mems = s.mems := by rfl

@[simp] theorem State.enterLoop_mems (b : SReg) (cnt : Nat) (len : BitVec 16) (md sk : Bool) :
    (s.enterLoop b cnt len md sk).mems = s.mems := by simp [State.enterLoop]

/-! ### Memory instructions -/

@[simp] theorem State.acquireWord_mems (a : Nat) : (s.acquireWord a).mems = s.mems := by rfl
@[simp] theorem State.readsWord_mems (ea n : Nat) : (s.readsWord ea n).mems = s.mems := by rfl

@[simp] theorem State.loadChunks_mems (d : VReg) (k : KReg) (dist n : Nat) (l : Chunks) :
    (s.loadChunks d k dist n l).mems = s.mems := by simp [State.loadChunks]

@[simp] theorem State.storeChunks_mems (d : VReg) (k : KReg) (n : Nat) (l : Chunks) :
    (s.storeChunks d k n l).mems = s.mems := by
  simp [State.storeChunks]

@[simp] theorem State.tagWrite_mems (ea : Nat) (data : Dword) (write : Bool) (tag : Option Bool) (rel : Option Nat) :
    (s.tagWrite ea data write tag rel).mems = s.mems := by simp [State.tagWrite]

@[simp] theorem State.remoteChunks_mems (cores : List Nat) (d : VReg) (k : KReg) (ea : Nat) :
    (s.remoteChunks cores d k ea).mems = s.mems := by simp [State.remoteChunks]

@[simp] theorem State.sendRemote_mems (c x launch task : Nat) (m : Msg) (n : Nat) :
    (s.sendRemote c x launch task m n).mems = s.mems := by rfl

@[simp] theorem State.slicePort_mems (c bank : Nat) : (s.slicePort c bank).2.mems = s.mems := by rfl

@[simp] theorem State.raiseLine_mems (c : Nat) (e : Lrt) (a d : Nat) : (s.raiseLine c e a d).mems = s.mems := by
  unfold State.raiseLine
  split <;> simp

@[simp] theorem State.readSeg_mems (grp : Nat) (e : Lrt) (hint : Option Nat) (a n : Nat) :
    (s.readSeg grp e hint a n).mems = s.mems := by
  simp only [State.readSeg]
  (repeat' split) <;> simp

@[simp] theorem State.startRead_mems (dest : RegRef) (sz : Size) (a : Nat) (lanes : List (Nat × Nat)) (segs : List (Nat × Nat ×
  Lrt)) (hint : Option Nat) :
    (s.startRead dest sz a lanes segs hint).mems = s.mems := by
  simp [State.startRead]

@[simp] theorem State.globalEntry_mems (g : GAddr) (k : EntryKind) : (s.globalEntry g k).mems = s.mems := by
  simp [State.globalEntry]

@[simp] theorem State.startAtomic_mems (d : SReg) (e : Lrt) (hint : Option Nat) (ea w : Nat) (want : Nat → Want) :
    (s.startAtomic d e hint ea w want).mems = s.mems := by simp [State.startAtomic]

/-! ### The matrix engine -/

@[simp] theorem State.modEng_mems (f : Engine → Engine) : (s.modEng f).mems = s.mems := by rfl
@[simp] theorem State.openTile_mems (swapped : Bool) : (s.openTile swapped).mems = s.mems := by simp [State.openTile]
@[simp] theorem State.modTile_mems (f : Tile → Tile) : (s.modTile f).mems = s.mems := by rfl
@[simp] theorem State.addBeat_mems (b : Beat) : (s.addBeat b).mems = s.mems := by simp [State.addBeat]

@[simp] theorem State.loadRow_mems (next : Bool) (row f left step : Nat) (src : Src) (bytes : Nat) :
    (s.loadRow next row f left step src bytes).mems = s.mems := by simp [State.loadRow]

@[simp] theorem State.readsRow_mems (a n : Nat) : (s.readsRow a n).mems = s.mems := by simp [State.readsRow]
@[simp] theorem State.tongsReads_mems (c : Nat) : (s.tongsReads c).mems = s.mems := by rfl

@[simp] theorem State.hardyNext_mems (k : Nat) : (s.hardyNext k).mems = s.mems := by
  simp only [State.hardyNext]
  split <;> simp

@[simp] theorem State.tileRecord_mems (c x cause sub : Nat) (t : Tile) (hardy : Nat) :
    (s.tileRecord c x cause sub t hardy).mems = s.mems := by simp [State.tileRecord]

@[simp] theorem State.preemptAll_mems (c : Nat) (of : Launch → Bool) : (s.preemptAll c of).mems = s.mems := by
  simp [State.preemptAll]

@[simp] theorem State.suspect_mems (c x : Nat) (swage : Bool) (t : Tile) (hardy : Nat) :
    (s.suspect c x swage t hardy).mems = s.mems := by simp [State.suspect]

@[simp] theorem State.resumeDrain_mems (c : Nat) (rest : List (Nat × Nat × Nat)) (extra : Nat) :
    (s.resumeDrain c rest extra).mems = s.mems := by rfl

/-! ### Bindings, messages and launch queues -/

@[simp] theorem State.modTl_mems (c n : Nat) (f : Timeline → Timeline) : (s.modTl c n f).mems = s.mems := by rfl

@[simp] theorem State.dropLines_mems (c : Nat) (wide : Bool) (p : CLine → Bool) : (s.dropLines c wide p).mems = s.mems := by
  simp [State.dropLines]

@[simp] theorem State.dropClean_mems (c l : Nat) (rs : List (Nat × Nat)) (sc : Scope) :
    (s.dropClean c l rs sc).mems = s.mems := by
  unfold State.dropClean
  split <;> simp

@[simp] theorem State.poll_mems (va : Nat) (e : Lrt) : (s.poll va e).mems = s.mems := by simp [State.poll]

@[simp] theorem State.endPoll_mems : s.endPoll.mems = s.mems := by
  unfold State.endPoll
  split <;> simp

@[simp] theorem State.barrier_mems (c x k : Nat) : (s.barrier c x k).1.mems = s.mems := by
  simp only [State.barrier]
  split <;> simp

@[simp] theorem State.modBar_mems (id : Nat) (f : Barrier → Barrier) : (s.modBar id f).mems = s.mems := by rfl

@[simp] theorem State.checkBar_mems (id : Nat) : (s.checkBar id).mems = s.mems := by
  unfold State.checkBar
  split <;> simp

@[simp] theorem State.arrive_mems (k : Fin 7) : (s.arrive k).mems = s.mems := by simp [State.arrive]
@[simp] theorem State.barAcquire_mems (k : Fin 7) : (s.barAcquire k).mems = s.mems := by rfl
@[simp] theorem State.modLrq_mems (q : Nat) (f : LRQ → LRQ) : (s.modLrq q f).mems = s.mems := by rfl
@[simp] theorem State.dropCancelled_mems (q : Nat) : (s.dropCancelled q).mems = s.mems := by rfl
@[simp] theorem State.modLq_mems (q : Nat) (f : LQueue → LQueue) : (s.modLq q f).mems = s.mems := by rfl
@[simp] theorem State.passBank_mems (c l b : Nat) : (s.passBank c l b).mems = s.mems := by rfl
@[simp] theorem State.quenchHere_mems : s.quenchHere.mems = s.mems := by rfl

/-! ### Copy engines -/

@[simp] theorem State.modCopy_mems (id : Nat) (f : CopyRun → CopyRun) : (s.modCopy id f).mems = s.mems := by rfl
@[simp] theorem State.endCopy_mems (r : CopyRun) (sig : Dword) (wts : Nat) : (s.endCopy r sig wts).mems = s.mems := by rfl

@[simp] theorem State.copyRecord_mems (r : CopyRun) (cls cause sub addr asid : Nat) :
    (s.copyRecord r cls cause sub addr asid).mems = s.mems := by simp [State.copyRecord]

@[simp] theorem State.copyFault_mems (r : CopyRun) (sub addr asid : Nat) : (s.copyFault r sub addr asid).mems = s.mems := by
  simp [State.copyFault]

@[simp] theorem State.claim_mems (core : Nat) (l : List PWrite) : (s.claim core l).mems = s.mems := by rfl
@[simp] theorem State.copySpRead_mems (r : CopyRun) (core a n : Nat) : (s.copySpRead r core a n).mems = s.mems := by rfl

@[simp] theorem State.copyAsk_mems (r : CopyRun) (g : GAddr) (w : Want) (p : Option Nat) :
    (s.copyAsk r g w p).mems = s.mems := by
  simp [State.copyAsk]

@[simp] theorem State.countOob_mems (r : CopyRun) (k : Nat) : (s.countOob r k).mems = s.mems := by simp [State.countOob]

@[simp] theorem State.globalWrites_mems (r : CopyRun) (e : Lrt) (seg : Nat × List Byte) :
    (s.globalWrites r e seg).1.mems = s.mems := by
  unfold State.globalWrites
  split_ifs <;> simp

@[simp] theorem State.copyArrived_mems (r : CopyRun) : (s.copyArrived r).mems = s.mems := by simp [State.copyArrived]

@[simp] theorem State.copyLanded_mems (id : Nat) : (s.copyLanded id).mems = s.mems := by
  unfold State.copyLanded
  split <;> simp

@[simp] theorem State.copyRefused_mems (r : CopyRun) (asid : Nat) : (s.copyRefused r asid).mems = s.mems := by
  unfold State.copyRefused
  split <;> simp

@[simp] theorem State.planWhole_mems (r : CopyRun) : (s.planWhole r).1.mems = s.mems := by
  simp only [State.planWhole]
  split <;> simp

@[simp] theorem State.copyTagged_mems (id : Nat) : (s.copyTagged id).mems = s.mems := by
  unfold State.copyTagged
  split <;> simp

/-! ### Banks and parity -/

@[simp] theorem State.modSp_mems (c : Nat) (f : Spad → Spad) : (s.modSp c f).mems = s.mems := by rfl

@[simp] theorem State.claimCells_mems (c : Nat) (need : List (Nat × Nat)) (row : Nat) (chg : Option (Nat × Nat)) :
    (s.claimCells c need row chg).2.mems = s.mems := by
  simp only [State.claimCells]
  split <;> simp

@[simp] theorem State.setPar_mems (c g row data tags : Nat) : (s.setPar c g row data tags).mems = s.mems := by rfl
@[simp] theorem State.xorPar_mems (c g row data tags : Nat) : (s.xorPar c g row data tags).mems = s.mems := by rfl
@[simp] theorem State.applyDelta_mems (c : Nat) (d : Delta) : (s.applyDelta c d).mems = s.mems := by rfl
@[simp] theorem State.memberWritten_mems (c : Nat) (w : PWrite) : (s.memberWritten c w).mems = s.mems := by rfl
@[simp] theorem State.freezeCore_mems (c : Nat) : (s.freezeCore c).mems = s.mems := by rfl

@[simp] theorem State.coreRecord_mems (c cause sub info d0 : Nat) : (s.coreRecord c cause sub info d0).mems = s.mems := by
  simp [State.coreRecord]

@[simp] theorem State.reconFault_mems (c bank row : Nat) (chg : Option (Nat × Nat)) :
    (s.reconFault c bank row chg).mems = s.mems := by
  unfold State.reconFault
  split <;> simp

@[simp] theorem State.flushDelta_mems (c : Nat) (d : Delta) : (s.flushDelta c d).mems = s.mems := by simp [State.flushDelta]
@[simp] theorem State.flushDeltas_mems (c g : Nat) : (s.flushDeltas c g).mems = s.mems := by simp [State.flushDeltas]
@[simp] theorem State.flushPosted_mems (c : Nat) : (s.flushPosted c).mems = s.mems := by simp [State.flushPosted]
@[simp] theorem State.retireBank_mems (c b : Nat) : (s.retireBank c b).mems = s.mems := by simp [State.retireBank]
@[simp] theorem State.settleRetired_mems (c : Nat) : (s.settleRetired c).mems = s.mems := by simp [State.settleRetired]

@[simp] theorem State.repair_mems (c bank row : Nat) : (s.repair c bank row).mems = s.mems := by
  simp only [State.repair]
  split <;> simp

@[simp] theorem State.eccError_mems (c : Nat) (e : EccErr) (chg : Option (Nat × Nat)) : (s.eccError c e chg).mems = s.mems := by
  simp [State.eccError]

@[simp] theorem State.eccScan_mems (c : Nat) : (s.eccScan c).mems = s.mems := by simp [State.eccScan]
@[simp] theorem State.modMsg_mems (id : Nat) (f : Msg → Msg) : (s.modMsg id f).mems = s.mems := by rfl
@[simp] theorem State.ackMsg_mems (m : Msg) : (s.ackMsg m).mems = s.mems := by rfl
@[simp] theorem State.preloadWritten_mems (c l : Nat) : (s.preloadWritten c l).mems = s.mems := by simp [State.preloadWritten]
@[simp] theorem State.bankAccess_mems (c : Nat) (w : PWrite) : (s.bankAccess c w).mems = s.mems := by simp [State.bankAccess]

@[simp] theorem State.directAccess_mems (c : Nat) (w : PWrite) : (s.directAccess c w).mems = s.mems := by
  simp [State.directAccess]

@[simp] theorem State.rsteActed_mems (c : Nat) (m : Msg) : (s.rsteActed c m).mems = s.mems := by rfl

@[simp] theorem State.tagChanged_mems (c a : Nat) : (s.tagChanged c a).mems = s.mems := by
  unfold State.tagChanged
  (repeat' split) <;> simp

@[simp] theorem State.emptiedDue_mems (c : Nat) : (s.emptiedDue c).mems = s.mems := by simp [State.emptiedDue]
@[simp] theorem State.setTags_mems (c : Nat) (w : PWrite) : (s.setTags c w).mems = s.mems := by simp [State.setTags]

/-! ### Draining -/

@[simp] theorem State.releaseCtx_mems (c x : Nat) : (s.releaseCtx c x).mems = s.mems := by
  unfold State.releaseCtx
  split <;> simp

@[simp] theorem State.releaseCore_mems (c : Nat) : (s.releaseCore c).mems = s.mems := by simp [State.releaseCore]
@[simp] theorem State.markClaimed_mems (c : Nat) (ids : List Nat) (x : Nat) : (s.markClaimed c ids x).mems = s.mems := by rfl
@[simp] theorem State.owe_mems (c x n : Nat) : (s.owe c x n).mems = s.mems := by rfl
@[simp] theorem State.dropEntry_mems (c : Nat) (e : Entry) : (s.dropEntry c e).mems = s.mems := by rfl
@[simp] theorem State.sent_mems (c : Nat) (e : Entry) : (s.sent c e).mems = s.mems := by rfl
@[simp] theorem State.l1ToSlice_mems (c : Nat) (p : CLine → Bool) : (s.l1ToSlice c p).mems = s.mems := by simp [State.l1ToSlice]

@[simp] theorem State.cacheStore_mems (c : Nat) (e : Entry) (g : GAddr) (data be : Nat) :
    (s.cacheStore c e g data be).mems = s.mems := by simp [State.cacheStore]

@[simp] theorem State.throughStore_mems (c launch : Nat) (g : GAddr) (data be : Nat) :
    (s.throughStore c launch g data be).mems = s.mems := by simp [State.throughStore]

@[simp] theorem State.dropCopies_mems (c : Nat) (g : GAddr) : (s.dropCopies c g).mems = s.mems := by simp [State.dropCopies]

@[simp] theorem State.pinEntry_mems (c : Nat) (e : Entry) (g : GAddr) : (s.pinEntry c e g).mems = s.mems := by
  simp [State.pinEntry]

/-! ### The fabric -/

@[simp] theorem State.modFab_mems (f : Fabric → Fabric) : (s.modFab f).mems = s.mems := by rfl
@[simp] theorem State.modLink_mems (n : Nat) (f : Link → Link) : (s.modLink n f).mems = s.mems := by rfl
@[simp] theorem State.linkEdge_mems (n : Nat) : (s.linkEdge n).mems = s.mems := by simp [State.linkEdge]

@[simp] theorem State.agree_mems (n : Nat) (rx : Bool) (f : BitVec 8 → BitVec 8) : (s.agree n rx f).mems = s.mems := by
  simp [State.agree]

@[simp] theorem State.emit_mems (n : Nat) (p : Packet) : (s.emit n p).mems = s.mems := by simp [State.emit]
@[simp] theorem State.sendOn_mems (n : Nat) (p : Packet) : (s.sendOn n p).mems = s.mems := by simp [State.sendOn]
@[simp] theorem State.resend_mems (n : Nat) : (s.resend n).mems = s.mems := by simp [State.resend]
@[simp] theorem State.moveReplay_mems (chip n : Nat) : (s.moveReplay chip n).mems = s.mems := by simp [State.moveReplay]

@[simp] theorem State.peerAsk_mems (src id va asid lt : Nat) (op : PeerOp) :
    (s.peerAsk src id va asid lt op).mems = s.mems := by
  simp only [State.peerAsk]
  split <;> simp

@[simp] theorem State.peerAnswer_mems (id code wts : Nat) (tag : Option Nat) (bytes : List Byte) :
    (s.peerAnswer id code wts tag bytes).mems = s.mems := by
  unfold State.peerAnswer
  split <;> simp

@[simp] theorem State.modSend_mems (id : Nat) (f : SendRun → SendRun) : (s.modSend id f).mems = s.mems := by rfl
@[simp] theorem State.endSend_mems (r : SendRun) : (s.endSend r).mems = s.mems := by rfl
@[simp] theorem State.sendFault_mems (r : SendRun) : (s.sendFault r).mems = s.mems := by simp [State.sendFault]
@[simp] theorem State.sendStart_mems (r : SendRun) : (s.sendStart r).mems = s.mems := by simp [State.sendStart]

/-! ### The collective engine -/

@[simp] theorem State.modColl_mems (f : Coll → Coll) : (s.modColl f).mems = s.mems := by rfl
@[simp] theorem State.modRun_mems (id : Nat) (f : CRun → CRun) : (s.modRun id f).mems = s.mems := by rfl
@[simp] theorem State.modWait_mems (id : Nat) (f : CWait → CWait) : (s.modWait id f).mems = s.mems := by rfl
@[simp] theorem State.endWait_mems (id : Nat) : (s.endWait id).mems = s.mems := by rfl
@[simp] theorem State.deafen_mems (id : Nat) : (s.deafen id).mems = s.mems := by rfl
@[simp] theorem State.collDone_mems (core ctx tl num launch : Nat) : (s.collDone core ctx tl num launch).mems = s.mems := by rfl
@[simp] theorem State.collLearnt_mems (core tl num launch : Nat) : (s.collLearnt core tl num launch).mems = s.mems := by rfl
@[simp] theorem State.stepGone_mems (i : CInst) (n : Nat) : (s.stepGone i n).mems = s.mems := by simp [State.stepGone]

@[simp] theorem State.collRecord_mems (core ctx gin : Nat) (r : Rec) : (s.collRecord core ctx gin r).mems = s.mems := by
  simp [State.collRecord]

@[simp] theorem State.stepFault_mems (i : CInst) (n cls cause sub addr asid : Nat) :
    (s.stepFault i n cls cause sub addr asid).mems = s.mems := by simp [State.stepFault]

@[simp] theorem State.waitFault_mems (w : CWait) (cls cause sub addr asid : Nat) :
    (s.waitFault w cls cause sub addr asid).mems = s.mems := by simp [State.waitFault]

@[simp] theorem State.collAsk_mems (id launch task : Nat) (g : GAddr) (w : Want) (p : Option Nat) :
    (s.collAsk id launch task g w p).mems = s.mems := by simp [State.collAsk]

@[simp] theorem State.collReads_mems (id launch task a n : Nat) (e : Lrt) :
    (s.collReads id launch task a n e).1.mems = s.mems := by simp [State.collReads]

@[simp] theorem State.collRefused_mems (id code at_ asid : Nat) : (s.collRefused id code at_ asid).mems = s.mems := by
  simp only [State.collRefused]
  (repeat' split) <;> simp

@[simp] theorem State.collAnswer_mems (id : Nat) (f : Memory → Memory) (grant : Option (Nat × Option Nat)) (code at_ asid :
  Nat) :
    (s.collAnswer id f grant code at_ asid).mems = s.mems := by
  simp [State.collAnswer]

@[simp] theorem State.takeMessage_mems (i : CInst) (c : CStep) : (s.takeMessage i c).mems = s.mems := by
  simp only [State.takeMessage]
  split <;> simp

@[simp] theorem State.accumulate_mems (c : CStep) (bytes : List Byte) : (s.accumulate c bytes).mems = s.mems := by rfl
@[simp] theorem State.finish_mems (c : CStep) : (s.finish_ c).2.mems = s.mems := by rfl

@[simp] theorem State.readPiece_mems (i : CInst) (r : CRun) (a n w : Nat) (p : CPhase) :
    (s.readPiece i r a n w p).mems = s.mems := by
  simp only [State.readPiece]
  split <;> simp

@[simp] theorem State.beginStep_mems (i : CInst) (n : Nat) (c : CStep) : (s.beginStep i n c).mems = s.mems := by
  simp only [State.beginStep]
  (repeat' split) <;> simp

@[simp] theorem State.grantInbox_mems : s.grantInbox.mems = s.mems := by
  unfold State.grantInbox
  split <;> simp

/-! ### Homes and answers -/

@[simp] theorem State.patchPinned_mems (p v be : Nat) : (s.patchPinned p v be).mems = s.mems := by simp [State.patchPinned]
@[simp] theorem State.landReg_mems (c x id : Nat) (w : RegWrite) : (s.landReg c x id w).mems = s.mems := by rfl

@[simp] theorem State.tagged_mems (c x serial : Nat) (tag : Option Word32) : (s.tagged c x serial tag).mems = s.mems := by
  unfold State.tagged
  split <;> simp

@[simp] theorem State.groupGot_mems (c x gid : Nat) (r : Req) : (s.groupGot c x gid r).mems = s.mems := by
  unfold State.groupGot
  split <;> simp

@[simp] theorem State.settle_mems (r : Req) : (s.settle r).mems = s.mems := by
  unfold State.settle
  split <;> simp

@[simp] theorem State.lessPending_mems (r : Req) : (s.lessPending r).mems = s.mems := by
  unfold State.lessPending
  split <;> simp

@[simp] theorem State.hearthAck_mems (r : Req) : (s.hearthAck r).mems = s.mems := by
  unfold State.hearthAck
  split <;> simp

@[simp] theorem State.ackTime_mems (c wts : Nat) : (s.ackTime c wts).mems = s.mems := by simp [State.ackTime]
@[simp] theorem State.noteAck_mems (c wts : Nat) : (s.noteAck c wts).mems = s.mems := by rfl
@[simp] theorem State.pinFill_mems (c : Nat) (r : Req) : (s.pinFill c r).mems = s.mems := by rfl
@[simp] theorem State.modRel_mems (id : Nat) (f : RelRun → RelRun) : (s.modRel id f).mems = s.mems := by rfl
@[simp] theorem State.endRel_mems (r : RelRun) : (s.endRel r).mems = s.mems := by rfl

@[simp] theorem State.takeLog_mems (r : RelRun) : (s.takeLog r).2.mems = s.mems := by
  simp only [State.takeLog]
  (repeat' split) <;> simp

@[simp] theorem State.modPromo_mems (id : Nat) (f : Promo → Promo) : (s.modPromo id f).mems = s.mems := by rfl
@[simp] theorem State.promoReply_mems (p : Promo) (status : Nat) : (s.promoReply p status).mems = s.mems := by rfl

@[simp] theorem State.refused_mems (c x : Nat) (r : Req) : (s.refused c x r).mems = s.mems := by
  simp only [State.refused]
  (repeat' split) <;> simp

@[simp] theorem State.lateFault_mems (c : Nat) (r : Req) : (s.lateFault c r).mems = s.mems := by simp [State.lateFault]
@[simp] theorem State.endRels_mems (c x task : Nat) : (s.endRels c x task).mems = s.mems := by simp [State.endRels]

/-! ### Launch queues -/

@[simp] theorem State.followRecord_mems (f : Follow) : (s.followRecord f).mems = s.mems := by rfl
@[simp] theorem State.followDone_mems (l : Nat) : (s.followDone l).mems = s.mems := by rfl
@[simp] theorem State.finishLaunch_mems (l : Launch) (st rej : Nat) : (s.finishLaunch l st rej).mems = s.mems := by rfl
@[simp] theorem State.setFwait_mems : s.setFwait.mems = s.mems := by rfl
@[simp] theorem State.pop_mems (p q : Nat) (v : BitVec 2048) : (s.pop p q v).mems = s.mems := by simp [State.pop]

/-! ### Placing and task ends -/

@[simp] theorem State.noteDie_mems (id n d : Nat) : (s.noteDie id n d).mems = s.mems := by rfl
@[simp] theorem State.takeUpper_mems (l : Launch) (wid : Nat) : (s.takeUpper l wid).mems = s.mems := by rfl
@[simp] theorem State.regrant_mems (d : Nat) : (s.regrant d).mems = s.mems := by rfl

@[simp] theorem State.bindTask_mems (l : Launch) (u wid : Nat) : (s.bindTask l u wid).mems = s.mems := by
  simp only [State.bindTask]
  split <;> simp

@[simp] theorem State.setPortion_mems (d : Nat) (p : Portion) (q : Option Portion) : (s.setPortion d p q).mems = s.mems := by
  rfl

@[simp] theorem State.purgePending_mems (d : Nat) : (s.purgePending d).mems = s.mems := by simp [State.purgePending]
@[simp] theorem State.setStage_mems (c l stage t : Nat) : (s.setStage c l stage t).mems = s.mems := by rfl

@[simp] theorem State.takeRegion_mems (c : Nat) (l : Launch) : (s.takeRegion c l).mems = s.mems := by
  simp only [State.takeRegion]
  (repeat' split) <;> simp

@[simp] theorem State.takeBanks_mems (c : Nat) (l : Launch) : (s.takeBanks c l).mems = s.mems := by rfl

@[simp] theorem State.setupStep_mems (c : Nat) (l : Launch) : (s.setupStep c l).mems = s.mems := by
  unfold State.setupStep
  split <;> simp

@[simp] theorem State.noteRan_mems (id c : Nat) : (s.noteRan id c).mems = s.mems := by rfl
@[simp] theorem State.notePlace_mems (id : Nat) (new : List Nat) : (s.notePlace id new).mems = s.mems := by rfl
@[simp] theorem State.gateBanks_mems (c l : Nat) : (s.gateBanks c l).mems = s.mems := by rfl
@[simp] theorem State.leaveCore_mems (c l : Nat) : (s.leaveCore c l).mems = s.mems := by simp [State.leaveCore]
@[simp] theorem State.freeCtx_mems (c x : Nat) : (s.freeCtx c x).mems = s.mems := by simp [State.freeCtx]
@[simp] theorem State.computeGrants_mems (d : Nat) : (s.computeGrants d).mems = s.mems := by simp [State.computeGrants]

/-! ### Fetch and issue -/

@[simp] theorem State.fetchHold_mems (c x : Nat) (i : Instr) (id : Nat) : (s.fetchHold c x i id).mems = s.mems := by
  simp [State.fetchHold]

@[simp] theorem State.refetch_mems (c : Nat) : (s.refetch c).mems = s.mems := by rfl
@[simp] theorem State.cancelTrap_mems (c x : Nat) : (s.cancelTrap c x).mems = s.mems := by simp [State.cancelTrap]
@[simp] theorem State.failCore_mems (c : Nat) : (s.failCore c).mems = s.mems := by simp [State.failCore]

/-! ### Interrupts and saves -/

@[simp] theorem State.pmBegin_mems (c v : Nat) (saved : Bool) : (s.pmBegin c v saved).mems = s.mems := by rfl
@[simp] theorem State.pmNote_mems (c v : Nat) : (s.pmNote c v).mems = s.mems := by rfl

@[simp] theorem State.request_mems (c v : Nat) (debug : Bool) : (s.request_ c v debug).mems = s.mems := by
  simp [State.request_]

@[simp] theorem State.beginSave_mems (c x : Nat) : (s.beginSave c x).mems = s.mems := by
  simp only [State.beginSave]
  (repeat' split) <;> simp

@[simp] theorem State.resumeRefused_mems (c x : Nat) : (s.resumeRefused c x).mems = s.mems := by simp [State.resumeRefused]

@[simp] theorem State.resumeAt_mems (c x v : Nat) : (s.resumeAt c x v).mems = s.mems := by
  simp only [State.resumeAt]
  split <;> simp

@[simp] theorem State.moveTo_mems (c d : Nat) (l : Launch) : (s.moveTo c d l).mems = s.mems := by simp [State.moveTo]
@[simp] theorem State.dropCommands_mems (k : Nat) : (s.dropCommands k).mems = s.mems := by simp [State.dropCommands]
@[simp] theorem State.dropEntries_mems (c : Nat) : (s.dropEntries c).mems = s.mems := by simp [State.dropEntries]
@[simp] theorem State.dropArrival_mems (m : Msg) : (s.dropArrival m).mems = s.mems := by simp [State.dropArrival]
@[simp] theorem State.voidWrites_mems (k : Nat) : (s.voidWrites k).mems = s.mems := by simp [State.voidWrites]

/-! ### Management -/

@[simp] theorem State.bootDie_mems (d : Nat) : (s.bootDie d).mems = s.mems := by simp [State.bootDie]
@[simp] theorem State.bootBudget_mems (d : Nat) : (s.bootBudget d).mems = s.mems := by rfl

@[simp] theorem State.bootRecord_mems (die clus core : Nat) : (s.bootRecord die clus core).mems = s.mems := by
  simp [State.bootRecord]

@[simp] theorem State.bootFailures_mems (all : Bool) (d : Nat) : (s.bootFailures all d).mems = s.mems := by
  unfold State.bootFailures
  split <;> simp

@[simp] theorem State.bootStep_mems (n : Nat) : (s.bootStep n).mems = s.mems := by
  unfold State.bootStep
  split <;> simp

@[simp] theorem State.pinsAgain_mems (c x : Nat) (again : Bool) : (s.pinsAgain c x again).mems = s.mems := by
  simp [State.pinsAgain]

@[simp] theorem State.deferPosted_mems : s.deferPosted.mems = s.mems := foldl_mems _ _ _ fun _ _ => by split <;> simp
@[simp] theorem State.ckRetry_mems (of : Nat × Nat → Bool) : (s.ckRetry of).mems = s.mems := by simp [State.ckRetry]

/-! ### The clock -/

@[simp] theorem State.charge_mems (c h n : Nat) : (s.charge c h n).mems = s.mems := by rfl
@[simp] theorem State.withEngines_mems (t b : State) : (t.withEngines b).mems = t.mems := by rfl

@[simp] theorem State.advanceCtx_mems (t : State) (q : State.Seq) : (t.advanceCtx q).mems = t.mems :=
  foldl_mems _ _ _ fun _ _ => by split <;> simp

@[simp] theorem State.scanRead_mems (c x : Nat) : (s.scanRead c x).mems = s.mems := by
  simp only [State.scanRead]
  (repeat' split) <;> simp

@[simp] theorem State.scanReads_mems (c : Nat) : (s.scanReads c).mems = s.mems := by simp [State.scanReads]
@[simp] theorem State.applyMregs_mems (c : Nat) : (s.applyMregs c).mems = s.mems := by rfl
@[simp] theorem State.applyPasses_mems (c : Nat) : (s.applyPasses c).mems = s.mems := by rfl
@[simp] theorem State.heldByTable_mems (c x : Nat) (held : Bool) : (s.heldByTable c x held).mems = s.mems := by rfl
@[simp] theorem State.choosePrimary_mems (c h : Nat) : (s.choosePrimary c h).mems = s.mems := by simp [State.choosePrimary]
@[simp] theorem State.beforeBundle_mems (c x : Nat) : (s.beforeBundle c x).mems = s.mems := by simp [State.beforeBundle]
@[simp] theorem State.stepIdle_mems (c h : Nat) : (s.stepIdle c h).mems = s.mems := by simp [State.stepIdle]
@[simp] theorem State.takeShadow_mems (c x : Nat) : (s.takeShadow c x).mems = s.mems := by rfl
@[simp] theorem State.unparkSoon_mems (c x : Nat) : (s.unparkSoon c x).mems = s.mems := by rfl
@[simp] theorem State.holdDrains_mems (c : Nat) : (s.holdDrains c).mems = s.mems := by rfl

@[simp] theorem State.periodic_mems : s.periodic.1.mems = s.mems := by
  simp only [State.periodic]
  split <;> simp

@[simp] theorem State.dropSaves_mems : s.dropSaves.mems = s.mems := by simp [State.dropSaves]

@[simp] theorem State.strike_mems (u : Upset) : (s.strike u).mems = s.mems := by
  unfold State.strike
  split <;> simp

@[simp] theorem State.strikes_mems : s.strikes.mems = s.mems := by simp [State.strikes]
@[simp] theorem State.serveSlice_mems (k : Nat) : (s.serveSlice k).1.mems = s.mems := by rfl

/-! ### Operations that fold over others -/

@[simp] theorem foldl_fst_mems {α β : Type} (f : State × β → α → State × β) (l : List α) (p : State × β)
    (h : ∀ q a, (f q a).1.mems = q.1.mems) : (l.foldl f p).1.mems = p.1.mems := by
  induction l generalizing p with
  | nil => rfl
  | cons a l ih => exact (ih _).trans (h _ _)

theorem State.sliceToHome_mems (c : Nat) (p : CLine → Bool) (send : State → CLine → State)
    (h : ∀ t l, (send t l).mems = t.mems) : (s.sliceToHome c p send).mems = s.mems := by
  simp [State.sliceToHome, h]

theorem State.gotPiece_mems (r : CRun) (a n w : Nat) (again : CPhase) (last : State → List Byte → State)
    (h : ∀ t b, (last t b).mems = t.mems) : (s.gotPiece r a n w again last).mems = s.mems := by
  simp [State.gotPiece, h]

@[simp] theorem State.spadPut_mems (r : CopyRun) (segs : List (Nat × List Byte)) : (s.spadPut r segs).1.mems = s.mems :=
  foldl_fst_mems _ _ _ fun _ _ => foldl_fst_mems _ _ _ fun _ _ => by split <;> simp

@[simp] theorem State.copyPut_mems (r : CopyRun) (k n : Nat) : (s.copyPut r k n).mems = s.mems := by
  unfold State.copyPut
  split_ifs <;> simp

@[simp] theorem State.planIndexed_mems (s : State) (r : CopyRun) (k n i : Nat) : (s.planIndexed r k n i).1.mems = s.mems := by
  induction n generalizing s r k i with
  | zero => rfl
  | succ n ih =>
    unfold State.planIndexed
    split
    · rfl
    · split
      · rfl
      · exact (ih _ _ _ _).trans (by simp)

@[simp] theorem State.streamGo_mems (n : Nat) (r : CopyRun) : (State.streamGo n s r).mems = s.mems := by
  induction n generalizing s r with
  | zero => simp [State.streamGo]
  | succ n ih =>
    unfold State.streamGo
    split
    · split_ifs
      · simp
      · simp
      · exact (ih _ _).trans ((State.countOob_mems ..).trans (State.spadPut_mems ..))
    · split
      · simp
      · simp

@[simp] theorem State.streamOn_mems (r : CopyRun) : (s.streamOn r).mems = s.mems := State.streamGo_mems ..

@[simp] theorem State.copyGot_mems (r : CopyRun) : (s.copyGot r).mems = s.mems := by
  unfold State.copyGot
  split <;> simp

@[simp] theorem State.copyAnswer_mems (id : Nat) (f : CopyRun → CopyRun) (code at_ asid : Nat) :
    (s.copyAnswer id f code at_ asid).mems = s.mems := by
  simp only [State.copyAnswer]
  (repeat' split) <;> simp

@[simp] theorem State.copyTake_mems (r : CopyRun) : (s.copyTake r).mems = s.mems := by
  unfold State.copyTake
  (repeat' split) <;> simp

@[simp] theorem State.copyRead_mems (id : Nat) (f : Memory → Memory) : (s.copyRead id f).mems = s.mems := by
  unfold State.copyRead
  split <;> simp

@[simp] theorem State.copyIndex_mems (id ch v : Nat) : (s.copyIndex id ch v).mems = s.mems := by
  unfold State.copyIndex
  split <;> simp

@[simp] theorem State.copyRun_mems (r : CopyRun) : (s.copyRun r).mems = s.mems := by simp [State.copyRun]

@[simp] theorem State.claimApplies_mems (c : Nat) : (s.claimApplies c).mems = s.mems := by
  simp (disch := (intros; split <;> simp)) [State.claimApplies]

@[simp] theorem State.servePort_mems : s.servePort.mems = s.mems := by
  simp (disch := (intros; (repeat' split) <;> simp)) [State.servePort]

@[simp] theorem State.cutPortions_mems : s.cutPortions.mems = s.mems := by
  simp (disch := (intros; (repeat' split) <;> simp)) [State.cutPortions]

@[simp] theorem State.serveSlices_mems : s.serveSlices.1.mems = s.mems := by simp [State.serveSlices]

theorem State.claimCells_some_mems (c : Nat) (need : List (Nat × Nat)) (row : Nat) (chg : Option (Nat × Nat)) :
    ∀ t ∈ (s.claimCells c need row chg).1, t.mems = s.mems := by
  simp only [State.claimCells]
  split <;> simp

theorem State.claimAccess_both_mems (c : Nat) (w : PWrite) :
    (∀ t ∈ (s.claimAccess c w).1, t.mems = s.mems) ∧ (s.claimAccess c w).2.mems = s.mems := by
  have hs := s.claimCells_some_mems c ((s.core c).sp.cellsOf (bankOf w.addr) (s.now c + 15) w.read) (rowOf w.addr) w.chg
  have ht := s.claimCells_mems c ((s.core c).sp.cellsOf (bankOf w.addr) (s.now c + 15) w.read) (rowOf w.addr) w.chg
  simp only [State.claimAccess]
  split
  · simp
  · split
    · next e =>
      rw [e] at hs
      split <;> simpa using hs
    · next e =>
      rw [e] at ht
      simpa using ht

theorem State.claimAccess_some_mems {c : Nat} {w : PWrite} {t u : State} (h : s.claimAccess c w = (some t, u)) :
    t.mems = s.mems := (s.claimAccess_both_mems c w).1 t (by rw [h]; rfl)

theorem State.claimAccess_none_mems {c : Nat} {w : PWrite} {o : Option State} {u : State} (h : s.claimAccess c w = (o, u)) :
    u.mems = s.mems := by simpa [h] using (s.claimAccess_both_mems c w).2

@[simp] theorem State.claimAgents_mems (c : Nat) : (s.claimAgents c).mems = s.mems := by
  refine (State.modSp_mems ..).trans (foldl_fst_mems _ _ _ fun a w => ?_)
  obtain ⟨t, left, held⟩ := a
  dsimp only
  split
  · rfl
  · split
    · next e => exact t.claimAccess_some_mems e
    · next e => exact t.claimAccess_none_mems e

@[simp] theorem State.claimStripe_mems (c : Nat) (t : Stripe) (m : Nat) : (s.claimStripe c t m).mems = s.mems := by
  have hs := s.claimCells_some_mems c (stripeCells (s.core c).sp m (s.now c + 15)) t.row (some (c, t.ctx))
  have ht := s.claimCells_mems c (stripeCells (s.core c).sp m (s.now c + 15)) t.row (some (c, t.ctx))
  simp only [State.claimStripe]
  split
  · next e => simpa [e] using ht
  · next e =>
    rw [e] at hs
    split
    · simpa using hs
    · simp (disch := (intros; split <;> simp))
      simpa using hs

@[simp] theorem State.drainSpad_mems (c : Nat) : (s.drainSpad c).mems = s.mems := by
  simp only [State.drainSpad]
  split
  · rfl
  · split
    · simp
    · split
      · rfl
      · split
        · rfl
        · split
          · simp
          · split
            · next e => simpa using s.claimAccess_some_mems e
            · next e => exact s.claimAccess_none_mems e

@[simp] theorem State.writeRange_mems (c : Nat) (e : Entry) (g : GAddr) (toHome : Bool) :
    (s.writeRange c e g toHome).mems = s.mems := by
  simp [State.writeRange, State.sliceToHome_mems]

@[simp] theorem State.writeBackRanges_mems (c launch : Nat) (rs : List (Nat × Nat × Nat)) :
    (s.writeBackRanges c launch rs).mems = s.mems := by
  simp [State.writeBackRanges, State.sliceToHome_mems]

@[simp] theorem State.releasePinned_mems (k : Nat) : (s.releasePinned k).mems = s.mems := by
  refine s.inOrder_mems _ fun t => ?_
  simp (disch := (intros; split <;> simp))

@[simp] theorem State.unpinLine_mems (k asid va launch : Nat) : (s.unpinLine k asid va launch).mems = s.mems := by
  simp only [State.unpinLine]
  split
  · rfl
  · (repeat' split) <;> simp

@[simp] theorem State.dropPins_mems (k l : Nat) : (s.dropPins k l).mems = s.mems := by simp [State.dropPins]

theorem State.leave_mems (c : Nat) (e : Entry) : ∀ t ∈ s.leave c e, t.mems = s.mems := by
  unfold State.leave
  split
  -- the LAUNCH: whether it finds the entry that its first part made
  case h_9 =>
    simp only
    split
    · simp
    · generalize List.find? _ _ = o
      cases o <;> simp
  all_goals (repeat' split) <;> simp

@[simp] theorem State.drainOther_mems (c : Nat) : (s.drainOther c).mems = s.mems := by
  simp only [State.drainOther]
  cases h : List.findSome? (fun e => s.leave c e) _ with
  | none => rfl
  | some t =>
    obtain ⟨e, -, he⟩ := List.exists_of_findSome?_eq_some h
    exact s.leave_mems c e t he

@[simp] theorem State.goOn_mems (i : CInst) (c : CStep) (r : CRun) : (s.goOn i c r).mems = s.mems := by
  simp only [State.goOn]
  split
  case h_2 => split <;> simp [State.gotPiece_mems, apply_ite]
  case h_7 => split <;> simp [State.gotPiece_mems]
  all_goals (repeat' split) <;> simp

@[simp] theorem State.holdPinned_mems (k id : Nat) : (s.holdPinned k id).mems = s.mems := by
  unfold State.holdPinned
  split
  · next h => exact s.enterSlice_mems _ _ _ h
  · split <;> simp

@[simp] theorem State.stepRel_mems (r : RelRun) : (s.stepRel r).mems = s.mems := by
  have hlog := s.takeLog_mems r
  simp only [State.stepRel]
  (repeat' split) <;> simp_all

@[simp] theorem State.stepRels_mems : s.stepRels.mems = s.mems :=
  foldl_mems _ _ _ fun _ _ => by split <;> simp

@[simp] theorem State.stepPromo_mems (c : Nat) : (s.stepPromo c).mems = s.mems := by
  simp [State.stepPromo]

@[simp] theorem State.contain_mems (k : Nat) : (s.contain k).mems = s.mems := by
  simp (disch := (intros; (repeat' split) <;> simp)) only [State.contain, foldl_mems, State.post_mems, State.modDie_mems,
    State.modClu_mems, State.releasePinned_mems, State.mems_mk, State.mems_eta, State.dropCommands_mems, State.voidWrites_mems]

@[simp] theorem State.arrivals_mems (l : List (Instr × Arg)) : (s.arrivals l).1.mems = s.mems := by
  refine foldl_fst_mems _ _ _ fun a e => ?_
  dsimp only
  split
  · rfl
  · split
    · next h => exact State.enterSlice_mems _ _ _ _ h
    · simp

@[simp] theorem State.evictions_mems : s.evictions.mems = s.mems := by
  simp only [State.evictions]
  refine (foldl_mems _ _ _ fun t c => ?_).trans (foldl_mems _ _ _ fun t k => ?_)
  · (repeat' split) <;> simp
  · (repeat' split) <;> simp

@[simp] theorem State.tick_mems : s.tick.mems = s.mems := by
  simp (disch := (intros; simp)) only [State.tick, State.mems_mk, State.mems_eta, State.arrivals_mems, State.periodic_mems,
    foldl_mems, State.servePort_mems, State.grantInbox_mems, State.stepRels_mems, State.dropSaves_mems, State.evictions_mems,
    State.strikes_mems, State.serveSlices_mems]

@[simp] theorem State.homeRead_mems (r : Req) (p : Nat) : (s.homeRead r p).mems = s.mems := by
  simp only [State.homeRead]
  (repeat' split) <;> simp

@[simp] theorem State.serve_mems (id p : Nat) : (s.serve id p).mems = s.mems := by
  simp only [State.serve]
  (repeat' split) <;> simp

@[simp] theorem State.runWaiting_mems (die : Nat) : (s.runWaiting die).mems = s.mems := by
  refine foldl_fst_mems _ _ _ fun a id => ?_
  dsimp only
  (repeat' split) <;> simp

@[simp] theorem State.notify_mems (p n : Nat) : (s.notify p n).mems = s.mems := by
  simp [State.notify]

end Sys2Proof.Machine
end

section
/-! PROOFS. The steps of the table that write no memory: the lemma `execI_spares` of each says that it leaves both memories as
they are. -/

namespace Sys2Proof.Machine

variable (s : State)

/-- Each next state that the outcome o names has the memories of s. -/
def State.Spares (s : State) (o : Out) : Prop := ∀ t, o = .next t → t.mems = s.mems

@[simp] theorem State.spares_next (t : State) : s.Spares (.next t) ↔ t.mems = s.mems := by
  simp [State.Spares]
@[simp] theorem State.spares_fault (r : Fault) : s.Spares (.fault r) := by simp [State.Spares]

theorem spares_perform (i : Instr) (chk : Option Trap) (w : Wait) (act : State → State) (h : (act s).mems = s.mems) :
    s.Spares (perform i chk w act s) := by
  obtain e | e | e | e | ⟨t, e⟩ := perform_cases s i chk w act <;> rw [e] <;> simp [h]

theorem State.Spares.of_mems {s t : State} {o : Out} (h : t.Spares o) (e : t.mems = s.mems) : s.Spares o :=
  fun u hu => (h u hu).trans e

theorem alu_spares (i : Instr) (dist : Nat) (d : SReg) (f : State → Dword) : s.Spares (alu i dist d f s) :=
  spares_perform _ _ _ _ _ (by simp)

theorem fpOp_spares (i : Instr) (ok : Bool) (d : SReg) (f : State → Nat) : s.Spares (fpOp i ok d f s) :=
  spares_perform _ _ _ _ _ (by simp)

theorem fpVar_spares (i : Instr) (ty : Ty) (d : SReg) (f : State → Nat) : s.Spares (fpVar i ty d f s) :=
  spares_perform _ _ _ _ _ (by simp)

theorem vecOp_spares (i : Instr) (ok : Bool) (dist : Nat) (w : State → RegWrite) : s.Spares (vecOp i ok dist w s) :=
  spares_perform _ _ _ _ _ (by simp)

theorem vecVar_spares (i : Instr) (ty : Ty) (ok : Bool) (w : State → RegWrite) : s.Spares (vecVar i ty ok w s) :=
  spares_perform _ _ _ _ _ (by simp)

theorem rangeForm_spares (i : Instr) (ea n : Nat) (r : Except Trap Lrt) (hint : Hint) (k : GAddr → EntryKind) :
    s.Spares (s.rangeForm i ea n r hint k) :=
  spares_perform _ _ _ _ _ (by simp)

theorem wloadRing_spares (i : Instr) (next : Bool) (row : Nat) (h : HReg) (off : Nat) :
    s.Spares (s.wloadRing i next row h off) := by
  unfold State.wloadRing
  apply spares_perform
  simp

theorem wloadTongs_spares (i : Instr) (next : Bool) (row : Nat) : s.Spares (s.wloadTongs i next row) := by
  unfold State.wloadTongs
  apply spares_perform
  simp

theorem accum_spares (i : Instr) (a : Nat) (set : Bool) : s.Spares (s.accum i a set) := by
  unfold State.accum
  apply spares_perform
  simp

theorem drainBeat_spares (i : Instr) (a : Nat) (clr : Bool) : s.Spares (s.drainBeat i a clr) := by
  unfold State.drainBeat
  apply spares_perform
  simp

theorem copyForm_spares (i : Instr) (x : Bool) (cmd : CopyCmd) : s.Spares (s.copyForm i x cmd) := by
  unfold State.copyForm
  apply spares_perform
  simp

theorem acquire_spares (i : Instr) (n : BReg) (b : SReg) (cmp : AcqCmp) (act : SyncAns → Lrt → State → State)
    (h : ∀ a e t, (act a e t).mems = t.mems) : s.Spares (s.acquire i n b cmp act) := by
  simp only [State.acquire]
  split
  · exact spares_perform _ _ _ _ _ (by simp [h])
  · refine (spares_perform _ _ _ _ _ rfl).of_mems ?_
    split <;> simp

theorem execAcq_spares (n : BReg) (b : SReg) (sc : Scope) (cmp : AcqCmp) : s.Spares (execAcq n b sc cmp s) :=
  acquire_spares _ _ _ _ _ _ fun _ _ _ => by simp

theorem execAcqp_spares (d : SReg) (n : BReg) (b : SReg) (sc : Scope) (cmp : AcqCmp) : s.Spares (execAcqp d n b sc cmp s) :=
  acquire_spares _ _ _ _ _ _ fun _ _ _ => by dsimp only; split <;> simp

theorem execBar_spares (k : Fin 7) : s.Spares (execBar k s) := by
  unfold execBar
  refine (spares_perform _ _ _ _ _ ?_).of_mems ?_
  · simp
  · split <;> simp

theorem execRecv_spares (d a c : SReg) (sc : Scope) (q : Fin 64) : s.Spares (execRecv d a c sc q s) := by
  simp only [execRecv]
  refine (spares_perform _ _ _ _ _ ?_).of_mems ?_
  · split <;> simp
  · split <;> split <;> simp

theorem execPermitAuditEnd_spares : s.Spares (execPermitAuditEnd s) := by
  simp only [execPermitAuditEnd, State.spares_next, State.modDie_mems]
  refine foldl_mems _ _ _ fun t p => ?_
  split
  · rfl
  · split <;> simp

/-! ### Memory instructions -/

theorem execGpf_spares (a : SReg) (l2 : Bool) (hint : Hint) (imm : BitVec 24) : s.Spares (execGpf a l2 hint imm s) := by
  unfold execGpf
  apply spares_perform
  split <;> simp

theorem execGwb_spares (a b : SReg) (hint : Hint) (sc : Scope) (imm : BitVec 24) : s.Spares (execGwb a b hint sc imm s) := by
  unfold execGwb
  exact rangeForm_spares _ _ _ _ _ _ _

theorem execGinv_spares (a b : SReg) (hint : Hint) (sc : Scope) (imm : BitVec 24) : s.Spares (execGinv a b hint sc imm s) := by
  unfold execGinv
  exact rangeForm_spares _ _ _ _ _ _ _

/-! ### The matrix engine -/

theorem execWloadTongs_spares (w : Fin 32) : s.Spares (execWloadTongs w s) := by
  unfold execWloadTongs
  split
  exacts [wloadTongs_spares _ _ _ _, wloadRing_spares _ _ _ _ _ _]

theorem execWloadNxtTongs_spares (w : Fin 32) : s.Spares (execWloadNxtTongs w s) := by
  unfold execWloadNxtTongs
  split
  exacts [wloadTongs_spares _ _ _ _, wloadRing_spares _ _ _ _ _ _]

theorem execTclose_spares : s.Spares (execTclose s) := spares_perform _ _ _ _ _ (by split <;> simp)

theorem execTileComparison_spares : s.Spares (execTileComparison s) := by
  unfold execTileComparison
  (repeat' split) <;> simp

theorem execHardyDecision_spares : s.Spares (execHardyDecision s) := by
  simp only [execHardyDecision]
  (repeat' split) <;> simp

/-! ### Copy engines -/

theorem execCopyAccept_spares : s.Spares (execCopyAccept s) := by
  unfold execCopyAccept
  split <;> simp

theorem execCopyStart_spares : s.Spares (execCopyStart s) := by
  simp only [execCopyStart]
  (repeat' split) <;> simp

theorem execCopyPieceRetry_spares : s.Spares (execCopyPieceRetry s) := by
  unfold execCopyPieceRetry
  (repeat' split) <;> simp

theorem execCopyVerify_spares : s.Spares (execCopyVerify s) := by
  simp only [execCopyVerify]
  (repeat' split) <;> simp

/-! ### Banks and parity -/

theorem execScratchpadDrainWrite_spares : s.Spares (execScratchpadDrainWrite s) := by
  simp only [execScratchpadDrainWrite]
  (repeat' split) <;> simp

theorem execCopyComplete_spares : s.Spares (execCopyComplete s) := by
  unfold execCopyComplete
  (repeat' split) <;> simp

theorem execParityDeltaApply_spares : s.Spares (execParityDeltaApply s) := by
  unfold execParityDeltaApply
  split <;> simp

theorem execBankSleep_spares : s.Spares (execBankSleep s) := by simp [execBankSleep]
theorem execBankWake_spares : s.Spares (execBankWake s) := by simp [execBankWake]

theorem execParityRebuildRow_spares : s.Spares (execParityRebuildRow s) := by
  simp only [execParityRebuildRow]
  split <;> simp

/-! ### Draining -/

theorem execCommitDrain_spares : s.Spares (execCommitDrain s) := by
  simp only [execCommitDrain]
  split <;> simp

theorem execRemoteStoreArrival_spares : s.Spares (execRemoteStoreArrival s) := by
  unfold execRemoteStoreArrival
  split <;> simp

theorem execRsteArrival_spares : s.Spares (execRsteArrival s) := by
  simp only [execRsteArrival]
  (repeat' split) <;> simp

/-! ### The fabric -/

theorem execSendDrain_spares : s.Spares (execSendDrain s) := by
  unfold execSendDrain
  (repeat' split) <;> simp

theorem execLrqRoomGrant_spares : s.Spares (execLrqRoomGrant s) := by
  simp only [execLrqRoomGrant]
  (repeat' split) <;> simp

theorem execMessageAccept_spares : s.Spares (execMessageAccept s) := by
  unfold execMessageAccept
  (repeat' split) <;> simp

theorem execPacketReceive_spares : s.Spares (execPacketReceive s) := by
  simp only [execPacketReceive]
  (repeat' split) <;> simp

theorem execWavelengthRetrain_spares : s.Spares (execWavelengthRetrain s) := by
  simp only [execWavelengthRetrain]
  (repeat' split) <;> simp

theorem execWavelengthRetrainEnd_spares : s.Spares (execWavelengthRetrainEnd s) := by
  simp only [execWavelengthRetrainEnd]
  split <;> simp

theorem execWavelengthPark_spares : s.Spares (execWavelengthPark s) := by
  unfold execWavelengthPark
  (repeat' split) <;> simp

theorem execLinkDown_spares : s.Spares (execLinkDown s) := by simp [execLinkDown]
theorem execLinkReturn_spares : s.Spares (execLinkReturn s) := by simp [execLinkReturn]

theorem execRouteTableWrite_spares : s.Spares (execRouteTableWrite s) := by
  unfold execRouteTableWrite
  split <;> simp

theorem execRouteEntryEffect_spares : s.Spares (execRouteEntryEffect s) := by
  unfold execRouteEntryEffect
  split <;> simp

/-! ### The collective engine -/

theorem execCstabLoad_spares : s.Spares (execCstabLoad s) := by
  simp only [execCstabLoad]
  (repeat' split) <;> simp

theorem execCollAccept_spares : s.Spares (execCollAccept s) := by
  simp only [execCollAccept]
  (repeat' split) <;> simp

theorem execCollStepStart_spares : s.Spares (execCollStepStart s) := by
  unfold execCollStepStart
  (repeat' split) <;> simp

theorem execCollMessageArrival_spares : s.Spares (execCollMessageArrival s) := by simp [execCollMessageArrival]

theorem execCancelTokenArrival_spares : s.Spares (execCancelTokenArrival s) := by
  simp only [execCancelTokenArrival]
  split <;> simp

/-! ### Homes and answers -/

theorem execSpillQueueReturn_spares : s.Spares (execSpillQueueReturn s) := by
  simp only [execSpillQueueReturn]
  (repeat' split) <;> simp

theorem execVariableResultLand_spares : s.Spares (execVariableResultLand s) := by
  unfold execVariableResultLand
  (repeat' split) <;> simp

theorem execWriteGrantReturn_spares : s.Spares (execWriteGrantReturn s) := by
  simp only [execWriteGrantReturn]
  (repeat' split) <;> simp

theorem execRefusalArrival_spares : s.Spares (execRefusalArrival s) := by
  simp only [execRefusalArrival]
  (repeat' split) <;> simp

theorem execMigrationRerun_spares : s.Spares (execMigrationRerun s) := by simp [execMigrationRerun]

theorem execAckArrival_spares : s.Spares (execAckArrival s) := by
  unfold execAckArrival
  (repeat' split) <;> simp

theorem execPromotionRequest_spares : s.Spares (execPromotionRequest s) := by
  simp only [execPromotionRequest]
  (repeat' split) <;> simp

theorem execPromotionReply_spares : s.Spares (execPromotionReply s) := by
  simp only [execPromotionReply]
  (repeat' split) <;> simp

theorem execBarrierComplete_spares : s.Spares (execBarrierComplete s) := by simp [execBarrierComplete]
theorem execLtTick_spares : s.Spares (execLtTick s) := by simp [execLtTick]
theorem execTimestampRebase_spares : s.Spares (execTimestampRebase s) := by simp [execTimestampRebase]

/-! ### Launch queues -/

theorem execQueueHeadFetch_spares : s.Spares (execQueueHeadFetch s) := by
  simp only [execQueueHeadFetch]
  (repeat' split) <;> simp

theorem execQueueHeadReread_spares : s.Spares (execQueueHeadReread s) := by
  simp only [execQueueHeadReread]
  (repeat' split) <;> simp

theorem execLaunchQueueService_spares : s.Spares (execLaunchQueueService s) := by
  simp only [execLaunchQueueService]
  (repeat' split) <;> simp

/-! ### Placing and task ends -/

theorem execPortionHandout_spares : s.Spares (execPortionHandout s) := by
  simp only [execPortionHandout]
  (repeat' split) <;> simp

theorem execPreloadWrite_spares : s.Spares (execPreloadWrite s) := by
  simp only [execPreloadWrite]
  (repeat' split) <;> simp

theorem execTaskStart_spares : s.Spares (execTaskStart s) := by
  simp only [execTaskStart]
  (repeat' split) <;> simp

theorem execTaskEnd_spares : s.Spares (execTaskEnd s) := by
  simp only [execTaskEnd]
  (repeat' split) <;> simp

theorem execPowerWindow_spares : s.Spares (execPowerWindow s) := by simp [execPowerWindow]
theorem execGrantRecompute_spares : s.Spares (execGrantRecompute s) := by simp [execGrantRecompute]
theorem execPermitAudit_spares : s.Spares (execPermitAudit s) := by simp [execPermitAudit]

theorem execLaunchComplete_spares : s.Spares (execLaunchComplete s) := by
  simp only [execLaunchComplete]
  (repeat' split) <;> simp

theorem execFaultRecordRemove_spares : s.Spares (execFaultRecordRemove s) := by
  unfold execFaultRecordRemove
  split <;> simp

/-! ### Fetch and issue -/

theorem execBundleDecode_spares : s.Spares (execBundleDecode s) := by
  simp only [execBundleDecode]
  (repeat' split) <;> simp

theorem execIndexLineFill_spares : s.Spares (execIndexLineFill s) := by
  simp only [execIndexLineFill]
  (repeat' split) <;> simp

theorem execDictionaryReread_spares : s.Spares (execDictionaryReread s) := by
  simp only [execDictionaryReread]
  split <;> simp

theorem execResultLand_spares : s.Spares (execResultLand s) := by simp [execResultLand]
theorem execSplitBundleSecondCycle_spares : s.Spares (execSplitBundleSecondCycle s) := by simp [execSplitBundleSecondCycle]
theorem execEngineProducerPublish_spares : s.Spares (execEngineProducerPublish s) := by simp [execEngineProducerPublish]

theorem execContextPark_spares : s.Spares (execContextPark s) := by
  simp only [execContextPark]
  split <;> simp

theorem execContextUnpark_spares : s.Spares (execContextUnpark s) := by simp [execContextUnpark]
theorem execCorrectionFreezeEnd_spares : s.Spares (execCorrectionFreezeEnd s) := by simp [execCorrectionFreezeEnd]

theorem execMarkEstablished_spares : s.Spares (execMarkEstablished s) := by
  unfold execMarkEstablished
  (repeat' split) <;> simp

theorem execRollbackFetchResume_spares : s.Spares (execRollbackFetchResume s) := by
  unfold execRollbackFetchResume
  (repeat' split) <;> simp

theorem execLockstepMismatch_spares : s.Spares (execLockstepMismatch s) := by
  simp only [execLockstepMismatch]
  (repeat' split) <;> simp

theorem execResidueMismatch_spares : s.Spares (execResidueMismatch s) := by
  simp only [execResidueMismatch]
  split <;> simp

/-! ### Interrupts and saves -/

theorem execPreemptRequest_spares : s.Spares (execPreemptRequest s) := by
  unfold execPreemptRequest
  (repeat' split) <;> simp

theorem execDebugHalt_spares : s.Spares (execDebugHalt s) := by simp [execDebugHalt]

theorem execPreemptWindowExpiry_spares : s.Spares (execPreemptWindowExpiry s) := by
  simp only [execPreemptWindowExpiry]
  (repeat' split) <;> simp

theorem execResume_spares : s.Spares (execResume s) := by
  unfold execResume
  (repeat' split) <;> simp

theorem execLaunchMove_spares : s.Spares (execLaunchMove s) := by
  simp only [execLaunchMove]
  (repeat' split) <;> simp

theorem execContainmentReset_spares : s.Spares (execContainmentReset s) := by
  unfold execContainmentReset
  split <;> simp

theorem execSpareClusterEnable_spares : s.Spares (execSpareClusterEnable s) := by
  simp only [execSpareClusterEnable]
  split <;> simp

/-! ### Management -/

theorem execLaunchQueueEnable_spares : s.Spares (execLaunchQueueEnable s) := by
  simp only [execLaunchQueueEnable]
  split <;> simp

theorem execLaunchQueueDisable_spares : s.Spares (execLaunchQueueDisable s) := by
  simp only [execLaunchQueueDisable]
  split <;> simp

theorem execLaunchQueueNotify_spares : s.Spares (execLaunchQueueNotify s) := by
  simp only [execLaunchQueueNotify]
  (repeat' split) <;> simp

theorem execCompletionRingEnable_spares : s.Spares (execCompletionRingEnable s) := by
  simp only [execCompletionRingEnable]
  split <;> simp

theorem execLqcanset_spares : s.Spares (execLqcanset s) := by simp [execLqcanset]
theorem execLqcanclr_spares : s.Spares (execLqcanclr s) := by simp [execLqcanclr]

theorem execFqres_spares : s.Spares (execFqres s) := by
  simp only [execFqres]
  (repeat' split) <;> simp

theorem execHtinv_spares : s.Spares (execHtinv s) := by
  simp only [execHtinv]
  split <;> simp

theorem execHtinvComplete_spares : s.Spares (execHtinvComplete s) := by
  unfold execHtinvComplete
  split <;> simp

theorem execLrqClose_spares : s.Spares (execLrqClose s) := by
  simp only [execLrqClose]
  split <;> simp

theorem execRegisterWrite_spares : s.Spares (execRegisterWrite s) := by
  unfold execRegisterWrite
  (repeat' split) <;> simp

theorem execCheckpointUnitDrained_spares : s.Spares (execCheckpointUnitDrained s) := by
  unfold execCheckpointUnitDrained
  (repeat' split) <;> simp

theorem execCheckpointDrainClose_spares : s.Spares (execCheckpointDrainClose s) := by
  unfold execCheckpointDrainClose
  split <;> simp

theorem execSafeTierFault_spares : s.Spares (execSafeTierFault s) := by
  unfold execSafeTierFault
  split <;> simp

/-! ### Home requests, walks and placement -/

theorem execHomeRequest_spares : s.Spares (execHomeRequest s) := by
  simp only [execHomeRequest]
  (repeat' split) <;> simp [State.inOrder_mems]

theorem execTranslationWalk_spares : s.Spares (execTranslationWalk s) := by
  simp only [execTranslationWalk]
  (repeat' split) <;> simp [State.inOrder_mems]

theorem holdUpper_mems {s t : State} {l : Launch} {wid d : Nat} {ps : List Portion} {ks : List Nat}
    (h : s.holdUpper l wid d ps ks = .ok t) : t.mems = s.mems := by
  induction ks generalizing s with
  | nil =>
    cases h
    rfl
  | cons k ks ih =>
    unfold State.holdUpper at h
    generalize (if l.lb k = 3 then (3, d) else (4, 0)) = place at h
    dsimp only at h
    split at h
    · split at h
      · cases h
      · exact ih h
    · split at h
      · cases h
      · exact (ih h).trans (by simp)

theorem execPlaceTask_spares : s.Spares (execPlaceTask s) := by
  simp only [execPlaceTask]
  split
  · simp
  · split
    · simp
    · split
      case h_1 | h_2 => simp
      case h_3 h =>
        have hs := holdUpper_mems h
        split <;> simp [hs]

end Sys2Proof.Machine
end

section
/-! PROOFS. The writes of memory: each keeps both memories in canonical form (log 1). -/

namespace Sys2Proof.Machine

variable {s : State}

theorem State.MemOk.rawWrite (h : s.MemOk) (p n v : Nat) : (s.rawWrite p n v).MemOk := by
  obtain ⟨hm, hh⟩ := h
  unfold State.rawWrite
  split
  · exact ⟨wf_mwrite _ _ _ hm, hh⟩
  · exact ⟨hm, wf_mwrite _ _ _ hh⟩

theorem State.MemOk.lineWrite (h : s.MemOk) (key l v : Nat) : (s.lineWrite key l v).MemOk := by
  unfold State.lineWrite
  split <;> exact h.rawWrite _ _ _

theorem State.MemOk.placeWrite (h : s.MemOk) (key p n v be : Nat) : (s.placeWrite key p n v be).MemOk :=
  List.foldlRecOn _ _ h fun _ ht _ _ => ht.lineWrite _ _ _

theorem State.MemOk.mergeWhere (h : s.MemOk) (hit : Upd → Bool) : (s.mergeWhere hit).MemOk := by
  refine .of_mems (s := List.foldl _ s s.upds) (List.foldlRecOn _ _ h fun t ht u _ => ?_) rfl
  split
  · exact (ht.placeWrite _ _ _ _ _).of_mems rfl
  · exact ht

theorem State.MemOk.mergeUpds (h : s.MemOk) (p n : Nat) : (s.mergeUpds p n).MemOk := h.mergeWhere _

theorem State.MemOk.contribute (h : s.MemOk) (key p w die : Nat) (op : Option AmoOp) (fmt : Ty) (val : Nat) :
    (s.contribute key p w die op fmt val).MemOk := by
  simp only [State.contribute]
  split
  · exact (h.mergeUpds p w).of_mems rfl
  · exact h.of_mems rfl

theorem State.MemOk.homeWrite (h : s.MemOk) (key p n v be lt : Nat) (stamp : Bool) :
    (s.homeWrite key p n v be lt stamp).MemOk := by
  have start : (if (s.line p).err then { s with upds := s.upds.filter (fun u => !u.meets p n) } else s).MemOk :=
    h.of_mems (by split <;> rfl)
  have copied := start.of_mems (State.ckCopy_mems _ p)
  exact ((copied.mergeWhere (Upd.hit p be)).placeWrite key p n v be).of_mems (by simp [State.homeWrite])

theorem State.MemOk.lqEnter (h : s.MemOk) (q v : Nat) : (s.lqEnter q v).MemOk :=
  ((h.of_mems (s.ckCopy_mems _)).rawWrite _ _ _).of_mems (State.modLq_mems ..)

theorem State.MemOk.writeLeaf (h : s.MemOk) (die asid a frame : Nat) : (s.writeLeaf die asid a frame).MemOk := by
  unfold State.writeLeaf
  split
  · exact (h.of_mems (s.ckCopy_mems _)).rawWrite _ _ _
  · exact h

theorem State.MemOk.writeImage (h : s.MemOk) (area : Nat) (l : Image) : (s.writeImage area l).MemOk :=
  List.foldlRecOn _ _ h fun t ht _ _ => (ht.of_mems (t.ckCopy_mems _)).rawWrite _ _ _

theorem State.MemOk.moveLine (h : s.MemOk) (key l m : Nat) : (s.moveLine key l m).MemOk :=
  ((h.of_mems (s.ckCopy_mems _)).lineWrite _ _ _).of_mems (State.modLine_mems ..)

theorem State.MemOk.hostWrite (h : s.MemOk) (p : Nat) (l : List Byte) : (s.hostWrite p l).MemOk := by
  unfold State.hostWrite
  split
  · exact h
  · exact (h.homeWrite _ _ _ _ _ _ _).of_mems (State.patchPinned_mems ..)

theorem State.MemOk.hostLines (h : s.MemOk) (n p : Nat) (l : List Byte) : (s.hostLines p l n).MemOk := by
  induction n generalizing s p l with
  | zero => exact h
  | succ n ih =>
    unfold State.hostLines
    split
    · exact h
    · exact ih (h.hostWrite _ _) _ _

end Sys2Proof.Machine
end

section
/-! PROOFS. The steps of the table that write memory, and with them every step: the canonical form is kept. -/

namespace Sys2Proof.Machine

/-- The next state of the outcome, if it has one, has its memories in canonical form. -/
def EndsOk (o : Out) : Prop := ∀ t, o = .next t → t.MemOk

@[simp] theorem endsOk_next (t : State) : EndsOk (.next t) ↔ t.MemOk := by simp [EndsOk]
@[simp] theorem endsOk_fault (r : Fault) : EndsOk (.fault r) := by simp [EndsOk]

variable {s : State}

theorem EndsOk.next {t : State} (h : t.MemOk) : EndsOk (.next t) := (endsOk_next t).2 h

theorem EndsOk.next_of_mems {t : State} (h : s.MemOk) (e : t.mems = s.mems) : EndsOk (.next t) := .next (h.of_mems e)

theorem EndsOk.ite {c : Prop} [Decidable c] {a b : Out} (ha : EndsOk a) (hb : EndsOk b) : EndsOk (if c then a else b) := by
  split <;> assumption

theorem State.MemOk.ite {c : Prop} [Decidable c] {a b : State} (ha : a.MemOk) (hb : b.MemOk) :
    (if c then a else b).MemOk := by
  split <;> assumption

theorem State.Spares.endsOk {o : Out} (h : s.Spares o) (hs : s.MemOk) : EndsOk o :=
  fun t ht => hs.of_mems (h t ht)

theorem execFirstTouchAssign_endsOk (h : s.MemOk) : EndsOk (execFirstTouchAssign s) := by
  unfold execFirstTouchAssign
  split
  · exact .next h
  · extract_lets onward mine d
    have honward (t : State) : (onward t).mems = t.mems := State.after_mems ..
    refine .ite (.next_of_mems h (honward s)) ?_
    split
    · exact .next_of_mems h (State.answer_mems ..)
    · refine .ite (.next_of_mems h (State.sched_mems ..)) (.next (.of_mems ?_ (honward _)))
      exact ((h.of_mems (State.modDie_mems ..)).writeLeaf _ _ _ _).of_mems rfl

theorem execHomeWriteApply_endsOk (h : s.MemOk) : EndsOk (execHomeWriteApply s) := by
  unfold execHomeWriteApply
  split
  · exact .next h
  split
  · exact .next h
  split
  · exact .next_of_mems h (State.holdPinned_mems ..)
  extract_lets key stamp n err put
  have hput {t : State} (ht : t.MemOk) (v be : Nat) (r : Req) : EndsOk (.next ((put t v be).1.answer r)) :=
    .next (((ht.homeWrite ..).of_mems (State.patchPinned_mems ..)).of_mems (State.answer_mems ..))
  have failed (r : Req) : EndsOk (.next (s.answer r)) := .next_of_mems h (State.answer_mems ..)
  split
  · exact .ite (failed _) (.ite (failed _) (hput h _ _ _))
  · exact .ite (failed _) (.ite (failed _) (hput h _ _ _))
  · exact .ite (failed _) (hput (h.mergeUpds _ _) _ _ _)
  · exact .ite (failed _) (hput (h.mergeUpds _ _) _ _ _)
  · exact .next h

theorem execReductionApply_endsOk (h : s.MemOk) : EndsOk (execReductionApply s) := by
  unfold execReductionApply
  split
  · exact .next h
  split
  · exact .next_of_mems h (State.now_mems ..)
  refine .ite (.next_of_mems h (State.sched_mems ..)) ?_
  split
  · exact .next_of_mems h (State.holdPinned_mems ..)
  refine .ite (.next_of_mems h (State.answer_mems ..)) (.next ?_)
  refine .of_mems ?_ ((State.answer_mems ..).trans <| (State.notify_mems ..).trans <| (State.patchPinned_mems ..).trans <|
    State.stampLine_mems ..)
  split
  · exact (h.of_mems (s.ckCopy_mems _)).contribute ..
  · exact (h.of_mems (s.ckCopy_mems _)).contribute ..
  · exact h

theorem execSyncWordWrite_endsOk (h : s.MemOk) : EndsOk (execSyncWordWrite s) := by
  unfold execSyncWordWrite
  split
  · exact .next h
  split
  · split
    · exact .next_of_mems h (State.holdPinned_mems ..)
    · refine .ite (.next_of_mems h (State.answer_mems ..)) (.next ?_)
      exact ((h.mergeUpds _ _).homeWrite ..).of_mems ((State.answer_mems ..).trans (State.patchPinned_mems ..))
  · exact .next h

theorem execCollStepComplete_endsOk (h : s.MemOk) : EndsOk (execCollStepComplete s) := by
  unfold execCollStepComplete
  refine .ite (.next_of_mems h (State.collLearnt_mems ..)) ?_
  split
  · exact .next h
  split
  · exact .next h
  split
  · exact .next h
  extract_lets fin u
  have hfin (t : State) : (fin t).mems = t.mems := State.stepGone_mems ..
  refine .ite (.next_of_mems h (hfin s)) <| .ite (.next_of_mems h (by simp)) <| .ite (.next h) <|
    .ite (.next_of_mems h (by simp [hfin])) <| .ite (.next h) <| .ite (by simp) <| .ite (.next h) (.next ?_)
  exact (h.lqEnter ..).of_mems (hfin _)

theorem execDeviceLaunchWrite_endsOk (h : s.MemOk) : EndsOk (execDeviceLaunchWrite s) := by
  unfold execDeviceLaunchWrite
  split
  · exact .next h
  extract_lets u gone r
  have hgone (t : State) : (gone t).mems = t.mems := State.modLq_mems ..
  refine .ite (.next h) <| .ite (.next_of_mems h (by simp [hgone])) <| .ite (by simp) <| .ite (.next h) (.next ?_)
  exact (h.lqEnter ..).of_mems (hgone _)

theorem execCompletionRecordWrite_endsOk (h : s.MemOk) : EndsOk (execCompletionRecordWrite s) := by
  unfold execCompletionRecordWrite
  extract_lets q u
  split
  · exact .next h
  refine .ite (.next h) ?_
  extract_lets emptied written noted dist recorded followed
  have hemptied : emptied.MemOk := h.of_mems (State.modLq_mems ..)
  have hnoted : noted.MemOk := (hemptied.rawWrite ..).of_mems (State.modLq_mems ..)
  clear_value emptied noted
  have hrecorded : recorded.MemOk := .ite (.ite hnoted hnoted) hemptied
  have hfollowed : followed.MemOk := hrecorded.of_mems (State.followDone_mems ..)
  exact .next (.ite hfollowed (hfollowed.of_mems (State.now_mems ..)))

theorem execPreemptSave_endsOk (h : s.MemOk) : EndsOk (execPreemptSave s) := by
  unfold execPreemptSave
  refine .ite (.next h) ?_
  split
  · refine .ite (by simp) ?_
    extract_lets k half mx bad
    generalize hp : (if bad = true then s.choose (2 ^ 64 - 1) else (0, s)) = p
    obtain ⟨n, t⟩ := p
    have ht : t.MemOk := h.of_mems (by
      have := congrArg (fun p => p.2.mems) hp
      simp only [apply_ite Prod.snd, State.mems_ite, State.choose_mems, ite_self] at this
      exact this.symm)
    dsimp -zeta only
    extract_lets diff fold r recorded written posted ended e v left s'
    have hrecorded : recorded.MemOk :=
      .ite (ht.of_mems ((State.cancelGin_mems ..).trans (State.post_mems ..))) ht
    have hended : ended.MemOk :=
      ((hrecorded.writeImage ..).of_mems (State.post_mems ..)).of_mems (State.pmEnd_mems ..)
    clear_value ended
    have hleft : s'.mems = ended.mems := State.modCore_mems ..
    clear_value s'
    refine .ite (.next_of_mems hended (State.modCtx_mems ..)) (.next_of_mems hended ?_)
    simp [hleft]
  · exact .next h

@[simp] theorem State.reset_mems : State.reset.mems = ([], []) := by rfl

theorem execPackagePowerOnReset_endsOk (s : State) : EndsOk (execPackagePowerOnReset s) := by
  have empty {t : State} (e : t.mems = State.reset.mems) : t.MemOk := .of_mems ⟨rfl, rfl⟩ e
  simp only [execPackagePowerOnReset]
  split
  · exact .next (empty (by simp))
  · exact .next (empty (by (repeat' split) <;> simp))

theorem execPageMove_endsOk (h : s.MemOk) : EndsOk (execPageMove s) := by
  refine .ite (endsOk_fault _) (.ite (.next_of_mems h (State.sched_mems ..)) (.next ?_))
  exact .of_mems (List.foldlRecOn (motive := State.MemOk) _ _ h fun _ ht _ _ => ht.moveLine ..) rfl

theorem execHostPortMemoryWrite_endsOk (h : s.MemOk) : EndsOk (execHostPortMemoryWrite s) :=
  .ite (endsOk_fault _) (.ite (.next_of_mems h (by simp)) (.next (h.hostLines ..)))

theorem execCheckpointDrainOpen_endsOk (h : s.MemOk) : EndsOk (execCheckpointDrainOpen s) :=
  .ite (.next h) (.next (.of_mems (List.foldlRecOn (motive := State.MemOk) _ _ h fun _ ht _ _ => ht.mergeUpds ..) rfl))

/-- Every step of the table keeps the canonical form. -/
theorem exec_endsOk (i : Instr) (h : s.MemOk) : EndsOk (exec i s) := by
  cases i with dsimp only [exec]
  | vadd | vsub | vmul | vfma | vfms | vfnma | vmin | vmax | vabs | vneg | vscalb | vrcp | vrsq | vexp2 | vlog2 | viadd
  | visub | vimul | vimad | vimin | vimax | vand | vor | vxor | vpopc | viabs | vshl | vshr | vsra | vcmp | vclass
  | kand | kor | kxor | knot | kmov | vmov | vsel | vbcast | viota | vperm | vrot | vins | vrsum | vrmax | vrmin
  | virsum | vcvt | vqblk | vdqblk | vpack | vunpk => exact (vecOp_spares _ _ _ _ _).endsOk h
  | lidx | sysrd | cyc | add | sub | addi | and | or | xor | andi | ori | xori | shl | shr | sra | shli | shri | srai
  | mul | mulh | mulhu | div | divu | rem | remu | min | max | minu | maxu | seq | slt | sltu | sel | clz | ctz | popc
  | li | bfx | bfi | fcvt | hqry | kpopc | vextr => exact (alu_spares _ _ _ _ _).endsOk h
  | brc | call | loop | loopi | syswr | sld | vsld | vsst | vslds | vssts | vsgath | vsscat | ldfe | ste | stf | tagwr
  | samo | tswap | fence | bara | cancel | pwrq | yield | endOfTask =>
    refine State.Spares.endsOk (spares_perform _ _ _ _ _ ?_) h
    simp
  | nop | br | ret | jmpi | lexit | trap | hwait | sst | ldf | tagrd | cpq | tlrd | bind | unbind | wack | barw | mregw
  | mregr | coll | cstab | restartMark | quenchPoint => exact (spares_perform _ _ _ _ _ rfl).endsOk h
  | fpmode | vcvtsr | vhld | vhst | rvst | mvst | rste | gld | gst | vgld | vgst | vggath | vgscat | amo | cas | red
  | fred | afeed | tzero | launch =>
    refine State.Spares.endsOk ?_ h
    dsimp only [execFpmode, execVcvtsr, execVhld, execVhst, execRvst, execMvst, execRste, execGld, execGst, execVgld,
      execVgst, execVggath, execVgscat, execAmo, execCas, execRed, execFred, execAfeed, execTzero, execLaunch]
    apply spares_perform
    simp
  | hset | hadvf | hadvc | rsst | tlwait | tladv | rel | send | bown | brel =>
    refine State.Spares.endsOk ?_ h
    dsimp only [execHset, execHadvf, execHadvc, execRsst, execTlwait, execTladv, execRel, execSend, execBown, execBrel]
    apply spares_perform
    rfl
  | fadd | fsub | fmul | ffma | fmin | fmax | fcmp => exact (fpOp_spares _ _ _ _ _).endsOk h
  | fdiv | fsqrt => exact (fpVar_spares _ _ _ _ _).endsOk h
  | vdiv | vsqrt => exact (vecVar_spares _ _ _ _ _).endsOk h
  | pin | unpin => exact (rangeForm_spares _ _ _ _ _ _ _).endsOk h
  | wload | wloadNxt => exact (wloadRing_spares _ _ _ _ _ _).endsOk h
  | accum | accumSet => exact (accum_spares _ _ _ _).endsOk h
  | drain | drainClr => exact (drainBeat_spares _ _ _ _).endsOk h
  | cpy | cpyx => exact (copyForm_spares _ _ _ _).endsOk h
  | gpf => exact (execGpf_spares _ _ _ _ _).endsOk h
  | gwb => exact (execGwb_spares _ _ _ _ _ _).endsOk h
  | ginv => exact (execGinv_spares _ _ _ _ _ _).endsOk h
  | wloadTongs => exact (execWloadTongs_spares _ _).endsOk h
  | wloadNxtTongs => exact (execWloadNxtTongs_spares _ _).endsOk h
  | tclose => exact (execTclose_spares _).endsOk h
  | acq => exact (execAcq_spares _ _ _ _ _).endsOk h
  | acqp => exact (execAcqp_spares _ _ _ _ _ _).endsOk h
  | bar => exact (execBar_spares _ _).endsOk h
  | recv => exact (execRecv_spares _ _ _ _ _ _).endsOk h
  | bundleDecode => exact (execBundleDecode_spares _).endsOk h
  | indexLineFill => exact (execIndexLineFill_spares _).endsOk h
  | dictionaryReread => exact (execDictionaryReread_spares _).endsOk h
  | splitBundleSecondCycle => exact (execSplitBundleSecondCycle_spares _).endsOk h
  | contextPark => exact (execContextPark_spares _).endsOk h
  | contextUnpark => exact (execContextUnpark_spares _).endsOk h
  | resultLand => exact (execResultLand_spares _).endsOk h
  | variableResultLand => exact (execVariableResultLand_spares _).endsOk h
  | engineProducerPublish => exact (execEngineProducerPublish_spares _).endsOk h
  | correctionFreezeEnd => exact (execCorrectionFreezeEnd_spares _).endsOk h
  | lockstepMismatch => exact (execLockstepMismatch_spares _).endsOk h
  | residueMismatch => exact (execResidueMismatch_spares _).endsOk h
  | rollbackFetchResume => exact (execRollbackFetchResume_spares _).endsOk h
  | markEstablished => exact (execMarkEstablished_spares _).endsOk h
  | taskEnd => exact (execTaskEnd_spares _).endsOk h
  | commitDrain => exact (execCommitDrain_spares _).endsOk h
  | scratchpadDrainWrite => exact (execScratchpadDrainWrite_spares _).endsOk h
  | parityDeltaApply => exact (execParityDeltaApply_spares _).endsOk h
  | bankSleep => exact (execBankSleep_spares _).endsOk h
  | bankWake => exact (execBankWake_spares _).endsOk h
  | parityRebuildRow => exact (execParityRebuildRow_spares _).endsOk h
  | tileComparison => exact (execTileComparison_spares _).endsOk h
  | hardyDecision => exact (execHardyDecision_spares _).endsOk h
  | remoteStoreArrival => exact (execRemoteStoreArrival_spares _).endsOk h
  | rsteArrival => exact (execRsteArrival_spares _).endsOk h
  | homeRequest => exact (execHomeRequest_spares _).endsOk h
  | translationWalk => exact (execTranslationWalk_spares _).endsOk h
  | firstTouchAssign => exact execFirstTouchAssign_endsOk h
  | homeWriteApply => exact execHomeWriteApply_endsOk h
  | reductionApply => exact execReductionApply_endsOk h
  | writeGrantReturn => exact (execWriteGrantReturn_spares _).endsOk h
  | refusalArrival => exact (execRefusalArrival_spares _).endsOk h
  | migrationRerun => exact (execMigrationRerun_spares _).endsOk h
  | ackArrival => exact (execAckArrival_spares _).endsOk h
  | spillQueueReturn => exact (execSpillQueueReturn_spares _).endsOk h
  | syncWordWrite => exact execSyncWordWrite_endsOk h
  | promotionRequest => exact (execPromotionRequest_spares _).endsOk h
  | promotionReply => exact (execPromotionReply_spares _).endsOk h
  | barrierComplete => exact (execBarrierComplete_spares _).endsOk h
  | ltTick => exact (execLtTick_spares _).endsOk h
  | timestampRebase => exact (execTimestampRebase_spares _).endsOk h
  | copyAccept => exact (execCopyAccept_spares _).endsOk h
  | copyStart => exact (execCopyStart_spares _).endsOk h
  | copyPieceRetry => exact (execCopyPieceRetry_spares _).endsOk h
  | copyVerify => exact (execCopyVerify_spares _).endsOk h
  | copyComplete => exact (execCopyComplete_spares _).endsOk h
  | sendDrain => exact (execSendDrain_spares _).endsOk h
  | lrqRoomGrant => exact (execLrqRoomGrant_spares _).endsOk h
  | messageAccept => exact (execMessageAccept_spares _).endsOk h
  | packetReceive => exact (execPacketReceive_spares _).endsOk h
  | wavelengthRetrain => exact (execWavelengthRetrain_spares _).endsOk h
  | wavelengthRetrainEnd => exact (execWavelengthRetrainEnd_spares _).endsOk h
  | wavelengthPark => exact (execWavelengthPark_spares _).endsOk h
  | linkDown => exact (execLinkDown_spares _).endsOk h
  | linkReturn => exact (execLinkReturn_spares _).endsOk h
  | routeTableWrite => exact (execRouteTableWrite_spares _).endsOk h
  | routeEntryEffect => exact (execRouteEntryEffect_spares _).endsOk h
  | cancelTokenArrival => exact (execCancelTokenArrival_spares _).endsOk h
  | cstabLoad => exact (execCstabLoad_spares _).endsOk h
  | collAccept => exact (execCollAccept_spares _).endsOk h
  | collStepStart => exact (execCollStepStart_spares _).endsOk h
  | collMessageArrival => exact (execCollMessageArrival_spares _).endsOk h
  | collStepComplete => exact execCollStepComplete_endsOk h
  | deviceLaunchWrite => exact execDeviceLaunchWrite_endsOk h
  | queueHeadFetch => exact (execQueueHeadFetch_spares _).endsOk h
  | queueHeadReread => exact (execQueueHeadReread_spares _).endsOk h
  | launchQueueService => exact (execLaunchQueueService_spares _).endsOk h
  | portionHandout => exact (execPortionHandout_spares _).endsOk h
  | placeTask => exact (execPlaceTask_spares _).endsOk h
  | preloadWrite => exact (execPreloadWrite_spares _).endsOk h
  | taskStart => exact (execTaskStart_spares _).endsOk h
  | powerWindow => exact (execPowerWindow_spares _).endsOk h
  | grantRecompute => exact (execGrantRecompute_spares _).endsOk h
  | permitAudit => exact (execPermitAudit_spares _).endsOk h
  | permitAuditEnd => exact (execPermitAuditEnd_spares _).endsOk h
  | launchComplete => exact (execLaunchComplete_spares _).endsOk h
  | completionRecordWrite => exact execCompletionRecordWrite_endsOk h
  | faultRecordRemove => exact (execFaultRecordRemove_spares _).endsOk h
  | preemptRequest => exact (execPreemptRequest_spares _).endsOk h
  | debugHalt => exact (execDebugHalt_spares _).endsOk h
  | resume => exact (execResume_spares _).endsOk h
  | preemptWindowExpiry => exact (execPreemptWindowExpiry_spares _).endsOk h
  | preemptSave => exact execPreemptSave_endsOk h
  | launchMove => exact (execLaunchMove_spares _).endsOk h
  | containmentReset => exact (execContainmentReset_spares _).endsOk h
  | spareClusterEnable => exact (execSpareClusterEnable_spares _).endsOk h
  | pageMove => exact execPageMove_endsOk h
  | checkpointDrainOpen => exact execCheckpointDrainOpen_endsOk h
  | checkpointUnitDrained => exact (execCheckpointUnitDrained_spares _).endsOk h
  | checkpointDrainClose => exact (execCheckpointDrainClose_spares _).endsOk h
  | safeTierFault => exact (execSafeTierFault_spares _).endsOk h
  | packagePowerOnReset => exact execPackagePowerOnReset_endsOk _
  | launchQueueEnable => exact (execLaunchQueueEnable_spares _).endsOk h
  | launchQueueDisable => exact (execLaunchQueueDisable_spares _).endsOk h
  | launchQueueNotify => exact (execLaunchQueueNotify_spares _).endsOk h
  | lqcanset => exact (execLqcanset_spares _).endsOk h
  | lqcanclr => exact (execLqcanclr_spares _).endsOk h
  | fqres => exact (execFqres_spares _).endsOk h
  | htinv => exact (execHtinv_spares _).endsOk h
  | htinvComplete => exact (execHtinvComplete_spares _).endsOk h
  | completionRingEnable => exact (execCompletionRingEnable_spares _).endsOk h
  | lrqClose => exact (execLrqClose_spares _).endsOk h
  | registerWrite => exact (execRegisterWrite_spares _).endsOk h
  | hostPortMemoryWrite => exact execHostPortMemoryWrite_endsOk h

end Sys2Proof.Machine
end

section
/-! PROOFS. Bundles, clocks and what moves next: runs of the table's steps keep the canonical form, and with them every step of
the machine. -/

namespace Sys2Proof.Machine

/-- What the run answers meets P; where it stops the machine instead, a next state that this gives has its memories in
canonical form. -/
inductive Run.Ends {α : Type} (P : α → Prop) : Run α → Prop
  | ok {a : α} (h : P a) : Run.Ends P (.ok a)
  | error {o : Out} (h : EndsOk o) : Run.Ends P (.error o)

/-- The states of the attempt have their memories in canonical form. -/
def State.Attempt.MemOk : State.Attempt → Prop
  | .acts s b => s.MemOk ∧ b.MemOk
  | .waits s | .holds s | .trapped s => s.MemOk

section
variable {α β : Type} {P : α → Prop} {Q : β → Prop}

theorem Run.Ends.ok_ite {c : Prop} [Decidable c] {a b : α} (ha : P a) (hb : P b) : Run.Ends P (.ok (if c then a else b)) := by
  split <;> exact .ok ‹_›

theorem Run.Ends.bind {r : Run α} {f : α → Run β} (h : r.Ends P) (hf : ∀ a, P a → (f a).Ends Q) : (r >>= f).Ends Q := by
  cases h with
  | ok h => exact hf _ h
  | error h => exact .error h

/-- A step that a run makes under a condition, and what follows it in either case. -/
theorem Run.Ends.ite_bind {c : Prop} [Decidable c] {r q : Run α} {f : α → Run β} (hr : r.Ends P) (hq : q.Ends P)
    (hf : ∀ a, P a → (f a).Ends Q) : (if c then r >>= f else q >>= f).Ends Q := by
  split
  · exact hr.bind hf
  · exact hq.bind hf

theorem Run.Ends.ite {c : Prop} [Decidable c] {r q : Run α} (hr : r.Ends P) (hq : q.Ends P) : (if c then r else q).Ends P := by
  split <;> assumption

end

theorem Run.ends_of {o : Out} (h : EndsOk o) : (Run.of o).Ends State.MemOk := by
  cases o with
  | next t => exact .ok ((endsOk_next t).1 h)
  | fault r => exact .error h
  | refused r => exact .error h

theorem Run.Ends.out {r : Run State} (h : r.Ends State.MemOk) : EndsOk r.out := by
  cases h with
  | ok h => exact .next h
  | error h => exact h

namespace State
variable {s : State}

theorem exec_ends (i : Instr) (h : s.MemOk) : (Run.of (exec i s)).Ends MemOk := Run.ends_of (exec_endsOk i h)

theorem exec_iss_ends (i : Instr) (l : Issue) (h : s.MemOk) : (Run.of (exec i { s with iss := l })).Ends MemOk :=
  exec_ends i (h.of_mems rfl)

theorem event_ends (i : Instr) (a : Arg) (h : s.MemOk) : (s.event i a).Ends MemOk := exec_ends i (h.of_mems rfl)

theorem events_ends (l : List (Instr × Arg)) (h : s.MemOk) : (s.events l).Ends MemOk := by
  induction l generalizing s with
  | nil => exact .ok h
  | cons p ps ih => exact (event_ends p.1 p.2 h).bind fun _ ht => ih ht

theorem trySlot_ends (n : Nat) (i : Instr) (stop : Option Stop) (h : s.MemOk) : (s.trySlot n i stop).Ends MemOk :=
  exec_iss_ends i _ h

theorem trySlots_ends {b : State} (hb : b.MemOk) (ps : List (Nat × Instr)) {t : State} (ht : t.MemOk) :
    (b.trySlots ps t).Ends fun p => p.1.MemOk := by
  induction ps generalizing t with
  | nil => exact .ok ht
  | cons p ps ih =>
    obtain ⟨n, i⟩ := p
    unfold trySlots
    have stopped (t : State) (ht : t.MemOk) (e : Nat × Instr × Stop) :
        (b.trySlots ps t >>= fun p => .ok (p.1, e :: p.2)).Ends fun p => p.1.MemOk := (ih ht).bind fun _ hp => .ok hp
    split
    · refine (trySlot_ends _ _ _ hb).bind fun u hu => ?_
      split
      · exact stopped _ ht _
      · exact ih (ht.of_mems (modCx_mems ..))
    · refine (trySlot_ends _ _ _ (.ite (ht.of_mems (withEngines_mems ..)) ht)).bind fun u hu => ?_
      split
      · exact stopped _ ht _
      · exact ih (.ite (hu.of_mems (withEngines_mems ..)) hu)

theorem waitSlots_ends (l : List (Nat × Instr × Stop)) (before : Option Stop) (h : s.MemOk) :
    (s.waitSlots l before).Ends MemOk := by
  induction l generalizing s before with
  | nil => exact .ok h
  | cons e l ih =>
    unfold waitSlots
    refine (trySlot_ends _ _ _ h).bind fun u hu => ?_
    split
    · exact ih _ hu
    · exact ih _ h

theorem headerActs_ends (h : s.MemOk) : s.headerActs.Ends MemOk := by
  unfold headerActs
  dsimp only
  refine .ite_bind (exec_iss_ends _ _ h) (.ok h) fun t ht => ?_
  refine .ite_bind (exec_iss_ends _ _ ht) (.ok ht) fun t ht => ?_
  refine .ite_bind (exec_iss_ends _ _ ht) (.ok ht) fun t ht => ?_
  exact .ok (.ite (ht.of_mems (quenchTiles_mems ..)) ht)

theorem finishBundle_ends (q : Seq) (h : s.MemOk) : (s.finishBundle q).Ends MemOk := by
  unfold finishBundle
  dsimp -zeta only
  refine (headerActs_ends (h.of_mems (advanceCtx_mems ..))).bind fun t ht => ?_
  dsimp only
  refine .ite_bind (event_ends _ _ (ht.of_mems (modCc_mems ..))) (.ok ht) fun t ht => ?_
  split
  · have hstep (c v : Nat) (f : Ctx → Ctx) : ((t.pmBegin c v false).modCx f).MemOk :=
      ht.of_mems ((modCx_mems ..).trans (pmBegin_mems ..))
    exact .ite (exec_iss_ends _ _ (hstep ..)) (.ok (hstep ..))
  · exact .ite (exec_iss_ends _ _ ht) (.ok ht)

theorem markStop_ends (h : s.MemOk) : s.markStop.Ends fun _ => True := by
  unfold markStop
  refine .ite ((trySlot_ends _ _ _ h).bind fun u _ => ?_) (.ok trivial)
  split <;> exact .ok trivial

theorem tryBundle_ends (h : s.MemOk) : s.tryBundle.Ends Attempt.MemOk := by
  unfold tryBundle
  dsimp -zeta only
  extract_lets k is b0 b issue b' n
  have hb : b.MemOk := h.of_mems (heldByTable_mems ..)
  have hb' : b'.MemOk := hb.of_mems rfl
  clear_value b b'
  refine .ite (.ok hb) (.ite (.ok hb) (.ite (.ok_ite (hb'.of_mems (trap_mems ..)) hb') ?_))
  refine (markStop_ends hb').bind fun m _ => (trySlots_ends hb' _ hb').bind fun p hp => ?_
  extract_lets
  split
  · exact .ok (hb'.of_mems (trap_mems ..))
  refine .ite ((waitSlots_ends _ _ hb').bind fun u hu => .ok hu) ?_
  extract_lets
  split
  · exact .ok (hb'.of_mems (trap_mems ..))
  split
  · exact .ok (h.of_mems ((heldByTable_mems ..).trans (modSp_mems ..)))
  · refine (finishBundle_ends _ (hp.of_mems ?_)).bind fun u hu => .ok ⟨hu, hb'⟩
    exact (modSp_mems ..).trans (modSp_mems ..)

theorem attempt_ends (c x : Nat) (h : s.MemOk) : (s.attempt c x).Ends Attempt.MemOk := by
  refine (event_ends _ _ h).bind fun b hb => .ite (tryBundle_ends hb) ?_
  split <;> exact .ok hb

theorem countWait_ends (c x : Nat) (h : s.MemOk) : (s.countWait c x).Ends MemOk := by
  have hw := h.of_mems (s.modCtx_mems c x fun k => { k with status := .waiting, waitClk := k.waitClk + 1 })
  exact .ite (event_ends _ _ hw) (.ok hw)

theorem MemOk.charge (h : s.MemOk) (c i n : Nat) : (s.charge c i n).MemOk := h.of_mems (charge_mems ..)

theorem issueSecond_ends (c i : Nat) (x : Option Nat) (h : s.MemOk) : (s.issueSecond c i x).Ends MemOk := by
  unfold issueSecond
  split
  · exact .ok h
  refine .ite (.ok h) ((attempt_ends _ _ h).bind fun a ha => ?_)
  cases a with
  | acts t b => exact .ok_ite (ha.1.charge ..) ha.2
  | waits b => exact countWait_ends _ _ ha
  | holds b | trapped b => exact .ok ha

theorem issueBeside_ends (c i : Nat) (x : Option Nat) (h : s.MemOk) : (s.issueBeside c i x).Ends MemOk := by
  unfold issueBeside
  extract_lets n alone
  have halone : alone.MemOk := h.charge ..
  split
  · exact .ok halone
  refine .ite (.ok halone) ((attempt_ends _ _ h).bind fun a ha => ?_)
  cases a with
  | acts u b => exact .ok_ite (ha.2.charge ..) (ha.1.charge ..)
  | waits b => exact countWait_ends _ _ (MemOk.charge ha ..)
  | holds b | trapped b => exact .ok (MemOk.charge ha ..)

theorem issueHalf_ends (c i : Nat) (h : s.MemOk) : (s.issueHalf c i).Ends MemOk := by
  unfold issueHalf
  extract_lets s1 s2 s3 p x
  have h1 : s1.MemOk := h.of_mems (foldl_mems _ _ _ fun _ _ => beforeBundle_mems ..)
  have h3 : s3.MemOk := h1.of_mems ((modCore_mems ..).trans (choosePrimary_mems ..))
  clear_value s1 s3
  refine .ite (.ok h1) (.ite (issueSecond_ends _ _ _ h3) ((attempt_ends _ _ h3).bind fun a ha => ?_))
  cases a with
  | acts t b => exact .ite (issueBeside_ends _ _ _ ha.1) (issueSecond_ends _ _ _ ha.2)
  | waits b => exact (countWait_ends _ _ ha).bind fun u hu => issueSecond_ends _ _ _ hu
  | holds b | trapped b => exact issueSecond_ends _ _ _ ha

theorem stepCtx_ends (c x : Nat) (h : s.MemOk) : (s.stepCtx c x).Ends MemOk :=
  .ite (event_ends _ _ h) (.ite (event_ends _ _ h) (.ok h))

theorem lateRun_ends (c x : Nat) (h : s.MemOk) : (s.lateRun c x).Ends MemOk := by
  unfold lateRun
  extract_lets k saved
  split
  · extract_lets b
    have hb : b.MemOk := h.of_mems rfl
    refine (exec_ends _ (hb.of_mems (modCx_mems ..))).bind fun u hu => ?_
    have hu' (f : Ctx → Ctx) : (u.modCx f).MemOk := hu.of_mems (modCx_mems ..)
    split
    · exact .ok_ite ((hu' _).of_mems (unparkSoon_mems ..)) (hu' _)
    · exact .ite (countWait_ends _ _ (hu' _)) (.ok (hu' _))
    · exact .ok (hu' _)
  · exact .ok h

theorem tryParked_ends (c x : Nat) (h : s.MemOk) : (s.tryParked c x).Ends MemOk := by
  have hsoon : (s.unparkSoon c x).MemOk := h.of_mems (unparkSoon_mems ..)
  refine .ite (.ok h) ((attempt_ends _ _ h).bind fun a ha => ?_)
  cases a with
  | acts t b => exact .ok hsoon
  | waits b => exact .ok ha
  | holds b => exact .ok_ite ha hsoon
  | trapped b => exact .ok hsoon

theorem eachCtx_ends (f : State → Nat → Run State) (hf : ∀ t x, t.MemOk → (f t x).Ends MemOk) (l : List Nat)
    (h : s.MemOk) : (s.eachCtx f l).Ends MemOk := by
  induction l generalizing s with
  | nil => exact .ok h
  | cons x l ih => exact (hf s x h).bind fun _ ht => ih ht

theorem endClock_ends (c : Nat) (h : s.MemOk) : (s.endClock c).Ends MemOk := by
  unfold endClock
  extract_lets xs s0
  have h0 : s0.MemOk := h.of_mems (by simp [s0])
  clear_value s0
  refine (events_ends _ h0).bind fun s h => ?_
  refine (event_ends _ _ (h.of_mems (by simp))).bind fun s h => ?_
  extract_lets s1
  have h1 : s1.MemOk := h.of_mems (by simp [s1])
  refine (events_ends _ h1).bind fun s h => (events_ends _ h).bind fun s h => ?_
  refine (eachCtx_ends _ (fun _ _ ht => stepCtx_ends _ _ ht) _ h).bind fun s h => ?_
  extract_lets s2
  have h2 : s2.MemOk := h.of_mems (by simp [s2])
  refine (events_ends _ (h2.of_mems (by simp))).bind fun s h => ?_
  refine (events_ends _ h).bind fun s h => ?_
  extract_lets s3
  have h3 : s3.MemOk := h.of_mems (by simp [s3])
  refine (eachCtx_ends _ (fun _ _ ht => lateRun_ends _ _ ht) _ h3).bind fun s h => ?_
  exact (eachCtx_ends _ (fun _ _ ht => tryParked_ends _ _ ht) _ h).bind fun s h => .ok (h.of_mems (modSp_mems ..))

end State

namespace State
variable {s : State}
theorem runTask_endsOk (t : Task) (h : s.MemOk) : EndsOk (s.runTask t) := by
  cases t with unfold runTask
  | ev i a => exact exec_endsOk i (h.of_mems rfl)
  | issue c i => exact (issueHalf_ends _ _ h).out
  | endClock c => exact (endClock_ends _ h).out

theorem moveNext_endsOk (h : s.MemOk) : EndsOk s.moveNext := by
  unfold moveNext
  split
  · exact runTask_endsOk _ (h.of_mems rfl)
  · exact .next_of_mems h (tick_mems ..)

end State

/-- Settles O6: each step of the table and each part of a clock leaves both memories as they are, or makes writes of them, each
of which keeps the canonical form. -/
theorem memoryStaysCanonical : Obligations.MemoryStaysCanonical :=
  fun _ t h ht => State.moveNext_endsOk h t ht

end Sys2Proof.Machine
end

section
/-! PROOFS. The bytes that a write at a home leaves. -/

namespace Sys2Proof.Machine

/-! ### The bytes of words and of memory (R3) -/

/-- Bit 8 j + b of a word is bit b of its byte j. -/
theorem getLsbD_ofNat_byte (w j b : Nat) :
    (BitVec.ofNat 8 (w / 2 ^ (8 * j))).getLsbD b = (decide (b < 8) && w.testBit (8 * j + b)) := by
  rw [BitVec.getLsbD_ofNat, Nat.testBit_div_two_pow, Nat.add_comm]

/-- Byte k + 1 of a word is byte k of what stands above its lowest byte. -/
theorem div_byte_succ (v k : Nat) : v / 2 ^ (8 * (k + 1)) = v / 256 / 2 ^ (8 * k) := by
  rw [Nat.div_div_eq_div_mul, Nat.mul_add, Nat.pow_add, Nat.mul_comm (2 ^ (8 * k))]

/-- A byte inside a write of n bytes reads as the byte of v that stands there. -/
theorem mget_mwrite_inside (n : Nat) {m : Memory} {a k : Nat} (v : Nat) (h : Memory.wf m = true) (hk : k < n) :
    mget (mwrite m a n v) (a + k) = BitVec.ofNat 8 (v / 2 ^ (8 * k)) := by
  induction n generalizing m a v k with
  | zero => omega
  | succ n ih =>
    have hwf := wf_mset a (BitVec.ofNat 8 v) h
    rw [mwrite]
    cases k with
    | zero =>
      rw [mget_mwrite_outside n _ hwf (by omega), Nat.add_zero, mget_mset_self _ _ h, Nat.mul_zero, Nat.pow_zero, Nat.div_one]
    | succ k => rw [div_byte_succ, show a + (k + 1) = a + 1 + k by omega, ih _ hwf (by omega)]

/-- The bytes of the number that n bytes of memory read as. -/
theorem ofNat_mread_byte (n : Nat) (m : Memory) (a : Nat) {k : Nat} (hk : k < n) :
    BitVec.ofNat 8 (mread m a n / 2 ^ (8 * k)) = mget m (a + k) := by
  induction n generalizing a k with
  | zero => omega
  | succ n ih =>
    have hb := (mget m a).isLt
    rw [mread]
    cases k with
    | zero =>
      refine BitVec.eq_of_toNat_eq ?_
      simp only [Nat.mul_zero, Nat.pow_zero, Nat.div_one, Nat.add_zero, BitVec.toNat_ofNat]
      omega
    | succ k =>
      have htail : ((mget m a).toNat + 256 * mread m (a + 1) n) / 256 = mread m (a + 1) n := by omega
      rw [div_byte_succ, htail, ih _ (by omega), Nat.add_assoc, Nat.add_comm 1 k]

/-- Bit b of element k of packed bytes. -/
theorem testBit_pack_byte (f : Nat → Nat) (n i k : Nat) {b : Nat} (hb : b < 8) :
    (pack 8 f n i).testBit (8 * k + b) = (decide (k < n) && (f (i + k)).testBit b) := by
  induction n generalizing i k with
  | zero => simp [pack]
  | succ n ih =>
    rw [pack, Nat.add_comm (f i % _), Nat.testBit_two_pow_mul_add _ (Nat.mod_lt _ (by decide))]
    cases k with
    | zero => simpa [hb] using Nat.testBit_mod_two_pow (f i) 8 b
    | succ k =>
      rw [if_neg (by omega), show 8 * (k + 1) + b - 8 = 8 * k + b by omega, ih, Nat.add_assoc, Nat.add_comm 1 k]
      simp

/-- Byte k of the mask of byte enables is all ones where bit k of them is set, and zero elsewhere. -/
theorem testBit_beMask (be n k : Nat) {b : Nat} (hb : b < 8) :
    (beMask be n).testBit (8 * k + b) = decide (k < n ∧ be / 2 ^ k % 2 = 1) := by
  have hones : Nat.testBit 255 b = true := by simpa [hb] using Nat.testBit_two_pow_sub_one 8 b
  rw [beMask, testBit_pack_byte _ _ _ _ hb]
  split_ifs <;> simp_all

/-! ### One line written under byte enables (R282) -/

/-- The word of a line after the enabled ones of the n bytes of v are put into it from its byte r on. -/
def lineMerge (old r n v be : Nat) : Nat :=
  let m := beMask be n * 2 ^ (8 * r) % 2 ^ 1024
  ((v * 2 ^ (8 * r)) &&& m) ||| (old &&& (2 ^ 1024 - 1 - m))

theorem testBit_complement {m n i : Nat} (hm : m < 2 ^ n) (hi : i < n) : (2 ^ n - 1 - m).testBit i = !m.testBit i := by
  rw [Nat.sub_sub, Nat.add_comm 1, Nat.testBit_two_pow_sub_succ hm, decide_eq_true hi, Bool.true_and]

theorem lineMerge_byte (old r n v be : Nat) {j : Nat} (hj : j < 128) :
    BitVec.ofNat 8 (lineMerge old r n v be / 2 ^ (8 * j)) =
      if r ≤ j ∧ j < r + n ∧ be / 2 ^ (j - r) % 2 = 1 then BitVec.ofNat 8 (v / 2 ^ (8 * (j - r)))
      else BitVec.ofNat 8 (old / 2 ^ (8 * j)) := by
  have hmask {b : Nat} (hb : b < 8) : (beMask be n * 2 ^ (8 * r) % 2 ^ 1024).testBit (8 * j + b) =
      decide (r ≤ j ∧ j < r + n ∧ be / 2 ^ (j - r) % 2 = 1) := by
    rw [Nat.testBit_mod_two_pow, Nat.testBit_mul_two_pow]
    by_cases hr : r ≤ j
    · rw [show 8 * j + b - 8 * r = 8 * (j - r) + b by omega, testBit_beMask _ _ _ hb]
      have hin : 8 * j + b < 1024 := by omega
      have hle : 8 * r ≤ 8 * j + b := by omega
      simp [hin, hle, hr, show j - r < n ↔ j < r + n by omega]
    · simp [hr, show ¬ 8 * r ≤ 8 * j + b by omega]
  refine BitVec.eq_of_getLsbD_eq fun b hb => ?_
  have hin : 8 * j + b < 1024 := by omega
  have hlt : beMask be n * 2 ^ (8 * r) % 2 ^ 1024 < 2 ^ 1024 := Nat.mod_lt _ (pow_pos two_pos _)
  rw [apply_ite (BitVec.getLsbD · b), getLsbD_ofNat_byte, getLsbD_ofNat_byte, getLsbD_ofNat_byte, lineMerge, Nat.testBit_or,
    Nat.testBit_and, Nat.testBit_and, testBit_complement hlt hin, hmask hb, Nat.testBit_mul_two_pow]
  split_ifs with hc
  · have hsub : 8 * j + b - 8 * r = 8 * (j - r) + b := by omega
    simp [hc, hb, hsub, show 8 * r ≤ 8 * j + b by omega]
  · simp [hc]

theorem State.placeWrite_line {p n : Nat} (s : State) (v be : Nat) (hn : 0 < n) (hp : p + n ≤ 2 ^ 40)
    (hl : p / 128 = (p + n - 1) / 128) :
    (s.placeWrite 0 p n v be).mems =
      (mwrite s.mem (128 * (p / 128)) 128 (lineMerge (mread s.mem (128 * (p / 128)) 128) (p % 128) n v be), s.host) := by
  have hone : (p + n + 127) / 128 - p / 128 = 1 := by omega
  have hbase : 128 * (p / 128) < hostBase := by unfold hostBase; omega
  simp only [placeWrite, lineWrite, keys, decide_true, lineOf, Bool.true_or, ↓reduceIte, rawWrite, lineRead,
    rawRead, hone, List.range_one, List.foldl_cons, add_zero, hbase, mul_zero, pow_zero, Nat.div_one, List.foldl_nil,
    mems_mk, lineMerge]

theorem State.ckCopy_upds (s : State) (p : Nat) : (s.ckCopy p).upds = s.upds := by
  unfold ckCopy
  split <;> rfl

theorem State.mergeWhere_mems_of_none {s : State} (h : s.upds = []) (hit : Upd → Bool) :
    (s.mergeWhere hit).mems = s.mems := by
  simp [mergeWhere, h]

/-- Where no element is in update state, the write at a home leaves the memories as its bytes do. -/
theorem State.homeWrite_mems {s : State} (h : s.upds = []) (key p n v be lt : Nat) (stamp : Bool) :
    ∃ t : State, t.mems = s.mems ∧ (s.homeWrite key p n v be lt stamp).mems = (t.placeWrite key p n v be).mems := by
  unfold homeWrite
  extract_lets cleared written marked
  have hcleared : cleared.mems = s.mems ∧ cleared.upds = [] := by
    simp only [cleared]
    split <;> simp [h]
  refine ⟨(cleared.ckCopy p).mergeWhere (Upd.hit p be), ?_, ?_⟩
  · rw [mergeWhere_mems_of_none ((ckCopy_upds ..).trans hcleared.2), ckCopy_mems, hcleared.1]
  · exact (notify_mems ..).trans ((stampLine_mems ..).trans (modLine_mems ..))

/-- Settles O47: the home writes one line whole, and byte j of what it writes is v's where byte enable j − p mod 128 is set
and the line's own elsewhere. -/
theorem homeWriteBytes : Obligations.HomeWriteBytes := by
  intro s p n v be lt stamp hok hu hn hp hl
  obtain ⟨t, ht, hw⟩ := State.homeWrite_mems hu 0 p n v be lt stamp
  obtain ⟨htm, hth⟩ := Prod.mk.inj ht
  obtain ⟨hmem, hhost⟩ := Prod.mk.inj (hw.trans (t.placeWrite_line v be hn hp hl))
  refine ⟨hhost.trans hth, hok.homeWrite .., fun q => ?_⟩
  rw [hmem, htm]
  by_cases hq : 128 * (p / 128) ≤ q ∧ q < 128 * (p / 128) + 128
  · obtain ⟨j, rfl⟩ := Nat.exists_eq_add_of_le hq.1
    have hj : j < 128 := by omega
    have hoff : 128 * (p / 128) + j - p = j - p % 128 := by omega
    rw [mget_mwrite_inside _ _ hok.1 hj, lineMerge_byte _ _ _ _ _ hj, ofNat_mread_byte _ _ _ hj, hoff]
    exact if_congr (by omega) rfl rfl
  · rw [mget_mwrite_outside _ _ hok.1 (by omega), if_neg (by omega)]

end Sys2Proof.Machine
end

section
/-! PROOFS. The state right after power-on reset. -/

namespace Sys2Proof.Machine

/-- No context has been placed right after power-on reset: each is the default (logs 1 and 3). -/
theorem State.reset_ctx (c x : Nat) : State.reset.ctx c x = {} := rfl

theorem State.reset_lqueue (q : Nat) : State.reset.lqueue q = {} := rfl

/-- Settles O7, from the fields that the state right after power-on reset lists and from the default of a context. -/
theorem resetState : Obligations.ResetState := by
  refine ⟨⟨rfl, rfl, rfl, rfl, rfl, rfl, rfl, rfl, fun q _ => ?_, fun c x => ?_, fun c x => ?_⟩, rfl, rfl⟩
  · rw [State.reset_lqueue]
  · rw [State.reset_ctx]
  · rw [State.reset_ctx]
    have hring (h : HReg) : (Vector.replicate 16 ({} : Ring))[h.val].v = false := congrArg Ring.v (Vector.getElem_replicate ..)
    have hbind (b : BReg) : (Vector.replicate 16 ({} : Binding))[b.val].v = false :=
      congrArg Binding.v (Vector.getElem_replicate ..)
    exact ⟨rfl, hring, hbind⟩

end Sys2Proof.Machine
end

section
/-! PROOFS. The step of the model: an event of the agenda is run, and a new clock advances PCYC by one (R25). -/

namespace Sys2Proof.Machine

/-- What every step of a fold keeps, the fold keeps. -/
theorem foldl_keeps {σ α β : Type} (g : σ → β) {f : σ → α → σ} (h : ∀ s a, g (f s a) = g s) (l : List α) (s : σ) :
    g (l.foldl f s) = g s :=
  List.foldlRecOn (motive := fun t => g t = g s) l f rfl fun _ ht a _ => (h _ a).trans ht

@[simp] theorem State.pcyc_ite (c : Prop) [Decidable c] (s t : State) :
    (if c then s else t).pcyc = if c then s.pcyc else t.pcyc := apply_ite ..

@[simp] theorem foldl_pcyc {α : Type} (f : State → α → State) (l : List α) (s : State)
    (h : ∀ t a, (f t a).pcyc = t.pcyc) : (l.foldl f s).pcyc = s.pcyc := foldl_keeps State.pcyc h l s

namespace State
variable (s : State)

/-! ### What keeps the clock -/

@[simp] theorem choose_pcyc (n : Nat) : (s.choose n).2.pcyc = s.pcyc := by rfl
@[simp] theorem now_pcyc (i : Instr) (a : Arg) : (s.now_ i a).pcyc = s.pcyc := by rfl
@[simp] theorem modSp_pcyc (c : Nat) (f : Spad → Spad) : (s.modSp c f).pcyc = s.pcyc := by rfl
@[simp] theorem modFab_pcyc (f : Fabric → Fabric) : (s.modFab f).pcyc = s.pcyc := by rfl
@[simp] theorem modLink_pcyc (n : Nat) (f : Link → Link) : (s.modLink n f).pcyc = s.pcyc := by rfl
@[simp] theorem modColl_pcyc (f : Coll → Coll) : (s.modColl f).pcyc = s.pcyc := by rfl
@[simp] theorem modLine_pcyc (p : Nat) (f : LineInfo → LineInfo) : (s.modLine p f).pcyc = s.pcyc := by rfl
@[simp] theorem modRel_pcyc (id : Nat) (f : RelRun → RelRun) : (s.modRel id f).pcyc = s.pcyc := by rfl
@[simp] theorem toPort_pcyc (p : Packet) : (s.toPort p).pcyc = s.pcyc := by simp [toPort]
@[simp] theorem passBank_pcyc (c l b : Nat) : (s.passBank c l b).pcyc = s.pcyc := by rfl
@[simp] theorem gateBanks_pcyc (c l : Nat) : (s.gateBanks c l).pcyc = s.pcyc := by rfl
@[simp] theorem leaveCore_pcyc (c l : Nat) : (s.leaveCore c l).pcyc = s.pcyc := by simp [leaveCore]

/-! ### Lines that leave the caches (R273, R343) -/

@[simp] theorem ask_pcyc (r : Req) : (s.ask r).pcyc = s.pcyc := by simp [ask, toPeer]

@[simp] theorem writeBack_pcyc (who : Agent) (launch task sendNo : Nat) (e : Lrt) (va data be : Nat) :
    (s.writeBack who launch task sendNo e va data be).pcyc = s.pcyc := by
  unfold writeBack
  split <;> simp [noFill]

@[simp] theorem toSlice_pcyc (c : Nat) (l : CLine) : (s.toSlice c l).pcyc = s.pcyc := by
  simp only [toSlice, fillL2]
  split <;> simp

@[simp] theorem l1ToSlice_pcyc (c : Nat) (p : CLine → Bool) : (s.l1ToSlice c p).pcyc = s.pcyc := by simp [l1ToSlice]

@[simp] theorem writeBackRanges_pcyc (c launch : Nat) (rs : List (Nat × Nat × Nat)) :
    (s.writeBackRanges c launch rs).pcyc = s.pcyc := by simp [writeBackRanges, sliceToHome]

@[simp] theorem evictions_pcyc : s.evictions.pcyc = s.pcyc := by
  simp only [evictions]
  refine (foldl_pcyc _ _ _ fun t c => ?_).trans (foldl_pcyc _ _ _ fun t k => ?_)
  · (repeat' split) <;> simp
  · (repeat' split) <;> simp

/-! ### The slices (R275) -/

theorem enterSlice_pcyc {s t : State} {k id : Nat} (h : s.enterSlice k id = some t) : t.pcyc = s.pcyc := by
  simp only [enterSlice] at h
  split_ifs at h <;> cases h <;> rfl

@[simp] theorem serveSlices_pcyc : s.serveSlices.1.pcyc = s.pcyc :=
  foldl_keeps (fun p : State × List (Instr × Arg) => p.1.pcyc) (fun _ _ => by rfl) _ _

@[simp] theorem arrivals_pcyc (l : List (Instr × Arg)) : (s.arrivals l).1.pcyc = s.pcyc := by
  refine foldl_keeps (fun p : State × List (Instr × Arg) => p.1.pcyc) (fun a e => ?_) _ _
  dsimp only
  split
  · rfl
  · split
    · next h => exact enterSlice_pcyc h
    · rfl

/-! ### Releases and promotions (R343, R348) -/

@[simp] theorem takeLog_pcyc (r : RelRun) : (s.takeLog r).2.pcyc = s.pcyc := by
  simp only [takeLog]
  (repeat' split) <;> rfl

@[simp] theorem seesAcks_pcyc (c x : Nat) (sc : Scope) : (s.seesAcks c x sc).pcyc = s.pcyc := by
  unfold seesAcks
  split <;> rfl

@[simp] theorem stepRel_pcyc (r : RelRun) : (s.stepRel r).pcyc = s.pcyc := by
  have hlog := s.takeLog_pcyc r
  simp only [stepRel]
  (repeat' split) <;> simp_all

@[simp] theorem stepRels_pcyc : s.stepRels.pcyc = s.pcyc := foldl_pcyc _ _ _ fun _ _ => by split <;> simp

@[simp] theorem promoReply_pcyc (p : Promo) (status : Nat) : (s.promoReply p status).pcyc = s.pcyc := by rfl
@[simp] theorem stepPromo_pcyc (c : Nat) : (s.stepPromo c).pcyc = s.pcyc := by simp [stepPromo]

/-! ### The port (R393) and the inbox (R401) -/

@[simp] theorem linkEdge_pcyc (n : Nat) : (s.linkEdge n).pcyc = s.pcyc := by simp [linkEdge]
@[simp] theorem sendOn_pcyc (n : Nat) (p : Packet) : (s.sendOn n p).pcyc = s.pcyc := by simp [sendOn, emit]
@[simp] theorem moveReplay_pcyc (chip n : Nat) : (s.moveReplay chip n).pcyc = s.pcyc := by simp [moveReplay]

@[simp] theorem servePort_pcyc : s.servePort.pcyc = s.pcyc := by
  simp (disch := (intros; (repeat' split) <;> simp)) [servePort]

@[simp] theorem grantInbox_pcyc : s.grantInbox.pcyc = s.pcyc := by
  unfold grantInbox
  split <;> simp

/-! ### The parts of a clock (R25, R150) -/

@[simp] theorem strike_pcyc (u : Upset) : (s.strike u).pcyc = s.pcyc := by
  unfold strike
  split <;> simp

@[simp] theorem strikes_pcyc : s.strikes.pcyc = s.pcyc := by simp [strikes]
@[simp] theorem applyMregs_pcyc (c : Nat) : (s.applyMregs c).pcyc = s.pcyc := by rfl
@[simp] theorem applyPasses_pcyc (c : Nat) : (s.applyPasses c).pcyc = s.pcyc := by rfl
@[simp] theorem tongsReads_pcyc (c : Nat) : (s.tongsReads c).pcyc = s.pcyc := by rfl

@[simp] theorem releaseCore_pcyc (c : Nat) : (s.releaseCore c).pcyc = s.pcyc := by
  refine foldl_pcyc _ _ _ fun t x => ?_
  unfold releaseCtx
  split <;> simp

@[simp] theorem dropSaves_pcyc : s.dropSaves.pcyc = s.pcyc := by simp [dropSaves]

@[simp] theorem periodic_pcyc : s.periodic.1.pcyc = s.pcyc := by
  simp only [periodic]
  split <;> rfl

/-- A new clock advances PCYC by one (R25). -/
theorem tick_pcyc : s.tick.pcyc = s.pcyc + 1 := by
  simp (disch := (intros; simp)) only [tick, arrivals_pcyc, periodic_pcyc, foldl_pcyc, servePort_pcyc, grantInbox_pcyc,
    stepRels_pcyc, dropSaves_pcyc, evictions_pcyc, strikes_pcyc, serveSlices_pcyc]

/-! ### The agenda (log 6) -/

theorem moveNext_event {i : Instr} {a : Arg} {rest : List Task} (h : s.agenda = .ev i a :: rest) :
    s.moveNext = exec i { s with agenda := rest, arg := a } := by
  simp only [moveNext, h, runTask]

theorem moveNext_idle (h : s.agenda = []) : s.moveNext = .next s.tick := by
  simp only [moveNext, h]

end State

/-- Settles O4: the head of the agenda is what `moveNext` runs, and with none left a tick follows, of whose parts only the first
moves PCYC. -/
theorem stepRunsEvent : Obligations.StepRunsEvent :=
  ⟨fun s _ _ _ h => s.moveNext_event h, fun s h => ⟨s.tick, s.moveNext_idle h, s.tick_pcyc⟩⟩

end Sys2Proof.Machine
end

section
/-! PROOFS. Power-on reset: what the management core's boot writes and what it leaves as at reset (R25, R434). -/

namespace Sys2Proof.Machine

/-- What a step establishes for its own element, and the steps of the others keep, holds after the fold for each element of the
list. -/
theorem foldl_reaches {σ α : Type} (Q : α → σ → Prop) {f : σ → α → σ} (hself : ∀ s a, Q a (f s a))
    (hkeep : ∀ s a b, a ≠ b → Q a s → Q a (f s b)) {l : List α} {a : α} (ha : a ∈ l) (s : σ) : Q a (l.foldl f s) := by
  obtain ⟨before, after, rfl⟩ := List.append_of_mem ha
  rw [List.foldl_append, List.foldl_cons]
  refine List.foldlRecOn after f (hself _ _) fun t ht b _ => ?_
  by_cases hab : a = b
  · exact hab ▸ hself t a
  · exact hkeep t a b hab ht

namespace State
variable (s : State)

/-- A part of a die that a change keeps is as before on every die. -/
theorem die_modDie_keeps {β : Type} (g : Die → β) {f : Die → Die} (hf : ∀ k, g (f k) = g k) (d e : Nat) :
    g ((s.modDie d f).die e) = g (s.die e) := by
  by_cases h : e = d
  · subst h
    rw [die_modDie_self, hf]
  · rw [die_modDie_ne _ _ h]

theorem ctx_modCore_keeps {f : Core → Core} (hf : ∀ k, (f k).ctxs = k.ctxs) (n c x : Nat) :
    (s.modCore n f).ctx c x = s.ctx c x := by
  unfold ctx
  by_cases h : c = n
  · subst h
    rw [core_modCore_self, hf]
  · rw [core_modCore_ne _ _ h]

/-! ### The records of boot -/

/-- t is s but for the fault queue and the free choices that were made. -/
def OnlyRecords (s t : State) : Prop := ∃ fq fresh, t = { s with fq := fq, fresh := fresh }

theorem OnlyRecords.refl : s.OnlyRecords s := ⟨_, _, rfl⟩

variable {s} in
theorem OnlyRecords.trans {t u : State} (h : s.OnlyRecords t) (k : t.OnlyRecords u) : s.OnlyRecords u := by
  obtain ⟨_, _, rfl⟩ := h
  obtain ⟨_, _, rfl⟩ := k
  exact ⟨_, _, rfl⟩

theorem OnlyRecords.foldl {α : Type} {f : State → α → State} (h : ∀ (t : State) (a : α), t.OnlyRecords (f t a)) (l : List α) :
    s.OnlyRecords (l.foldl f s) :=
  List.foldlRecOn (motive := s.OnlyRecords) l f (.refl s) fun _ ht a _ => ht.trans (h _ a)

theorem choose_onlyRecords (n : Nat) : s.OnlyRecords (s.choose n).2 := ⟨_, _, rfl⟩

theorem post_onlyRecords (r : Rec) : s.OnlyRecords (s.post r) := by
  unfold post
  split_ifs <;> exact ⟨_, _, rfl⟩

theorem bootRecord_onlyRecords (die clus core : Nat) : s.OnlyRecords (s.bootRecord die clus core) :=
  .trans (t := { s with fresh := s.fresh + 3 }) ⟨_, _, rfl⟩ (post_onlyRecords _ _)

/-- A failure that the tests may have found is recorded or not. -/
theorem bootFound_onlyRecords (all : Bool) (die clus core : Nat) :
    s.OnlyRecords (
      let (c, s) := if all then (0, s) else s.choose 2
      if c = 0 then s.bootRecord die clus core else s) := by
  cases all with
  | true => exact s.bootRecord_onlyRecords ..
  | false =>
    change s.OnlyRecords (if (s.choose 2).1 = 0 then (s.choose 2).2.bootRecord die clus core else (s.choose 2).2)
    split_ifs
    · exact (s.choose_onlyRecords 2).trans (bootRecord_onlyRecords ..)
    · exact s.choose_onlyRecords 2

theorem bootFailures_onlyRecords (all : Bool) (d : Nat) : s.OnlyRecords (s.bootFailures all d) :=
  (OnlyRecords.foldl _ (fun t _ => t.bootFound_onlyRecords all ..) _).trans
    (OnlyRecords.foldl _ (fun t _ => t.bootFound_onlyRecords all ..) _)

theorem allFailures_onlyRecords (all : Bool) : s.OnlyRecords (allDies.foldl (bootFailures · all) s) :=
  .foldl s (fun t d => t.bootFailures_onlyRecords all d) _

/-! ### Each step of boot (R434) -/

theorem bootStep_one : s.bootStep 1 = s := rfl
theorem bootStep_two : s.bootStep 2 = allDies.foldl (bootFailures · true) s := rfl
theorem bootStep_three : s.bootStep 3 = allDies.foldl bootDie s := rfl

theorem bootStep_four : s.bootStep 4 = { s with
    mg := { s.mg with chip := BitVec.ofNat 18 s.mg.factory.chip },
    fab := { s.fab with route := s.mg.factory.route.map fun e => (e.1, BitVec.ofNat 32 (e.2.toNat % 2 ^ 14)) } } := rfl

theorem bootStep_five : s.bootStep 5 =
    (List.range 9).foldl (fun (t : State) d => t.modDie d fun k => { k with htbase := tget s.mg.factory.htbase d 0 })
      { s with mg := { s.mg with keys := s.mg.factory.keys.filter fun k => 1 ≤ k.1 && k.1 < 64 } } := rfl

theorem bootStep_six : s.bootStep 6 = s := rfl
theorem bootStep_seven : s.bootStep 7 = allDies.foldl bootBudget s := rfl
theorem bootStep_eight : s.bootStep 8 = { s with mg := { s.mg with caps := capList } } := rfl
theorem bootStep_nine : s.bootStep 9 = { s with mg := { s.mg with ready := true } } := rfl

/-! ### What boot leaves as at reset -/

/-- t is s but for what boot may write: records, the cores with their contexts left out, the dies, the fabric and the management
core's registers. -/
def BootKeeps (s t : State) : Prop :=
  (∃ fresh cores dies fq fab mg, t = { s with fresh := fresh, cores := cores, dies := dies, fq := fq, fab := fab, mg := mg })
    ∧ ∀ c x, t.ctx c x = s.ctx c x

theorem BootKeeps.refl : s.BootKeeps s := ⟨⟨_, _, _, _, _, _, rfl⟩, fun _ _ => rfl⟩

variable {s} in
theorem BootKeeps.trans {t u : State} (h : s.BootKeeps t) (k : t.BootKeeps u) : s.BootKeeps u := by
  obtain ⟨⟨_, _, _, _, _, _, rfl⟩, hctx⟩ := h
  obtain ⟨⟨_, _, _, _, _, _, rfl⟩, kctx⟩ := k
  exact ⟨⟨_, _, _, _, _, _, rfl⟩, fun c x => (kctx c x).trans (hctx c x)⟩

theorem BootKeeps.foldl {α : Type} {f : State → α → State} (h : ∀ (t : State) (a : α), t.BootKeeps (f t a)) (l : List α) :
    s.BootKeeps (l.foldl f s) :=
  List.foldlRecOn (motive := s.BootKeeps) l f (.refl s) fun _ ht a _ => ht.trans (h _ a)

variable {s} in
theorem OnlyRecords.bootKeeps {t : State} (h : s.OnlyRecords t) : s.BootKeeps t := by
  obtain ⟨_, _, rfl⟩ := h
  exact ⟨⟨_, _, _, _, _, _, rfl⟩, fun _ _ => rfl⟩

theorem modDie_bootKeeps (d : Nat) (f : Die → Die) : s.BootKeeps (s.modDie d f) :=
  ⟨⟨_, _, _, _, _, _, rfl⟩, fun _ _ => rfl⟩

theorem slotmap_bootKeeps (n : Nat) (m : BitVec 5) : s.BootKeeps (s.modCore n fun k => { k with slotmap := m }) :=
  ⟨⟨_, _, _, _, _, _, rfl⟩, fun c x => s.ctx_modCore_keeps (by exact fun _ => rfl) n c x⟩

theorem bootDie_bootKeeps (d : Nat) : s.BootKeeps (s.bootDie d) := by
  refine (modDie_bootKeeps ..).trans (.foldl _ (fun t n => ?_) _)
  split_ifs
  · exact t.slotmap_bootKeeps ..
  · exact .refl t

theorem regs_bootKeeps (fab : Fabric) (mg : Mgmt) : s.BootKeeps { s with fab := fab, mg := mg } :=
  ⟨⟨_, _, _, _, _, _, rfl⟩, fun _ _ => rfl⟩

/-- No step of boot places a task, or touches what the package held at reset (R434). -/
theorem bootStep_bootKeeps (n : Nat) : s.BootKeeps (s.bootStep n) := by
  unfold bootStep
  split
  case h_1 => exact (s.allFailures_onlyRecords true).bootKeeps
  case h_2 => exact .foldl s bootDie_bootKeeps _
  case h_4 => exact .trans (s.regs_bootKeeps _ _) (.foldl _ (fun t d => t.modDie_bootKeeps ..) _)
  case h_5 => exact .foldl s (fun t d => t.modDie_bootKeeps ..) _
  case h_8 => exact .refl s
  all_goals exact s.regs_bootKeeps _ _

/-! ### The steps of boot in turn -/

/-- Steps 1 to n of boot. -/
def bootSteps (n : Nat) : State := (List.range n).foldl (fun (s : State) k => s.bootStep (k + 1)) s

theorem bootSteps_bootKeeps (n : Nat) : s.BootKeeps (s.bootSteps n) := .foldl s (fun t _ => t.bootStep_bootKeeps _) _

/-- All of boot; of steps 1 and 6 the model holds nothing (R434). -/
theorem bootSteps_nine : s.bootSteps 9 =
    ((((((s.bootStep 2).bootStep 3).bootStep 4).bootStep 5).bootStep 7).bootStep 8).bootStep 9 := by
  simp only [bootSteps, List.range_succ, List.range_zero, List.nil_append, List.cons_append, List.foldl_cons, List.foldl_nil,
    Nat.reduceAdd, bootStep_one, bootStep_six]

/-! ### The management core's registers and the route table (R392, R432, R434) -/

theorem bootDie_keeps {β : Type} (g : State → β) (hd : ∀ t d f, g (modDie t d f) = g t) (hc : ∀ t c f, g (modCore t c f) = g t)
    (d : Nat) : g (s.bootDie d) = g s := by
  refine (foldl_keeps g (fun t n => ?_) _ _).trans (hd _ _ _)
  split_ifs
  · exact hc _ _ _
  · rfl

/-- The steps that write neither. -/
theorem bootStep_keeps_regs {n : Nat} (h : n = 2 ∨ n = 3 ∨ n = 7) : (s.bootStep n).fab = s.fab ∧ (s.bootStep n).mg = s.mg := by
  obtain rfl | rfl | rfl := h
  · rw [bootStep_two]
    obtain ⟨_, _, h2⟩ := s.allFailures_onlyRecords true
    rw [h2]
    exact ⟨rfl, rfl⟩
  · rw [bootStep_three]
    exact ⟨foldl_keeps State.fab (fun t d => t.bootDie_keeps _ (fun _ _ _ => rfl) (fun _ _ _ => rfl) d) _ _,
      foldl_keeps State.mg (fun t d => t.bootDie_keeps _ (fun _ _ _ => rfl) (fun _ _ _ => rfl) d) _ _⟩
  · rw [bootStep_seven]
    exact ⟨foldl_keeps State.fab (fun _ _ => by rfl) _ _, foldl_keeps State.mg (fun _ _ => by rfl) _ _⟩

theorem bootStep_five_regs : (s.bootStep 5).fab = s.fab ∧
    (s.bootStep 5).mg = { s.mg with keys := s.mg.factory.keys.filter fun k => 1 ≤ k.1 && k.1 < 64 } := by
  rw [bootStep_five]
  exact ⟨foldl_keeps State.fab (fun _ _ => by rfl) _ _, foldl_keeps State.mg (fun _ _ => by rfl) _ _⟩

/-- What boot makes of the route table and of the management core's registers. -/
theorem bootSteps_nine_regs :
    (s.bootSteps 9).fab.route = s.mg.factory.route.map (fun e => (e.1, BitVec.ofNat 32 (e.2.toNat % 2 ^ 14)))
      ∧ (s.bootSteps 9).mg = { s.mg with
          chip := BitVec.ofNat 18 s.mg.factory.chip, keys := s.mg.factory.keys.filter (fun k => 1 ≤ k.1 && k.1 < 64),
          caps := capList, ready := true } := by
  have keeps {n : Nat} (t : State) (h : n = 2 ∨ n = 3 ∨ n = 7) := t.bootStep_keeps_regs h
  simp [bootSteps_nine, bootStep_nine, bootStep_eight, keeps, bootStep_five_regs, bootStep_four]

/-! ### Dies (R24, R277, R433) -/

theorem bootDie_die (d : Nat) :
    ∃ f : Die → Die, (∀ k, (f k).dfail = false) ∧ ∀ e, (s.bootDie d).die e = (s.modDie d f).die e := by
  refine ⟨_, ?_, fun e => foldl_keeps (State.die · e) (fun t n => ?_) _ _⟩
  · exact fun _ => rfl
  · split_ifs <;> rfl

theorem bootStep_three_dfail {d : Nat} (hd : d < 8) : ((s.bootStep 3).die d).dfail = false := by
  refine foldl_reaches (fun d t => (State.die t d).dfail = false) (fun t a => ?_) (fun t a b hab ht => ?_) (List.mem_range.2 hd) s
  · obtain ⟨f, hf, hdie⟩ := t.bootDie_die a
    rw [hdie, die_modDie_self, hf]
  · obtain ⟨f, -, hdie⟩ := t.bootDie_die b
    rw [hdie, die_modDie_ne _ _ hab, ht]

theorem bootStep_five_htbase {d : Nat} (hd : d < 9) : ((s.bootStep 5).die d).htbase = tget s.mg.factory.htbase d 0 := by
  refine foldl_reaches (fun d t => (State.die t d).htbase = tget s.mg.factory.htbase d 0) (fun t a => ?_)
    (fun t a b hab ht => ?_) (List.mem_range.2 hd) _
  · rw [die_modDie_self]
  · rw [die_modDie_ne _ _ hab, ht]

theorem bootStep_five_dfail (d : Nat) : ((s.bootStep 5).die d).dfail = (s.die d).dfail := by
  rw [bootStep_five]
  exact foldl_keeps (fun t => (State.die t d).dfail) (fun t e => t.die_modDie_keeps (·.dfail) (fun _ => by rfl) e d) _ _

theorem bootStep_seven_bud {d : Nat} (hd : d < 8) : ((s.bootStep 7).die d).bud = s.mg.factory.budget := by
  rw [← (s.bootStep_keeps_regs (n := 7) (by simp)).2]
  refine foldl_reaches (f := bootBudget) (fun d t => (State.die t d).bud = t.mg.factory.budget) (fun t a => ?_)
    (fun t a b hab ht => ?_) (List.mem_range.2 hd) s
  · rw [bootBudget, die_modDie_self, modDie_mg]
  · rw [bootBudget, die_modDie_ne _ _ hab, modDie_mg, ht]

/-- Step 7 changes of a die only its budget and its throttle temperature. -/
theorem bootStep_seven_keeps {β : Type} (g : Die → β) (hg : ∀ k b t, g { k with bud := b, tlim := t } = g k) (d : Nat) :
    g ((s.bootStep 7).die d) = g (s.die d) :=
  foldl_keeps (fun t => g (State.die t d)) (fun t e => t.die_modDie_keeps g (fun _ => hg ..) e d) _ _

/-- Steps 4, 8 and 9 write registers of the management core and the route table. -/
theorem bootStep_keeps_die {n : Nat} (h : n = 4 ∨ n = 8 ∨ n = 9) (d : Nat) : (s.bootStep n).die d = s.die d := by
  obtain rfl | rfl | rfl := h <;> rfl

theorem bootSteps_four_factory :
    (((s.bootStep 2).bootStep 3).bootStep 4).mg.factory = s.mg.factory := by
  change ((s.bootStep 2).bootStep 3).mg.factory = s.mg.factory
  rw [(bootStep_keeps_regs _ (n := 3) (by simp)).2, (s.bootStep_keeps_regs (n := 2) (by simp)).2]

theorem bootSteps_nine_die (d : Nat) :
    (s.bootSteps 9).die d = (((((s.bootStep 2).bootStep 3).bootStep 4).bootStep 5).bootStep 7).die d := by
  rw [bootSteps_nine, bootStep_keeps_die _ (by simp), bootStep_keeps_die _ (by simp)]

theorem bootSteps_nine_htbase {d : Nat} (hd : d < 9) : ((s.bootSteps 9).die d).htbase = tget s.mg.factory.htbase d 0 := by
  rw [bootSteps_nine_die, bootStep_seven_keeps _ Die.htbase (fun _ _ _ => rfl), bootStep_five_htbase _ hd, bootSteps_four_factory]

theorem bootSteps_nine_bud {d : Nat} (hd : d < 8) : ((s.bootSteps 9).die d).bud = s.mg.factory.budget := by
  rw [bootSteps_nine_die, bootStep_seven_bud _ hd, (bootStep_five_regs _).2, bootSteps_four_factory]

theorem bootSteps_nine_dfail {d : Nat} (hd : d < 8) : ((s.bootSteps 9).die d).dfail = false := by
  rw [bootSteps_nine_die, bootStep_seven_keeps _ Die.dfail (fun _ _ _ => rfl), bootStep_five_dfail,
    bootStep_keeps_die _ (by simp), bootStep_three_dfail _ hd]

/-! ### A boot that ends early (R434) -/

theorem bootStep_ready {n : Nat} (h : n ≠ 9) : (s.bootStep n).mg.ready = s.mg.ready := by
  unfold bootStep
  split
  case h_1 => exact congrArg Mgmt.ready (s.bootStep_keeps_regs (n := 2) (by simp)).2
  case h_2 => exact congrArg Mgmt.ready (s.bootStep_keeps_regs (n := 3) (by simp)).2
  case h_4 =>
    change (s.bootStep 5).mg.ready = _
    rw [s.bootStep_five_regs.2]
  case h_5 => exact congrArg Mgmt.ready (s.bootStep_keeps_regs (n := 7) (by simp)).2
  case h_7 => exact absurd rfl h
  all_goals rfl

theorem bootSteps_ready {n : Nat} (h : n < 9) : (s.bootSteps n).mg.ready = s.mg.ready :=
  List.foldlRecOn (motive := fun t : State => t.mg.ready = s.mg.ready) _ _ rfl fun t ht k hk =>
    (t.bootStep_ready (by have := List.mem_range.1 hk; omega)).trans ht

/-- The package as power-on reset leaves it, before the first step of boot. -/
def atPowerOn : State :=
  { State.reset with agenda := [], fresh := s.fresh, inputs := s.inputs, upsets := s.upsets, mg := { factory := s.mg.factory } }

/-- Boot ended in step n for the reason w, with the failures that the tests of step 2 may have found and a record. -/
def bootEnded (n w : Nat) : State :=
  let s : State := { s with mg := { s.mg with fail := true, step := n, why_ := w } }
  let s := if n = 2 then allDies.foldl (bootFailures · false) s else s
  if 2 ≤ n then s.bootRecord 0 0 0 else s

theorem bootEnded_mg (n w : Nat) : (s.bootEnded n w).mg = { s.mg with fail := true, step := n, why_ := w } := by
  unfold bootEnded
  extract_lets _ t u
  have hu : t.OnlyRecords u := by
    unfold u
    split_ifs
    · exact t.allFailures_onlyRecords false
    · exact .refl t
  have hend : t.OnlyRecords (if 2 ≤ n then u.bootRecord 0 0 0 else u) := by
    split_ifs
    · exact hu.trans (u.bootRecord_onlyRecords ..)
    · exact hu
  obtain ⟨_, _, h⟩ := hend
  rw [h]

end State

variable {s : State}

theorem exec_packagePowerOnReset_boots (h : s.mg.factory.fail = none) :
    exec .packagePowerOnReset s = .next (s.atPowerOn.bootSteps 9) := by
  change execPackagePowerOnReset s = _
  simp only [execPackagePowerOnReset, h]
  rfl

theorem exec_packagePowerOnReset_fails {n w : Nat} (h : s.mg.factory.fail = some (n, w)) :
    exec .packagePowerOnReset s = .next ((s.atPowerOn.bootSteps (n - 1)).bootEnded n w) := by
  change execPackagePowerOnReset s = _
  simp only [execPackagePowerOnReset, h]
  rfl

theorem powerOnReset_boots (h : s.mg.factory.fail = none) :
    ∃ t, exec .packagePowerOnReset s = .next t ∧ t.pcyc = 0 ∧ t.mem = [] ∧ t.host = [] ∧ t.mg.ready = true
      ∧ t.mg.fail = false ∧ t.dist = {} ∧ t.reqs = [] ∧ (∀ c x, t.ctx c x = {})
      ∧ tget t.mg.caps 0x200 0#64 = 0x020202010001#64
      ∧ t.fab.route = s.mg.factory.route.map (fun e => (e.1, BitVec.ofNat 32 (e.2.toNat % 2 ^ 14)))
      ∧ t.mg.keys = s.mg.factory.keys.filter (fun k => 1 ≤ k.1 && k.1 < 64)
      ∧ (∀ d < 9, (t.die d).htbase = tget s.mg.factory.htbase d 0)
      ∧ ∀ d < 8, (t.die d).bud = s.mg.factory.budget ∧ (t.die d).dfail = false := by
  obtain ⟨⟨_, _, _, _, _, _, hkept⟩, hctx⟩ := s.atPowerOn.bootSteps_bootKeeps 9
  obtain ⟨hroute, hmg⟩ := s.atPowerOn.bootSteps_nine_regs
  refine ⟨_, exec_packagePowerOnReset_boots h, ?_, ?_, ?_, ?_, ?_, ?_, ?_, hctx, ?_, hroute, ?_,
    fun d hd => State.bootSteps_nine_htbase _ hd, fun d hd => ⟨State.bootSteps_nine_bud _ hd, State.bootSteps_nine_dfail _ hd⟩⟩
  · rw [hkept]; rfl
  · rw [hkept]; rfl
  · rw [hkept]; rfl
  · rw [hmg]
  · rw [hmg]; rfl
  · rw [hkept]; rfl
  · rw [hkept]; rfl
  · rw [hmg]; rfl
  · rw [hmg]; rfl

theorem powerOnReset_fails (n w : Nat) (h : s.mg.factory.fail = some (n, w)) (hn : n ≤ 9) :
    ∃ t, exec .packagePowerOnReset s = .next t ∧ t.mg.ready = false ∧ t.mg.fail = true ∧ t.mg.step = n ∧ t.mg.why_ = w := by
  refine ⟨_, exec_packagePowerOnReset_fails h, ?_, ?_, ?_, ?_⟩ <;> rw [State.bootEnded_mg]
  exact State.bootSteps_ready _ (by omega)

end Sys2Proof.Machine
end

section
/-! PROOFS. What the host and the management core write: launch queues and completion rings (R67, R68, R72, R429), the cancel set
(R77), resolves (R412), invalidations (R279), link receive queues and registers (R397, R432). -/

namespace Sys2Proof.Machine

@[simp] theorem State.lqueue_modLq_self (s : State) (q : Nat) (f : LQueue → LQueue) : (s.modLq q f).lqueue q = f (s.lqueue q) :=
  tget_tset_self ..

@[simp] theorem State.lrq_modLrq_self (s : State) (q : Nat) (f : LRQ → LRQ) : (s.modLrq q f).lrq q = f (s.lrq q) :=
  tget_tset_self ..

variable {s : State}

/-! ### Launch queues (R67, R68, R72) -/

/-- LQCFG takes the size and enables a queue only with an allowed one. -/
theorem launchQueueEnable_writes (hq : s.arg.n < 32) (hr : s.mg.ready = true) (he : (s.lqueue s.arg.n).en = false) :
    ∃ t, exec .launchQueueEnable s = .next t ∧
      (t.lqueue s.arg.n).en = (bit s.arg.v 0 && 4 ≤ fld s.arg.v 2 4 && fld s.arg.v 2 4 ≤ 12)
      ∧ (t.lqueue s.arg.n).dev = bit s.arg.v 1 ∧ (t.lqueue s.arg.n).lg = fld s.arg.v 2 4
      ∧ (t.lqueue s.arg.n).base = fld s.arg.v 12 52 * 4096
      ∧ ((t.lqueue s.arg.n).en = true → (t.lqueue s.arg.n).head = 0#32 ∧ (t.lqueue s.arg.n).tail = 0#32) := by
  refine ⟨_, show execLaunchQueueEnable s = _ from if_neg (by simp [hq, hr, he]), ?_⟩
  rw [State.lqueue_modLq_self]
  split_ifs with hon <;> simp [hon]

theorem launchQueueEnable_enables (hq : s.arg.n < 32) (hr : s.mg.ready = true) (he : (s.lqueue s.arg.n).en = false)
    (hv : bit s.arg.v 0 = true) (h4 : 4 ≤ fld s.arg.v 2 4) (h12 : fld s.arg.v 2 4 ≤ 12) :
    ∃ t, exec .launchQueueEnable s = .next t ∧ (t.lqueue s.arg.n).en = true ∧ (t.lqueue s.arg.n).dev = bit s.arg.v 1
      ∧ (t.lqueue s.arg.n).lg = fld s.arg.v 2 4 ∧ (t.lqueue s.arg.n).base = fld s.arg.v 12 52 * 4096
      ∧ (t.lqueue s.arg.n).head = 0#32 ∧ (t.lqueue s.arg.n).tail = 0#32 := by
  obtain ⟨t, ht, hen, hdev, hlg, hbase, hzero⟩ := launchQueueEnable_writes hq hr he
  have hon : (t.lqueue s.arg.n).en = true := by simp [hen, hv, h4, h12]
  exact ⟨t, ht, hon, hdev, hlg, hbase, hzero hon⟩

theorem launchQueueEnable_refuses_size (hq : s.arg.n < 32) (hr : s.mg.ready = true) (he : (s.lqueue s.arg.n).en = false)
    (hlg : fld s.arg.v 2 4 < 4 ∨ 12 < fld s.arg.v 2 4) :
    ∃ t, exec .launchQueueEnable s = .next t ∧ (t.lqueue s.arg.n).en = false := by
  obtain ⟨t, ht, hen, -⟩ := launchQueueEnable_writes hq hr he
  refine ⟨t, ht, ?_⟩
  rw [hen]
  simp only [Bool.and_eq_false_iff, decide_eq_false_iff_not]
  omega

theorem launchQueueEnable_before_boot (hr : s.mg.ready = false) : exec .launchQueueEnable s = .next s := by
  change execLaunchQueueEnable s = _
  simp [execLaunchQueueEnable, hr]

theorem launchQueueDisable_stops (hq : s.arg.n < 32) (hr : s.mg.ready = true) :
    ∃ t, exec .launchQueueDisable s = .next t ∧ (t.lqueue s.arg.n).en = false
      ∧ (t.lqueue s.arg.n).head = (s.lqueue s.arg.n).head ∧ (t.lqueue s.arg.n).tail = (s.lqueue s.arg.n).tail := by
  refine ⟨_, show execLaunchQueueDisable s = _ from if_neg (by simp [hq, hr]), ?_⟩
  rw [State.lqueue_modLq_self]
  exact ⟨rfl, rfl, rfl⟩

theorem launchQueueNotify_moves_tail (hq : s.arg.n < 32) (he : (s.lqueue s.arg.n).en = true) (hd : (s.lqueue s.arg.n).dev = false)
    (hh : (BitVec.ofNat 32 s.arg.v - (s.lqueue s.arg.n).head).toNat ≤ 2 ^ (s.lqueue s.arg.n).lg)
    (ht : (BitVec.ofNat 32 s.arg.v - (s.lqueue s.arg.n).tail).toNat ≤ 2 ^ (s.lqueue s.arg.n).lg) :
    exec .launchQueueNotify s =
      .next (s.modLq s.arg.n (fun u => { u with tail := BitVec.ofNat 32 s.arg.v, stale := false })) := by
  change execLaunchQueueNotify s = _
  simp only [execLaunchQueueNotify, he, hd]
  rw [if_neg (by simpa using hq), if_neg (by simpa using And.intro hh ht)]

theorem launchQueueNotify_overruns (hq : s.arg.n < 32) (he : (s.lqueue s.arg.n).en = true) (hd : (s.lqueue s.arg.n).dev = false)
    (h : 2 ^ (s.lqueue s.arg.n).lg < (BitVec.ofNat 32 s.arg.v - (s.lqueue s.arg.n).head).toNat
      ∨ 2 ^ (s.lqueue s.arg.n).lg < (BitVec.ofNat 32 s.arg.v - (s.lqueue s.arg.n).tail).toNat) :
    exec .launchQueueNotify s =
      .next ((s.modLq s.arg.n (fun u => { u with ovr := true })).post { cls := 5, cause := 0, sub := 2, info := s.arg.n }) := by
  change execLaunchQueueNotify s = _
  simp only [execLaunchQueueNotify, he, hd]
  rw [if_neg (by simpa using hq), if_pos (by simpa using h)]

/-! ### Completion rings (R429) and the cancel set (R77) -/

@[simp] theorem State.lqueue_now (s : State) (i : Instr) (a : Arg) (q : Nat) : (s.now_ i a).lqueue q = s.lqueue q := rfl

theorem completionRingEnable_enables (hq : s.arg.n < 32) (hv : bit s.arg.v 0 = true) (h4 : 4 ≤ fld s.arg.v 1 4)
    (h12 : fld s.arg.v 1 4 ≤ 12) :
    ∃ t, exec .completionRingEnable s = .next t ∧ (t.lqueue s.arg.n).cren = true ∧ (t.lqueue s.arg.n).crlg = fld s.arg.v 1 4
      ∧ (t.lqueue s.arg.n).crbase = fld s.arg.v 12 52 * 4096 := by
  refine ⟨_, show execCompletionRingEnable s = _ from if_neg (Nat.not_le.2 hq), ?_⟩
  dsimp only
  split_ifs <;> simp [hv, h4, h12]

theorem lqcanclr_clears (h : s.dist.cancelWait = []) :
    ∃ t, exec .lqcanclr s = .next t ∧ t.dist.cancel = s.dist.cancel.filter (· != s.arg.v % 2 ^ 32) :=
  ⟨_, rfl, by simp [h]⟩

/-! ### Resolves (R412) -/

/-- What is asked again are requests: no core and no record changes. -/
theorem State.pinsAgain_true (s : State) (c x : Nat) : (s.pinsAgain c x true).cores = s.cores ∧ (s.pinsAgain c x true).fq = s.fq :=
  ⟨foldl_keeps State.cores (fun _ _ => by rfl) _ _, foldl_keeps State.fq (fun _ _ => by rfl) _ _⟩

/-- Record q no longer waits for its resolve. -/
def State.resolved (s : State) (q : Nat) : State := { s with fq := { s.fq with waits := s.fq.waits.filter fun w => w.1 != q } }

theorem State.resolved_waits (s : State) (q : Nat) : ∀ w ∈ (s.resolved q).fq.waits, w.1 ≠ q := fun w hw => by
  simpa using (List.mem_filter.1 hw).2

/-- A resolve of code 0 or 1 that a context waits for. -/
theorem fqres_of_context {c x : Nat}
    (hw : s.fq.waits.find? (fun w => w.1 = s.arg.n % 2 ^ 32) = some (s.arg.n % 2 ^ 32, c, x, none))
    (hy : (s.ctx c x).why = .resolve (s.arg.n % 2 ^ 32) false) (hm : s.arg.m % 4 < 2) :
    exec .fqres s = .next (
      if s.arg.m % 4 = 0 then
        State.pinsAgain ((s.resolved (s.arg.n % 2 ^ 32)).modCtx c x
          (fun k => { k with status := .ready, why := .none, boundary := false })) c x true
      else
        State.pinsAgain ((s.resolved (s.arg.n % 2 ^ 32)).programError c x { cause := 0x12, sub := 3 } (s.ctx c x).r.pc.toNat)
          c x false) := by
  have hk : (s.resolved (s.arg.n % 2 ^ 32)).ctx c x = s.ctx c x := rfl
  have heng : (Why.resolve (s.arg.n % 2 ^ 32) false = .resolve (s.arg.n % 2 ^ 32) true) = False := by simp
  unfold State.resolved at hk ⊢
  change execFqres s = _
  simp only [execFqres, hw, if_neg (Nat.not_le.2 hm), hk, hy, heng, bne_self_eq_false, Bool.and_false, decide_false,
    Bool.false_eq_true, if_false, -Nat.reducePow]
  split_ifs <;> rfl

theorem fqres_runs_again {c x : Nat}
    (hw : s.fq.waits.find? (fun w => w.1 = s.arg.n % 2 ^ 32) = some (s.arg.n % 2 ^ 32, c, x, none))
    (hy : (s.ctx c x).why = .resolve (s.arg.n % 2 ^ 32) false) (hm : s.arg.m % 4 = 0) :
    ∃ t, exec .fqres s = .next t ∧ (t.ctx c x).status = .ready ∧ (t.ctx c x).r = (s.ctx c x).r
      ∧ ∀ w ∈ t.fq.waits, w.1 ≠ s.arg.n % 2 ^ 32 := by
  have hrun := fqres_of_context hw hy (by omega)
  rw [if_pos hm] at hrun
  refine ⟨_, hrun, ?_⟩
  generalize hu : (s.resolved (s.arg.n % 2 ^ 32)).modCtx c x
    (fun k => { k with status := .ready, why := .none, boundary := false }) = u
  obtain ⟨hcores, hfq⟩ := u.pinsAgain_true c x
  have hctx : (u.pinsAgain c x true).ctx c x = u.ctx c x := by simp only [State.ctx, State.core, hcores]
  rw [hctx, hfq, ← hu, State.ctx_modCtx_self]
  exact ⟨rfl, rfl, s.resolved_waits _⟩

theorem fqres_raises {c x : Nat}
    (hw : s.fq.waits.find? (fun w => w.1 = s.arg.n % 2 ^ 32) = some (s.arg.n % 2 ^ 32, c, x, none))
    (hy : (s.ctx c x).why = .resolve (s.arg.n % 2 ^ 32) false) (hm : s.arg.m % 4 = 1) :
    ∃ u : State, exec .fqres s = .next
        (State.pinsAgain (u.programError c x { cause := 0x12, sub := 3 } (s.ctx c x).r.pc.toNat) c x false)
      ∧ u = { s with fq := { s.fq with waits := s.fq.waits.filter (fun w => w.1 != s.arg.n % 2 ^ 32) } } := by
  have hrun := fqres_of_context hw hy (by omega)
  rw [if_neg (by omega)] at hrun
  exact ⟨_, hrun, rfl⟩

theorem fqres_other_code {c x : Nat} {who : Option Nat}
    (hw : s.fq.waits.find? (fun w => w.1 = s.arg.n % 2 ^ 32) = some (s.arg.n % 2 ^ 32, c, x, who)) (hm : 2 ≤ s.arg.m % 4) :
    exec .fqres s = .next s := by
  change execFqres s = _
  simp only [execFqres, hw, if_pos hm, -Nat.reducePow]

theorem fqres_unknown (hw : s.fq.waits.find? (fun w => w.1 = s.arg.n % 2 ^ 32) = none) : exec .fqres s = .next s := by
  change execFqres s = _
  simp only [execFqres, hw, -Nat.reducePow]

/-! ### Invalidations (R279) -/

theorem htinv_begins (hd : s.arg.n < 9) :
    ∃ t, exec .htinv s = .next t ∧ (t.die s.arg.n).htDone = false
      ∧ (∃ ws, (t.die s.arg.n).htBusy = some ws ∧ ∀ w, w ∈ ws ↔ w ∈ (s.die s.arg.n).walkers)
      ∧ ((s.die s.arg.n).htBusy ≠ none →
          ((s.die s.arg.n).htAsid, (s.die s.arg.n).htAll, (s.die s.arg.n).htPage) ∈ (t.die s.arg.n).htOpen)
      ∧ (bit s.arg.v 16 = true → ∀ e ∈ (t.die s.arg.n).tc, e.1 ≠ fld s.arg.v 0 16)
      ∧ ∀ w ∈ (t.die s.arg.n).wc, w.1 ≠ fld s.arg.v 0 16 := by
  refine ⟨_, show execHtinv s = _ from if_neg (Nat.not_le.2 hd), ?_⟩
  rw [State.die_modDie_self]
  refine ⟨rfl, ⟨_, rfl, fun w => ?_⟩, fun hb => ?_, fun hv e he => ?_, fun w hw => ?_⟩
  · simp only [List.mem_append, List.mem_filter, List.contains_iff_mem]
    tauto
  · simp [Option.isSome_iff_ne_none.2 hb]
  · simpa [State.invCovers, hv] using (List.mem_filter.1 he).2
  · simpa using (List.mem_filter.1 hw).2

theorem htinvComplete_due (h : s.invDue s.arg.n = true) :
    ∃ t, exec .htinvComplete s = .next t ∧ (t.die s.arg.n).htDone = true ∧ (t.die s.arg.n).htBusy = none
      ∧ (t.die s.arg.n).htOpen = [] := by
  refine ⟨_, show execHtinvComplete s = _ from if_pos h, ?_⟩
  rw [State.die_modDie_self]
  exact ⟨rfl, rfl, rfl⟩

theorem htinvComplete_not_due (h : s.invDue s.arg.n = false) : exec .htinvComplete s = .next s := by
  change execHtinvComplete s = _
  simp [execHtinvComplete, h]

/-! ### Link receive queues (R397) and registers (R432) -/

theorem lrqClose_empties (he : (s.lrq s.arg.n).en = true) (hr : (s.lrq s.arg.n).room = []) :
    ∃ t, exec .lrqClose s = .next t ∧ (t.lrq s.arg.n).en = false ∧ (t.lrq s.arg.n).msgs = [] := by
  refine ⟨_, show execLrqClose s = _ from if_neg (by simp [he]), ?_⟩
  rw [hr, List.foldl_nil, State.lrq_modLrq_self]
  exact ⟨rfl, rfl⟩

theorem lrqClose_closed (he : (s.lrq s.arg.n).en = false) : exec .lrqClose s = .next s := by
  change execLrqClose s = _
  simp [execLrqClose, he]

theorem registerWrite_htbase (d : Nat) (hr : s.arg.reg = some (.htbase d)) (hd : d < 9) :
    ∃ t, exec .registerWrite s = .next t ∧ (t.die d).htbase = s.arg.v % 2 ^ 64 := by
  refine ⟨_, show execRegisterWrite s = _ by simp only [execRegisterWrite, hr, if_pos hd]; rfl, ?_⟩
  rw [State.die_modDie_self]

theorem registerWrite_bellows (d : Nat) (hr : s.arg.reg = some (.bellows d)) (hd : d < 8) :
    ∃ t, exec .registerWrite s = .next t ∧ (t.die d).bud = fld s.arg.v 0 16 ∧ (t.die d).tlim = fld s.arg.v 16 8 := by
  have hregrant (u : State) : (u.regrant d).die d = u.die d := rfl
  refine ⟨_, show execRegisterWrite s = _ by simp only [execRegisterWrite, hr, if_pos hd]; rfl, ?_⟩
  rw [hregrant, State.die_modDie_self]
  exact ⟨rfl, rfl⟩

theorem registerWrite_keySlot (n : Nat) (a b : BitVec 256) (hr : s.arg.reg = some (.keySlot n a b)) (h1 : 1 ≤ n) (h64 : n < 64) :
    ∃ t, exec .registerWrite s = .next t ∧ tget t.mg.keys n (0#256, 0#256) = (a, b) := by
  have hn : (decide (1 ≤ n) && decide (n < 64)) = true := by simp [h1, h64]
  exact ⟨_, show execRegisterWrite s = _ by simp only [execRegisterWrite, hr, if_pos hn]; rfl, tget_tset_self ..⟩

theorem registerWrite_slotmap (c : Nat) (hr : s.arg.reg = some (.slotmap c)) :
    ∃ t, exec .registerWrite s = .next t ∧ (t.core c).slotmap = BitVec.ofNat 5 s.arg.v := by
  refine ⟨_, show execRegisterWrite s = _ by simp only [execRegisterWrite, hr]; rfl, ?_⟩
  rw [State.core_modCore_self]

theorem registerWrite_freeFrame (d : Nat) (hr : s.arg.reg = some (.freeFrame d)) (hd : d < 8) :
    ∃ t, exec .registerWrite s = .next t ∧ (t.die d).frames = (s.die d).frames ++ [s.arg.v / 4096 * 4096] := by
  refine ⟨_, show execRegisterWrite s = _ by simp only [execRegisterWrite, hr, if_pos hd]; rfl, ?_⟩
  rw [State.die_modDie_self]

/-! ### All of it -/

/-- Settles O57: boot, from what each of its steps writes and leaves; every other clause, from what the one write does. -/
theorem managementWrites : Obligations.ManagementWrites := fun _ =>
  ⟨powerOnReset_boots, powerOnReset_fails, launchQueueEnable_enables, launchQueueEnable_refuses_size,
    fun _ => launchQueueEnable_before_boot, launchQueueDisable_stops, launchQueueNotify_moves_tail, launchQueueNotify_overruns,
    completionRingEnable_enables, rfl, lqcanclr_clears,
    fun _ _ hw hy => ⟨fqres_runs_again hw hy, fqres_raises hw hy, fqres_other_code hw⟩, fqres_unknown,
    htinv_begins, htinvComplete_due, htinvComplete_not_due, lrqClose_empties, lrqClose_closed,
    registerWrite_htbase, registerWrite_bellows, registerWrite_keySlot, registerWrite_slotmap, registerWrite_freeFrame⟩

end Sys2Proof.Machine
end

section
/-! PROOFS. Barriers: what an arrival leaves as it is, and what BIND, UNBIND and the barrier instructions do (R41, R372 to R377). -/

namespace Sys2Proof.Machine

variable (s : State)

/-! ### What barriers write (R375) -/

/-- t is s but for the barriers, the numbers given out and what moves next. -/
def State.OnlyBars (s t : State) : Prop := ∃ nextId bars agenda, t = { s with nextId := nextId, bars := bars, agenda := agenda }

theorem State.OnlyBars.refl : s.OnlyBars s := ⟨_, _, _, rfl⟩

variable {s} in
theorem State.OnlyBars.trans {t u : State} (h : s.OnlyBars t) (k : t.OnlyBars u) : s.OnlyBars u := by
  obtain ⟨_, _, _, rfl⟩ := h
  obtain ⟨_, _, _, rfl⟩ := k
  exact ⟨_, _, _, rfl⟩

theorem State.OnlyBars.foldl {α : Type} {f : State → α → State} (h : ∀ (t : State) (a : α), t.OnlyBars (f t a)) (l : List α) :
    s.OnlyBars (l.foldl f s) :=
  List.foldlRecOn (motive := s.OnlyBars) l f (.refl s) fun _ ht a _ => ht.trans (h _ a)

variable {s} in
theorem State.OnlyBars.modCx {t : State} (h : s.OnlyBars t) (f : Ctx → Ctx) : (s.modCx f).OnlyBars (t.modCx f) := by
  obtain ⟨_, _, _, rfl⟩ := h
  exact ⟨_, _, _, rfl⟩

theorem State.barrier_onlyBars (c x k : Nat) : s.OnlyBars (s.barrier c x k).1 := by
  simp only [State.barrier]
  split
  · exact .refl s
  · exact ⟨_, _, _, rfl⟩

theorem State.modBar_onlyBars (id : Nat) (f : Barrier → Barrier) : s.OnlyBars (s.modBar id f) := ⟨_, _, _, rfl⟩

theorem State.checkBar_onlyBars (id : Nat) : s.OnlyBars (s.checkBar id) := by
  unfold State.checkBar
  split
  · split_ifs
    · exact ⟨_, _, _, rfl⟩
    · exact .refl s
  · exact .refl s

/-! ### The arrival (R376) -/

/-- Logical time raised is written in the core's own words: no context changes (R338). -/
theorem State.raiseLt_ctx (c x v d y : Nat) : (s.raiseLt c x v).ctx d y = s.ctx d y :=
  s.ctx_modCore_keeps (fun _ => by split <;> rfl) c d y

theorem State.seesAcks_ctx (c x : Nat) (sc : Scope) (d y : Nat) : (s.seesAcks c x sc).ctx d y = s.ctx d y := by
  unfold State.seesAcks
  split
  case h_3 => exact s.raiseLt_ctx ..
  all_goals rfl

theorem State.seesAcks_cores (c x : Nat) (sc : Scope) : ∃ cores, s.seesAcks c x sc = { s with cores := cores } := by
  unfold State.seesAcks
  split <;> exact ⟨_, rfl⟩

/-- The context counts its arrival at level k. -/
def Ctx.countArrival (k : Fin 7) (t : Ctx) : Ctx := { t with arr := t.arr.set k.val (t.arr[k.val] + 1#32) }

/-- The issuing core as its arrival sees it: the acknowledgements of the barrier's scope, and one more arrival. -/
def State.counted (k : Fin 7) : State :=
  (s.seesAcks s.iss.core s.iss.ctx (s.cl.barScope k.val)).modCx (Ctx.countArrival k)

theorem State.counted_onlyBars_arrive (k : Fin 7) : (s.counted k).OnlyBars (s.arrive k) :=
  ((State.barrier_onlyBars ..).modCx _).trans ((State.modBar_onlyBars ..).trans (State.checkBar_onlyBars ..))

/-- But for cores, barriers, numbers and the agenda an arrival leaves the package as it is. -/
theorem State.arrive_frame (k : Fin 7) : (s.arrive k).iss = s.iss ∧ (s.arrive k).dist = s.dist := by
  obtain ⟨_, hsees⟩ := s.seesAcks_cores s.iss.core s.iss.ctx (s.cl.barScope k.val)
  obtain ⟨_, _, _, harrive⟩ := s.counted_onlyBars_arrive k
  rw [harrive, State.counted, hsees]
  exact ⟨rfl, rfl⟩

theorem State.arrive_cx (k : Fin 7) : (s.arrive k).cx = s.cx.countArrival k := by
  obtain ⟨_, hsees⟩ := s.seesAcks_cores s.iss.core s.iss.ctx (s.cl.barScope k.val)
  obtain ⟨_, _, _, harrive⟩ := s.counted_onlyBars_arrive k
  have hcx : (s.arrive k).cx = (s.counted k).cx := by rw [harrive]; rfl
  have hseen : (s.seesAcks s.iss.core s.iss.ctx (s.cl.barScope k.val)).cx = s.cx := by
    rw [State.cx, show (s.seesAcks s.iss.core s.iss.ctx (s.cl.barScope k.val)).iss = s.iss by rw [hsees], State.seesAcks_ctx]
    rfl
  rw [hcx, State.counted, State.cx_modCx, hseen]

theorem State.arrive_counts (k : Fin 7) : (s.arrive k).cx.arr[k.val] = s.cx.arr[k.val] + 1#32 := by
  simp [State.arrive_cx, Ctx.countArrival]

/-! ### BIND and UNBIND (R41, R372, R373) -/

theorem bindOk_iff (l : Launch) (sync base limit : Nat) :
    bindOk l sync base limit = true ↔ sync % 16 = 0 ∧ base % 128 = 0 ∧ limit % 128 = 0 ∧ base < limit
      ∧ (∃ e ∈ l.lrt, e.v = true ∧ e.coh = 1 ∧ e.base ≤ base ∧ limit ≤ e.limit)
      ∧ (∃ e ∈ l.lrt, e.v = true ∧ e.wr = true ∧ e.coh ≠ 2 ∧ e.base ≤ sync ∧ sync + 16 ≤ e.limit) := by
  simp [bindOk, and_assoc]

variable {s}

theorem bind_binds {n : BReg} {a b c : SReg} (h : bindOk s.cl (s.rs a).toNat (s.rs b).toNat (s.rs c).toNat = true) :
    Does s (.bind n a b c) (s.effect (.bind n { sync := s.rs a, base := s.rs b, limit := s.rs c, v := true })) := fun hi => by
  change execBind n a b c s = _
  rw [execBind, h]
  exact perform_acts s hi

theorem bind_traps {n : BReg} {a b c : SReg} (h : bindOk s.cl (s.rs a).toNat (s.rs b).toNat (s.rs c).toNat = false) :
    Traps s (.bind n a b c) { cause := 0x11, sub := 2, addr := (s.rs a).toNat } := fun ht => by
  change execBind n a b c s = _
  rw [execBind, h]
  exact perform_trap s ht

theorem unbind_clears (n : BReg) : Does s (.unbind n) (s.effect (.bind n {})) := fun hi => by
  change execUnbind n s = _
  exact perform_acts s hi

/-! ### The waits of a barrier (R376) -/

variable {k : Fin 7}

theorem barCheck_named (h : bit s.cl.barlv k.val = true) : s.barCheck k = none := by
  rw [State.barCheck, h, need_true]

theorem barCheck_unnamed (h : bit s.cl.barlv k.val = false) :
    s.barCheck k = some { cause := 0x11, sub := 3, addr := k.val } := by
  rw [State.barCheck, h, need_false, usageTrap]

theorem baraWait_go (hd : s.drained = true) (hb : (s.barrier s.iss.core s.iss.ctx k.val).2.done = s.cx.arr[k.val])
    (hr : s.waitRelease (s.cl.barScope k.val) = .go) : s.baraWait k = .go := by
  simp [State.baraWait, State.waitDrain, hd, Ctx.arrOf, hb, hr]

theorem baraWait_hold (hd : s.drained = true) (hb : (s.barrier s.iss.core s.iss.ctx k.val).2.done ≠ s.cx.arr[k.val]) :
    s.baraWait k = .hold := by
  simp [State.baraWait, State.waitDrain, hd, Ctx.arrOf, hb, Wait.and]

theorem barwWait_go (h : (s.cx.arr[k.val]).toNat ≤ (s.barrier s.iss.core s.iss.ctx k.val).2.done.toNat) : s.barwWait k = .go := by
  simp [State.barwWait, Ctx.arrOf, BitVec.ult, Nat.not_lt.2 h]

theorem barwWait_hold (h : (s.barrier s.iss.core s.iss.ctx k.val).2.done.toNat < (s.cx.arr[k.val]).toNat) : s.barwWait k = .hold := by
  simp [State.barwWait, Ctx.arrOf, BitVec.ult, h]

/-! ### BARA, BARW and BAR with a level that the launch's barriers name or not (R376, R377) -/

theorem barrier_traps {i : Instr} {w : Wait} {act : State → State} (he : exec i s = perform i (s.barCheck k) w act s)
    (hn : bit s.cl.barlv k.val = false) : Traps s i { cause := 0x11, sub := 3, addr := k.val } := fun ht => by
  rw [he, barCheck_unnamed hn]
  exact perform_trap s ht

theorem barrier_does {i : Instr} {w : Wait} {act : State → State} (he : exec i s = perform i (s.barCheck k) w act s)
    (hn : bit s.cl.barlv k.val = true) (hw : w = .go) : Does s i (act s) := fun hi => by
  rw [he, barCheck_named hn, hw]
  exact perform_acts s hi

theorem barrier_holds {i : Instr} {w : Wait} {act : State → State} (he : exec i s = perform i (s.barCheck k) w act s)
    (hn : bit s.cl.barlv k.val = true) (hw : w = .hold) : Holds s i := fun ht => by
  rw [he, barCheck_named hn, hw]
  exact perform_hold s ht

theorem exec_bara (k : Fin 7) : exec (.bara k) s = perform (.bara k) (s.barCheck k) (s.baraWait k) (fun s => s.arrive k) s := rfl

theorem exec_barw (k : Fin 7) : exec (.barw k) s = perform (.barw k) (s.barCheck k) (s.barwWait k) (fun s => s.barAcquire k) s := rfl

/-- On a level that no barrier names BAR signals no arrival. -/
theorem exec_bar_unnamed (hn : bit s.cl.barlv k.val = false) : exec (.bar k) s =
    perform (.bar k) (s.barCheck k) (if s.cx.barOn then s.barwWait k else s.baraWait k) (fun s => s.barAcquire k) s := by
  change execBar k s = _
  simp [execBar, barCheck_unnamed hn]

/-- Once its arrival has been signalled, BAR waits as BARW does. -/
theorem exec_bar_signalled (hon : s.cx.barOn = true) :
    exec (.bar k) s = perform (.bar k) (s.barCheck k) (s.barwWait k) (fun s => s.barAcquire k) s := by
  change execBar k s = _
  simp [execBar, hon]

/-! ### The arrival of BAR (R377) -/

/-- The arrival of BAR: it has been signalled. -/
def State.signal (s : State) (k : Fin 7) : State := (s.arrive k).modCx (fun t => { t with barOn := true })

theorem State.signal_iss (s : State) (k : Fin 7) : (s.signal k).iss = s.iss := (s.arrive_frame k).1

theorem State.signal_cx (s : State) (k : Fin 7) : (s.signal k).cx = { s.cx.countArrival k with barOn := true } := by
  rw [State.signal, State.cx_modCx, s.arrive_cx]

/-- The levels that barriers name stand in the header, not in a core's table. -/
theorem State.launchOn_barlv (s : State) (c id : Nat) : (s.launchOn c id).barlv = (s.launch id).barlv := by
  unfold State.launchOn
  split <;> rfl

theorem State.cl_signal_barlv (s : State) (k : Fin 7) : (s.signal k).cl.barlv = s.cl.barlv := by
  have hdist : (s.signal k).dist = s.dist := (s.arrive_frame k).2
  have hlaunch (id : Nat) : (s.signal k).launch id = s.launch id := by rw [State.launch, State.launch?, hdist]; rfl
  rw [State.cl, State.cl, State.launchOn_barlv, State.launchOn_barlv, hlaunch, State.signal_cx]
  rfl

/-- What an arrival writes makes no register pending. -/
theorem State.Tried.signal {i : Instr} (ht : s.Tried i) (k : Fin 7) : (s.signal k).Tried i := by
  have hstalled : (s.signal k).stalled i = s.stalled i := by
    rw [State.stalled, State.signal_iss, State.signal_cx]
    rfl
  rw [State.Tried, State.signal_iss, hstalled]
  exact ht

theorem bar_signals (hn : bit s.cl.barlv k.val = true) (hoff : s.cx.barOn = false) (hstop : s.iss.stop = none)
    (hw : s.baraWait k = .go) (ht : s.Tried (.bar k)) : exec (.bar k) s = .next (s.signal k).hold := by
  have hnow : (!s.iss.go && !s.cx.barOn && s.iss.stop = none && (s.barCheck k).isNone && s.baraWait k = .go) = true := by
    simp [ht.1, hoff, hstop, barCheck_named hn, hw]
  have hon : (s.signal k).cx.barOn = true := by rw [State.signal_cx]
  have hcheck : (s.signal k).barCheck k = none := barCheck_named (by rw [State.cl_signal_barlv, hn])
  change execBar k s = _
  unfold State.signal at hon hcheck ⊢
  simp only [execBar, hnow, if_true, hon, hcheck]
  exact perform_hold _ (ht.signal k)

/-! ### All of it -/

/-- Settles O38: BIND by its check, the barrier instructions by the wait that each of them makes and by what an arrival leaves. -/
theorem bindingsAndBarriers : Obligations.BindingsAndBarriers := by
  refine ⟨fun s n a b c => ?_, fun s k => ?_⟩
  · intro sync base limit ok
    have hok : bindOk s.cl sync base limit = true ↔ ok := bindOk_iff ..
    exact ⟨fun h => bind_binds (hok.2 h), fun h => bind_traps (Bool.eq_false_iff.2 (mt hok.1 h)), unbind_clears n⟩
  · exact ⟨fun hn => ⟨barrier_traps (exec_bara k) hn, barrier_traps (exec_barw k) hn, barrier_traps (exec_bar_unnamed hn) hn⟩,
      fun hn hd hb hr => barrier_does (exec_bara k) hn (baraWait_go hd hb hr),
      fun hn hd hb => barrier_holds (exec_bara k) hn (baraWait_hold hd hb),
      fun hn hle => barrier_does (exec_barw k) hn (barwWait_go hle),
      fun hn hlt => barrier_holds (exec_barw k) hn (barwWait_hold hlt),
      fun hn hon hle => barrier_does (exec_bar_signalled hon) hn (barwWait_go hle),
      fun hn hon hlt => barrier_holds (exec_bar_signalled hon) hn (barwWait_hold hlt), bar_signals, s.arrive_counts k⟩

end Sys2Proof.Machine
end

section
/-! PROOFS. Launch queues: entries written by tasks, the stamp check of the head entry, service, and completion records (R69 to
R75, R384, R429, R430). -/

namespace Sys2Proof.Machine

variable (s : State)

/-! ### What these operations leave alone -/

theorem State.post_dist (r : Rec) : (s.post r).dist = s.dist := by
  obtain ⟨_, _, h⟩ := s.post_onlyRecords r
  rw [h]

theorem State.ckCopy_dist (p : Nat) : (s.ckCopy p).dist = s.dist := by
  unfold State.ckCopy
  split <;> rfl

theorem State.rawWrite_dist (p n v : Nat) : (s.rawWrite p n v).dist = s.dist := by
  unfold State.rawWrite
  split_ifs <;> rfl

/-- A dated step of route 0 waits for no other. -/
theorem State.sched_route_zero (due : Nat) (i : Instr) (a : Arg) :
    s.sched_ due 0 i a = { s with sched := s.sched ++ [⟨due, 0, i, a⟩] } := by
  have hdue : s.sched.foldl (fun d e => if (0 != 0 && e.route = 0) = true then max d e.due else d) due = due :=
    foldl_keeps id (fun _ _ => rfl) _ _
  rw [State.sched_, hdue]

@[simp] theorem State.lqueue_sched (due route : Nat) (i : Instr) (a : Arg) (q : Nat) :
    (s.sched_ due route i a).lqueue q = s.lqueue q := rfl

/-- A part of a launch queue that a change keeps is as before in every queue. -/
theorem State.lqueue_modLq_keeps {β : Type} (g : LQueue → β) {f : LQueue → LQueue} (hf : ∀ u, g (f u) = g u) (q n : Nat) :
    g ((s.modLq q f).lqueue n) = g (s.lqueue n) := by
  by_cases h : n = q
  · subst h
    rw [State.lqueue_modLq_self, hf]
  · exact congrArg g (tget_tset_ne _ _ _ h)

/-! ### Entries written by tasks (R69, R73, R384) -/

/-- An entry of 256 B with its stamp put in. -/
def stamped (v : Nat) (n : Word32) : Nat := v - fld v 1920 32 * 2 ^ 1920 + n.toNat * 2 ^ 1920

theorem State.lqEnter_lqueue (q v : Nat) : (s.lqEnter q v).lqueue q = { s.lqueue q with tail := (s.lqueue q).tail + 1#32 } := by
  have hlq (p : Nat) : ((s.ckCopy p).rawWrite p 256 (stamped v ((s.lqueue q).tail + 1#32))).lqueue q = s.lqueue q := by
    rw [State.lqueue, State.rawWrite_dist, State.ckCopy_dist, ← State.lqueue]
  exact (State.lqueue_modLq_self _ q _).trans (by rw [← stamped, hlq])

theorem State.lqEnter_mem {q : Nat} (v : Nat) (hp : s.lqSlot q < hostBase) :
    (s.lqEnter q v).mem = mwrite s.mem (s.lqSlot q) 256 (stamped v ((s.lqueue q).tail + 1#32)) := by
  have hck : (s.ckCopy (s.lqSlot q)).mem = s.mem := congrArg Prod.fst (s.ckCopy_mems _)
  have hwrite : (s.lqEnter q v).mem =
      ((s.ckCopy (s.lqSlot q)).rawWrite (s.lqSlot q) 256 (stamped v ((s.lqueue q).tail + 1#32))).mem := rfl
  rw [hwrite, State.rawWrite, if_pos hp, hck]

/-- A drained entry has left: it is dropped, and its reservation is given up (R73). -/
def State.entryGone (e : LEntry) : State :=
  State.modLq { s with dist := { s.dist with lentries := s.dist.lentries.filter (fun f => f.id != e.id) } } e.q
    (fun u => { u with reserved := u.reserved - 1 })

theorem State.entryGone_lqueue (e : LEntry) :
    (s.entryGone e).lqueue e.q = { s.lqueue e.q with reserved := (s.lqueue e.q).reserved - 1 } := State.lqueue_modLq_self ..

theorem State.entryGone_mem (e : LEntry) : (s.entryGone e).mem = s.mem := rfl

theorem State.entryGone_lentries (e : LEntry) : ∀ f ∈ (s.entryGone e).dist.lentries, f.id ≠ e.id := fun _ hf => by
  simpa using (List.mem_filter.1 hf).2

/-- The report on an entry that its queue no longer takes (R384). -/
def State.refusedEntry (e : LEntry) : Rec :=
  { s.recOf e.core e.ctx { cls := 5, cause := 0, sub := 5, slot := 6, info := e.q } with gin := (s.launch e.launch).gin }

/-- The 256 B of a drained entry. -/
def LEntry.value (e : LEntry) : Nat := pack 512 (fun i => (e.parts.getD i 0#512).toNat) 4 0

variable {s}

theorem deviceLaunchWrite_of_entry {e : LEntry} (hf : s.dist.lentries.find? (fun e => e.id = s.arg.id) = some e)
    (hp : e.parts.length = 4) (hd : s.performedOf e.core e.ctx e.task e.sn .pkg = true) :
    exec .deviceLaunchWrite s =
      if !(s.lqueue e.q).en || !(s.lqueue e.q).dev then .next ((s.post (s.refusedEntry e)).entryGone e)
      else if Config.ppaLimit ≤ s.lqSlot e.q then .fault (.noMemory (s.lqSlot e.q))
      else if s.ckStuck (s.lqSlot e.q) 256 then .next s
      else .next ((s.lqEnter e.q e.value).entryGone e) := by
  change execDeviceLaunchWrite s = _
  simp only [execDeviceLaunchWrite, hf, hp, hd]
  rfl

section
variable {e : LEntry} (hf : s.dist.lentries.find? (fun e => e.id = s.arg.id) = some e)
  (hp : e.parts.length = 4) (hd : s.performedOf e.core e.ctx e.task e.sn .pkg = true)
include hf hp hd

theorem deviceLaunchWrite_enters (hen : (s.lqueue e.q).en = true) (hdev : (s.lqueue e.q).dev = true)
    (hlt : s.lqSlot e.q < 2 ^ 40) (hck : s.ckStuck (s.lqSlot e.q) 256 = false) :
    ∃ t, exec .deviceLaunchWrite s = .next t ∧ (t.lqueue e.q).tail = (s.lqueue e.q).tail + 1#32
      ∧ (t.lqueue e.q).reserved = (s.lqueue e.q).reserved - 1 ∧ (∀ f ∈ t.dist.lentries, f.id ≠ e.id)
      ∧ t.mem = mwrite s.mem (s.lqSlot e.q) 256 (stamped e.value ((s.lqueue e.q).tail + 1#32)) := by
  have hfits : ¬ Config.ppaLimit ≤ s.lqSlot e.q := Nat.not_le.2 hlt
  have hplace : s.lqSlot e.q < hostBase := hlt.trans (by norm_num [hostBase])
  refine ⟨(s.lqEnter e.q e.value).entryGone e, ?_, ?_⟩
  · rw [deviceLaunchWrite_of_entry hf hp hd, hen, hdev, if_neg (by decide), if_neg hfits, if_neg (by simp [hck])]
  · rw [State.entryGone_lqueue, State.lqEnter_lqueue]
    exact ⟨rfl, rfl, State.entryGone_lentries _ e, (State.entryGone_mem _ e).trans (s.lqEnter_mem _ hplace)⟩

theorem deviceLaunchWrite_waits (hen : (s.lqueue e.q).en = true) (hdev : (s.lqueue e.q).dev = true)
    (hlt : s.lqSlot e.q < 2 ^ 40) (hck : s.ckStuck (s.lqSlot e.q) 256 = true) : exec .deviceLaunchWrite s = .next s := by
  have hfits : ¬ Config.ppaLimit ≤ s.lqSlot e.q := Nat.not_le.2 hlt
  rw [deviceLaunchWrite_of_entry hf hp hd, hen, hdev, if_neg (by decide), if_neg hfits, if_pos hck]

theorem deviceLaunchWrite_faults (hen : (s.lqueue e.q).en = true) (hdev : (s.lqueue e.q).dev = true)
    (hle : 2 ^ 40 ≤ s.lqSlot e.q) : exec .deviceLaunchWrite s = .fault (.noMemory (s.lqSlot e.q)) := by
  have hpast : Config.ppaLimit ≤ s.lqSlot e.q := hle
  rw [deviceLaunchWrite_of_entry hf hp hd, hen, hdev, if_neg (by decide), if_pos hpast]

theorem deviceLaunchWrite_refuses (hoff : (s.lqueue e.q).en = false ∨ (s.lqueue e.q).dev = false) :
    ∃ t, exec .deviceLaunchWrite s = .next t ∧ t.mem = s.mem ∧ (t.lqueue e.q).tail = (s.lqueue e.q).tail
      ∧ (t.lqueue e.q).reserved = (s.lqueue e.q).reserved - 1 := by
  have hlq : (s.post (s.refusedEntry e)).lqueue e.q = s.lqueue e.q := by rw [State.lqueue, State.post_dist]; rfl
  have hmem : (s.post (s.refusedEntry e)).mem = s.mem := congrArg Prod.fst (s.post_mems _)
  refine ⟨(s.post (s.refusedEntry e)).entryGone e, ?_, (State.entryGone_mem _ e).trans hmem, ?_⟩
  · rw [deviceLaunchWrite_of_entry hf hp hd, if_pos (by simpa using hoff)]
  · rw [State.entryGone_lqueue, hlq]
    exact ⟨rfl, rfl⟩

end

/-! ### The head entry (R72) -/

/-- The head entry is there: its slot names memory and holds the stamp that is due (R72, R267). -/
theorem State.stampOk_iff (s : State) (q v : Nat) :
    s.stampOk q v = true ↔ s.headSlot q + 256 ≤ 2 ^ 40 ∧ fld v 1920 32 = ((s.lqueue q).head + 1#32).toNat := by
  simp only [State.stampOk, Bool.and_eq_true, decide_eq_true_eq]
  rfl

/-- What a read of the head entry finds. -/
def State.headEntry (s : State) (q : Nat) : Nat := mread s.mem (s.headSlot q) 256

theorem queueHeadFetch_takes (hd : s.fetchDue s.arg.n = true) (hg : s.stampOk s.arg.n (s.headEntry s.arg.n) = true) :
    ∃ t, exec .queueHeadFetch s = .next t ∧ (t.lqueue s.arg.n).ready = some (BitVec.ofNat 2048 (s.headEntry s.arg.n)) := by
  refine ⟨_, (if_neg (by simp [hd])).trans (if_pos hg), ?_⟩
  rw [State.lqueue_modLq_self]
  rfl

theorem queueHeadFetch_reads_again (hd : s.fetchDue s.arg.n = true) (hg : s.stampOk s.arg.n (s.headEntry s.arg.n) = false) :
    ∃ t, exec .queueHeadFetch s = .next t ∧ (t.lqueue s.arg.n).busy = true ∧ (t.lqueue s.arg.n).ready = (s.lqueue s.arg.n).ready
      ∧ ∃ e ∈ t.sched, e.ev = .queueHeadReread ∧ e.due = s.pcyc + 1200 ∧ e.arg.n = s.arg.n := by
  refine ⟨_, (if_neg (by simp [hd])).trans (if_neg (by simpa [State.headEntry] using hg)), ?_⟩
  rw [State.lqueue_sched, State.lqueue_modLq_self, State.sched_route_zero]
  exact ⟨rfl, rfl, _, List.mem_append_right _ (List.mem_singleton_self _), rfl, rfl, rfl⟩

section
variable (hen : (s.lqueue s.arg.n).en = true) (hbusy : (s.lqueue s.arg.n).busy = true)
include hen hbusy

theorem queueHeadReread_takes (hg : s.stampOk s.arg.n (s.headEntry s.arg.n) = true) :
    ∃ t, exec .queueHeadReread s = .next t ∧ (t.lqueue s.arg.n).busy = false
      ∧ (t.lqueue s.arg.n).ready = some (BitVec.ofNat 2048 (s.headEntry s.arg.n)) := by
  refine ⟨_, (if_neg (by simp [hen, hbusy])).trans (if_pos hg), ?_⟩
  rw [State.lqueue_modLq_self]
  exact ⟨rfl, rfl⟩

theorem queueHeadReread_reads_again (hg : s.stampOk s.arg.n (s.headEntry s.arg.n) = false) (hr : (s.lqueue s.arg.n).rereads < 15) :
    ∃ t, exec .queueHeadReread s = .next t ∧ (t.lqueue s.arg.n).busy = true
      ∧ (t.lqueue s.arg.n).rereads = (s.lqueue s.arg.n).rereads + 1 := by
  have hstamp : ¬ s.stampOk s.arg.n (s.headEntry s.arg.n) = true := by simp [hg]
  refine ⟨_, (if_neg (by simp [hen, hbusy])).trans ((if_neg hstamp).trans (if_neg (Nat.not_le.2 hr))), ?_⟩
  rw [State.lqueue_sched, State.lqueue_modLq_self]
  exact ⟨hbusy, rfl⟩

theorem queueHeadReread_stale (hg : s.stampOk s.arg.n (s.headEntry s.arg.n) = false) (hr : 15 ≤ (s.lqueue s.arg.n).rereads) :
    ∃ t, exec .queueHeadReread s = .next t ∧ (t.lqueue s.arg.n).stale = true ∧ (t.lqueue s.arg.n).busy = false
      ∧ t.dist.irqs = s.dist.irqs ++ [32] := by
  have hstamp : ¬ s.stampOk s.arg.n (s.headEntry s.arg.n) = true := by simp [hg]
  refine ⟨_, (if_neg (by simp [hen, hbusy])).trans ((if_neg hstamp).trans (if_pos hr)), ?_⟩
  rw [State.lqueue_modLq_self]
  exact ⟨rfl, rfl, congrArg (fun d : Dist => d.irqs ++ [32]) (s.post_dist _)⟩

end

/-! ### Service (R74) -/

theorem State.finishLaunch_head (s : State) (l : Launch) (st rej q : Nat) :
    ((s.finishLaunch l st rej).lqueue q).head = (s.lqueue q).head := by
  unfold State.finishLaunch
  rw [State.lqueue_now]
  exact State.lqueue_modLq_keeps _ (·.head) (by exact fun _ => rfl) l.q q

/-- Whatever becomes of it, an entry that is popped leaves its queue. -/
theorem State.pop_head (s : State) (p q : Nat) (v : BitVec 2048) : ((s.pop p q v).lqueue q).head = (s.lqueue q).head + 1#32 := by
  unfold State.pop
  extract_lets dist counted popped bare unlisted launch pre rec_ cancelled code noted
  have hpopped : (popped.lqueue q).head = (s.lqueue q).head + 1#32 := congrArg LQueue.head (State.lqueue_modLq_self ..)
  have hnoted : (noted.lqueue q).head = (s.lqueue q).head + 1#32 := hpopped
  split_ifs
  · exact (State.finishLaunch_head ..).trans hnoted
  · exact (State.finishLaunch_head ..).trans hnoted
  · exact hnoted

theorem launchQueueService_stalls (h : s.setFwait.popStalled = true) : exec .launchQueueService s = .next s.setFwait := if_pos h

theorem launchQueueService_pops {p n : Nat} {w : BitVec 2048} (h : s.setFwait.popStalled = false)
    (hn : s.setFwait.serveNext = some (p, n)) (hw : (s.setFwait.lqueue n).ready = some w) :
    exec .launchQueueService s = .next (s.setFwait.pop p n w) := by
  change execLaunchQueueService s = _
  simp only [execLaunchQueueService, h, hn, hw, Bool.false_eq_true, if_false]

/-! ### Completion records (R429, R430) -/

/-- What is left to do once the oldest record of a queue is made: the launch's follow record is done, and a next record follows. -/
def State.recordMade (s : State) (q l : Nat) (last : Bool) : State :=
  if last then s.followDone l else (s.followDone l).now_ .completionRecordWrite { n := q }

theorem State.recordMade_frame (s : State) (q l : Nat) (last : Bool) :
    (s.recordMade q l last).mem = s.mem ∧ (s.recordMade q l last).host = s.host
      ∧ (s.recordMade q l last).dist.irqs = s.dist.irqs ∧ (s.recordMade q l last).lqueue q = s.lqueue q := by
  unfold State.recordMade
  split_ifs <;> exact ⟨rfl, rfl, rfl, rfl⟩

/-- The place in host memory that the next record of a queue takes (R429). -/
def State.recordAt (s : State) (q : Nat) : Nat :=
  ((s.lqueue q).crbase + 32 * ((s.lqueue q).crtail.toNat % 2 ^ (s.lqueue q).crlg)) % 2 ^ 64

/-- The oldest record of a queue is written to its ring, and `rest` wait behind it. -/
def State.recordPut (s : State) (q : Nat) (w : BitVec 256) (rest : List (Nat × Nat × BitVec 256)) : State :=
  ((s.modLq q (fun u => { u with crwait := rest })).rawWrite (hostBase + s.recordAt q) 32 w.toNat).modLq q
    (fun u => { u with crtail := u.crtail + 1#32 })

theorem State.recordPut_lqueue (s : State) (q : Nat) (w : BitVec 256) (rest : List (Nat × Nat × BitVec 256)) :
    (s.recordPut q w rest).lqueue q = { s.lqueue q with crwait := rest, crtail := (s.lqueue q).crtail + 1#32 } := by
  rw [State.recordPut, State.lqueue_modLq_self, State.lqueue, State.rawWrite_dist, ← State.lqueue, State.lqueue_modLq_self]

theorem State.recordPut_irqs (s : State) (q : Nat) (w : BitVec 256) (rest : List (Nat × Nat × BitVec 256)) :
    (s.recordPut q w rest).dist.irqs = s.dist.irqs := by
  change (State.rawWrite ..).dist.irqs = _
  rw [State.rawWrite_dist]
  rfl

theorem State.rawWrite_host (s : State) (p n v : Nat) :
    s.rawWrite (hostBase + p) n v = { s with host := mwrite s.host p n v } := by
  rw [State.rawWrite, if_neg (Nat.not_lt.2 (Nat.le_add_right ..)), Nat.add_sub_cancel_left]

/-- A record goes to host memory: package memory is as before. -/
theorem State.recordPut_mems (s : State) (q : Nat) (w : BitVec 256) (rest : List (Nat × Nat × BitVec 256)) :
    (s.recordPut q w rest).mems = (s.mem, mwrite s.host (s.recordAt q) 32 w.toNat) := by
  obtain ⟨hmem, hhost⟩ := Prod.mk.inj (s.modLq_mems q (fun u => { u with crwait := rest }))
  rw [State.recordPut, State.modLq_mems, State.rawWrite_host, State.mems_mk, hmem, hhost]

/-- The interrupt of a vector, where there is one. -/
def State.interrupt (s : State) (vec : Nat) : State :=
  if vec < 32 then { s with dist := { s.dist with irqs := s.dist.irqs ++ [vec] } } else s

theorem State.interrupt_frame (s : State) (vec q : Nat) :
    (s.interrupt vec).mem = s.mem ∧ (s.interrupt vec).host = s.host ∧ (s.interrupt vec).lqueue q = s.lqueue q
      ∧ (s.interrupt vec).dist.irqs = s.dist.irqs ++ (if vec < 32 then [vec] else []) := by
  unfold State.interrupt
  split_ifs
  · exact ⟨rfl, rfl, rfl, rfl⟩
  · exact ⟨rfl, rfl, rfl, (List.append_nil _).symm⟩

section
variable {l vec : Nat} {w : BitVec 256} {rest : List (Nat × Nat × BitVec 256)}
  (hw : (s.lqueue s.arg.n).crwait = (l, vec, w) :: rest)
include hw

theorem completionRecordWrite_waits (hon : (s.lqueue s.arg.n).cren = true)
    (hfull : 2 ^ (s.lqueue s.arg.n).crlg ≤ ((s.lqueue s.arg.n).crtail - (s.lqueue s.arg.n).crhead).toNat) :
    exec .completionRecordWrite s = .next s := by
  change execCompletionRecordWrite s = _
  simp only [execCompletionRecordWrite, hw, hon, decide_eq_true hfull, Bool.and_self, if_true]

theorem completionRecordWrite_drops (hoff : (s.lqueue s.arg.n).cren = false) :
    ∃ t, exec .completionRecordWrite s = .next t ∧ (t.lqueue s.arg.n).crwait = rest ∧ t.host = s.host
      ∧ t.dist.irqs = s.dist.irqs := by
  have hrun : exec .completionRecordWrite s = .next
      ((s.modLq s.arg.n (fun u => { u with crwait := rest })).recordMade s.arg.n l rest.isEmpty) := by
    change execCompletionRecordWrite s = _
    simp only [execCompletionRecordWrite, hw, hoff, Bool.false_and, Bool.false_eq_true, if_false]
    rfl
  obtain ⟨-, hhost, hirqs, hlq⟩ :=
    (s.modLq s.arg.n (fun u => { u with crwait := rest })).recordMade_frame s.arg.n l rest.isEmpty
  exact ⟨_, hrun, by rw [hlq, State.lqueue_modLq_self], hhost, hirqs⟩

theorem completionRecordWrite_writes (hon : (s.lqueue s.arg.n).cren = true)
    (hroom : ((s.lqueue s.arg.n).crtail - (s.lqueue s.arg.n).crhead).toNat < 2 ^ (s.lqueue s.arg.n).crlg) :
    ∃ t, exec .completionRecordWrite s = .next t ∧ (t.lqueue s.arg.n).crtail = (s.lqueue s.arg.n).crtail + 1#32
      ∧ (t.lqueue s.arg.n).crwait = rest ∧ t.mem = s.mem ∧ t.host = mwrite s.host (s.recordAt s.arg.n) 32 w.toNat
      ∧ t.dist.irqs = s.dist.irqs ++ (if vec < 32 then [vec] else []) := by
  have hrun : exec .completionRecordWrite s = .next
      (((s.recordPut s.arg.n w rest).interrupt vec).recordMade s.arg.n l rest.isEmpty) := by
    change execCompletionRecordWrite s = _
    simp only [execCompletionRecordWrite, hw, hon, decide_eq_false (Nat.not_le.2 hroom), Bool.and_false, Bool.false_eq_true,
      if_false, if_true]
    rfl
  obtain ⟨hmem, hhost⟩ := Prod.mk.inj (s.recordPut_mems s.arg.n w rest)
  obtain ⟨imem, ihost, ilq, iirqs⟩ := (s.recordPut s.arg.n w rest).interrupt_frame vec s.arg.n
  obtain ⟨mmem, mhost, mirqs, mlq⟩ := ((s.recordPut s.arg.n w rest).interrupt vec).recordMade_frame s.arg.n l rest.isEmpty
  refine ⟨_, hrun, ?_⟩
  rw [mlq, ilq, s.recordPut_lqueue, mmem, imem, hmem, mhost, ihost, hhost, mirqs, iirqs, s.recordPut_irqs]
  exact ⟨rfl, rfl, rfl, rfl, rfl⟩

end

/-! ### All of it -/

/-- Settles O53: each step by what it finds, the queue, the stamp of its head entry or its oldest record, and by what it writes there. -/
theorem launchQueueEvents : Obligations.LaunchQueueEvents := by
  intro s q u v good b
  have hgood : s.stampOk q v = true ↔ good := s.stampOk_iff q v
  have hbad (h : ¬ good) : s.stampOk q v = false := Bool.eq_false_iff.2 (mt hgood.1 h)
  exact ⟨fun e hf hp hd => ⟨deviceLaunchWrite_enters hf hp hd, deviceLaunchWrite_waits hf hp hd,
      deviceLaunchWrite_faults hf hp hd, deviceLaunchWrite_refuses hf hp hd⟩,
    fun hd => ⟨fun h => queueHeadFetch_takes hd (hgood.2 h), fun h => queueHeadFetch_reads_again hd (hbad h)⟩,
    fun hen hbusy => ⟨fun h => queueHeadReread_takes hen hbusy (hgood.2 h), fun h => queueHeadReread_reads_again hen hbusy (hbad h),
      fun h => queueHeadReread_stale hen hbusy (hbad h)⟩,
    launchQueueService_stalls, fun _ _ _ h hn hw => ⟨launchQueueService_pops h hn hw, State.pop_head ..⟩,
    fun _ _ _ _ hw => completionRecordWrite_writes hw, fun _ _ _ _ hw => completionRecordWrite_waits hw,
    fun _ _ _ _ hw => completionRecordWrite_drops hw⟩

end Sys2Proof.Machine
end

section
/-! PROOFS. Portions handed out and placed: what the distributor and the placers write (R81 to R88). -/

namespace Sys2Proof.Machine

/-! ### Portions handed out (R81 to R84, R89) -/

/-- A change of every element of a table that leaves the default as it is. -/
theorem tget_map {α : Type} (t : Tab α) (f : α → α) {d : α} (hd : f d = d) (n : Nat) :
    tget (t.map fun p => (p.1, f p.2)) n d = f (tget t n d) := by
  induction t with
  | nil => exact hd.symm
  | cons p t ih =>
    simp only [List.map_cons, tget, ih]
    split_ifs <;> rfl

/-- No portion of a launch waits, is on its way or is pending any more. -/
def State.dropPortions (s : State) (id : Nat) : State :=
  { s with dist := { s.dist with waiting := s.dist.waiting.filter (fun p => p.launch != id),
                                 handing := s.dist.handing.filter (fun p => p.launch != id) },
           dies := s.dies.map (fun (d : Nat × Die) => (d.1, { d.2 with pending := d.2.pending.filter (fun p => p.launch != id) })) }

theorem State.dropPortions_pending (s : State) (id e : Nat) :
    ((s.dropPortions id).die e).pending = (s.die e).pending.filter (fun p => p.launch != id) :=
  congrArg Die.pending (tget_map s.dies (fun d => { d with pending := d.pending.filter (fun p => p.launch != id) }) rfl e)

/-- A filter that keeps the portions of other launches leaves none of this one. -/
theorem launch_ne_of_mem_filter {id : Nat} {ps : List Portion} : ∀ p ∈ ps.filter (fun p => p.launch != id), p.launch ≠ id :=
  fun _ hp => by simpa using (List.mem_filter.1 hp).2

theorem State.mem_after (s : State) (least route : Nat) (i : Instr) (a : Arg) :
    ∃ e ∈ (s.after least route i a).sched, e.ev = i ∧ e.arg = a :=
  ⟨_, List.mem_append_right _ (List.mem_singleton_self _), rfl, rfl⟩

/-- A portion leaves those that wait, on its way to the placer of its die. -/
def State.sendPortion (s : State) (p : Portion) : State :=
  { s with dist := { s.dist with waiting := s.dist.waiting.erase p, handing := s.dist.handing ++ [p] } }

variable {s : State}

theorem portionHandout_stuck {l : Launch} (hflag : s.arg.flag = false)
    (hl : s.dist.launches.find? (fun l => s.followStuck l) = some l) :
    ∃ u : State, exec .portionHandout s = .next (u.finishLaunch l 1 6) ∧ (∀ p ∈ u.dist.waiting, p.launch ≠ l.id)
      ∧ (∀ p ∈ u.dist.handing, p.launch ≠ l.id) ∧ ∀ e, ∀ p ∈ (u.die e).pending, p.launch ≠ l.id := by
  refine ⟨s.dropPortions l.id, ?_, launch_ne_of_mem_filter, launch_ne_of_mem_filter, fun e => ?_⟩
  · change execPortionHandout s = _
    simp only [execPortionHandout, hflag, hl]
    rfl
  · rw [State.dropPortions_pending]
    exact launch_ne_of_mem_filter

theorem portionHandout_sets_out {p : Portion} (hflag : s.arg.flag = false)
    (hl : s.dist.launches.find? (fun l => s.followStuck l) = none) (hw : s.cutPortions.dist.waiting = [p])
    (hroom : (s.cutPortions.die p.die).pending.length + (s.cutPortions.dist.handing.filter (fun q => q.die = p.die)).length
      < Config.pendingPortions) (hd : (s.cutPortions.die p.die).dfail = false) :
    ∃ t, exec .portionHandout s = .next t ∧ t.dist.waiting = [] ∧ t.dist.handing = s.cutPortions.dist.handing ++ [p]
      ∧ (t.die p.die).pending = (s.cutPortions.die p.die).pending
      ∧ ∃ e ∈ t.sched, e.ev = .portionHandout ∧ e.arg.n = p.launch ∧ e.arg.m = p.first ∧ e.arg.flag = true := by
  have hrun : exec .portionHandout s = .next ((s.cutPortions.sendPortion p).after 0 (4 * (100 + p.die)) .portionHandout
      { n := p.launch, m := p.first, flag := true }) := by
    change execPortionHandout s = _
    simp only [execPortionHandout, hflag, hl, hw, Bool.false_eq_true, if_false, List.filter_cons, hroom, hd, decide_true,
      Bool.not_false, Bool.and_self, if_true, List.filter_nil, List.foldl_cons, List.foldl_nil, State.sendPortion]
  have hempty : (s.cutPortions.sendPortion p).dist.waiting = [] := by simp [State.sendPortion, hw]
  obtain ⟨e, he, hev, harg⟩ := (s.cutPortions.sendPortion p).mem_after 0 (4 * (100 + p.die)) .portionHandout
    { n := p.launch, m := p.first, flag := true }
  exact ⟨_, hrun, hempty, rfl, rfl, e, he, hev, by simp [harg]⟩

theorem portionHandout_arrives {p : Portion} (hflag : s.arg.flag = true)
    (hp : s.dist.handing.find? (fun p => p.launch = s.arg.n && p.first = s.arg.m) = some p) :
    ∃ t, exec .portionHandout s = .next t ∧ t.dist.handing = s.dist.handing.erase p
      ∧ (t.die p.die).pending = (s.die p.die).pending ++ [p] := by
  refine ⟨_, show execPortionHandout s = _ by simp only [execPortionHandout, hflag, hp, if_true]; rfl, rfl, ?_⟩
  rw [State.die_modDie_self]
  rfl

/-! ### The next task of a portion (R86, R87) -/

/-- A group that can never be placed: its record, a cancel token for its graph, and its portion gone (R87). -/
def State.neverPlaced (s : State) (d gin : Nat) (p : Portion) : State :=
  ((s.post { cls := 2, cause := 0x15, die := d, gin := gin }).cancelGin d gin).setPortion d p none

/-- What the placer of a die does with the placement that it finds for a task of a portion. -/
def State.placeAs (s : State) (d : Nat) (l : Launch) (wid : Nat) (p : Portion) : Placement → State
  | .wait => s
  | .never => s.neverPlaced d l.gin p
  | .at place po => ((s.setPortion d p (if po.next < po.count then some po else none)).bindTask l place wid).takeUpper l wid

/-- The same once the reservations above its portion are held, or could not be. -/
def State.placeUnder (s : State) (d : Nat) (l : Launch) (wid : Nat) (others : List Portion) (p : Portion) : Except Bool State → State
  | .error true => s.neverPlaced d l.gin p
  | .error false => s
  | .ok w => w.placeAs d l wid p (w.fixLevels l wid others [6, 5, 4, 3, 2, 1, 0] (3, d) p)

/-- The next task of a portion of a die placed, where that can be done. -/
def State.placeNext (s : State) (d : Nat) (p : Portion) : State :=
  let l := s.launch p.launch
  let wid := l.widAt (p.first + p.next)
  s.placeUnder d l wid ((s.die d).pending.filter (fun q => !(q.launch = p.launch && q.first = p.first))) p
    (s.holdUpper l wid d (s.dies.flatMap (fun q => q.2.pending)) (State.upperGangs l))

theorem placeTask_places {p : Portion} (hflag : s.arg.flag = false)
    (hp : (s.purgePending s.arg.n).firstPortion s.arg.n = some p) :
    exec .placeTask s = .next ((s.purgePending s.arg.n).placeNext s.arg.n p) := by
  change execPlaceTask s = _
  simp only [execPlaceTask, hflag, hp, Bool.false_eq_true, if_false, State.placeNext]
  generalize (s.purgePending s.arg.n).holdUpper _ _ _ _ _ = upper
  match upper with
  | .error true => rfl
  | .error false => rfl
  | .ok w =>
    simp only [State.placeUnder]
    generalize w.fixLevels _ _ _ _ _ _ = found
    cases found <;> rfl

theorem placeTask_sets_up (hflag : s.arg.flag = true) :
    exec .placeTask s = .next (s.setupStep s.arg.core (s.launch s.arg.id)) := if_pos hflag

end Sys2Proof.Machine
end

section
/-! PROOFS. Tasks on a core: the preloads of a launch, the start of a task, and its end (R42, R78, R103, R131, R377, R388, R409, R426). -/

namespace Sys2Proof.Machine

variable {s : State}

/-! ### Preloads (R131) -/

/-- The chunks that a preload list writes: scratchpad address and source. They are those of the entries whose layout holds, in banks
that the launch names. -/
def State.preloadChunks (s : State) (l : Launch) : List (Nat × Nat) :=
  ((s.preloads l).filter (fun e => e.2.2.2.2)).flatMap (fun e => ((List.range (e.2.2.1 / 64)).map (fun i =>
    (e.2.1 + 64 * i, l.image + e.2.2.2.1 + 64 * i))).filter (fun a => bit l.bank (bankOf a.1)))

/-- A core's banks that the chunks lie in are the launch's. -/
def State.ownsChunks (s : State) (c : Nat) (l : Launch) : Prop :=
  ∀ a ∈ s.preloadChunks l, tget (s.core c).sp.owner (bankOf a.1) 0 = l.id

/-- The reports on the entries whose layout does not hold. -/
def State.preloadReports (s : State) (c : Nat) (l : Launch) : State :=
  ((s.preloads l).filter (fun e => !e.2.2.2.2)).foldl (fun (s : State) e =>
    s.post { cls := 5, cause := 0, sub := 4, die := coreDie c, clus := coreClus c, core := coreK c, gin := l.gin, info := e.1,
             d0 := l.ltag }) s

/-- A chunk claimed for the scratchpad with the bytes of the image. -/
def State.preloadWrite (s : State) (l : Launch) (a : Nat × Nat) : PWrite :=
  { id := 0, clk := s.pcyc, addr := a.1, data := BitVec.ofNat 512 (mread s.mem a.2 64), be := BitVec.allOnes 64,
    src := .preload l.id, order := 2 * (2 ^ 65 + l.id) }

/-- The claims made, or, with none to make, the core prepared for the launch. -/
def State.preloadClaimed (s : State) (c id : Nat) (ws : List PWrite) : State :=
  if ws.isEmpty then s.modCore c (fun k => { k with preDone := k.preDone ++ [id] })
  else s.modSp c (fun sp => { sp with claims := sp.claims ++ ws })

theorem State.preloadClaimed_sp (s : State) (c id : Nat) (ws : List PWrite) :
    ((s.preloadClaimed c id ws).core c).sp = { (s.core c).sp with claims := (s.core c).sp.claims ++ ws } := by
  unfold State.preloadClaimed
  cases ws with
  | nil => rw [if_pos List.isEmpty_nil, State.core_modCore_self, List.append_nil]
  | cons w ws =>
    rw [if_neg (by simp), State.modSp, State.core_modCore_self]

theorem State.preloadClaimed_preDone (s : State) (c id : Nat) : id ∈ ((s.preloadClaimed c id []).core c).preDone := by
  rw [State.preloadClaimed, if_pos List.isEmpty_nil, State.core_modCore_self]
  simp

theorem State.setStage_sp (s : State) (c l stage t : Nat) : ((s.setStage c l stage t).core c).sp = (s.core c).sp := by
  rw [State.setStage, State.core_modCore_self]

/-- The test that the step makes of the banks. -/
theorem State.ownsChunks_iff (s : State) (c : Nat) (l : Launch) : s.ownsChunks c l ↔
    ((s.preloadChunks l).any (fun a => tget (s.core c).sp.owner (bankOf a.1) 0 != l.id)) = false := by
  simp [State.ownsChunks]

theorem State.preloadReports_onlyRecords (s : State) (c : Nat) (l : Launch) : s.OnlyRecords (s.preloadReports c l) :=
  .foldl s (fun t _ => t.post_onlyRecords _) _

section
variable {t : Nat} (hstage : (s.core s.arg.core).setup.find? (fun p => p.1 = (s.launch s.arg.id).id) =
  some ((s.launch s.arg.id).id, 2, t))
include hstage

theorem preloadWrite_waits (hown : ¬ s.ownsChunks s.arg.core (s.launch s.arg.id)) : exec .preloadWrite s = .next s := by
  have hany := Bool.eq_true_of_not_eq_false (mt (s.ownsChunks_iff ..).2 hown)
  change execPreloadWrite s = _
  unfold State.preloadChunks at hany
  simp only [execPreloadWrite, hstage, hany, if_true]

theorem preloadWrite_faults {a : Nat × Nat} (hown : s.ownsChunks s.arg.core (s.launch s.arg.id))
    (hfind : (s.preloadChunks (s.launch s.arg.id)).find? (fun a => Config.ppaLimit < a.2 + 64) = some a) :
    exec .preloadWrite s = .fault (.noMemory a.2) := by
  have hany := (s.ownsChunks_iff ..).1 hown
  change execPreloadWrite s = _
  unfold State.preloadChunks at hany hfind
  simp only [execPreloadWrite, hstage, hany, hfind, Bool.false_eq_true, if_false]

theorem preloadWrite_writes (hown : s.ownsChunks s.arg.core (s.launch s.arg.id))
    (hfind : (s.preloadChunks (s.launch s.arg.id)).find? (fun a => Config.ppaLimit < a.2 + 64) = none) :
    exec .preloadWrite s =
      let c := s.arg.core
      let l := s.launch s.arg.id
      let u := s.preloadReports c l
      .next ((u.setStage c l.id 3 u.pcyc).preloadClaimed c l.id ((s.preloadChunks l).map (u.preloadWrite l))) := by
  have hany := (s.ownsChunks_iff ..).1 hown
  change execPreloadWrite s = _
  unfold State.preloadChunks at hany hfind ⊢
  simp only [execPreloadWrite, hstage, hany, hfind, Bool.false_eq_true, if_false, State.preloadClaimed]
  exact (apply_ite Host.Outcome.next ..).symm

theorem preloadWrite_claims (hown : s.ownsChunks s.arg.core (s.launch s.arg.id))
    (hfits : ∀ a ∈ s.preloadChunks (s.launch s.arg.id), a.2 + 64 ≤ 2 ^ 40) :
    ∃ u, exec .preloadWrite s = .next u
      ∧ (s.preloadChunks (s.launch s.arg.id) = [] → (s.launch s.arg.id).id ∈ (u.core s.arg.core).preDone)
      ∧ (u.core s.arg.core).sp = { (s.core s.arg.core).sp with claims := (u.core s.arg.core).sp.claims }
      ∧ (u.core s.arg.core).sp.claims.map (fun w => (w.addr, w.data, w.be, w.tset, w.read, w.src))
        = (s.core s.arg.core).sp.claims.map (fun w => (w.addr, w.data, w.be, w.tset, w.read, w.src))
          ++ (s.preloadChunks (s.launch s.arg.id)).map (fun a =>
            (a.1, BitVec.ofNat 512 (mread s.mem a.2 64), BitVec.allOnes 64, 0#8, false, .preload (s.launch s.arg.id).id)) := by
  have hfind : (s.preloadChunks (s.launch s.arg.id)).find? (fun a => Config.ppaLimit < a.2 + 64) = none :=
    List.find?_eq_none.2 fun a ha h => Nat.not_lt.2 (hfits a ha) (of_decide_eq_true h)
  refine ⟨_, preloadWrite_writes hstage hown hfind, fun hnil => ?_, ?_⟩
  · rw [hnil, List.map_nil]
    exact State.preloadClaimed_preDone ..
  · obtain ⟨_, _, hreports⟩ := s.preloadReports_onlyRecords s.arg.core (s.launch s.arg.id)
    rw [State.preloadClaimed_sp, State.setStage_sp, hreports]
    refine ⟨rfl, ?_⟩
    rw [List.map_append, List.map_map]
    rfl

end

/-! ### Starting a task (R42, R78) -/

theorem State.startRegs_sreg_one (s : State) (l : Launch) (wid : Dword) : (s.startRegs l wid).sreg 1 = BitVec.ofNat 64 l.arg := rfl

theorem State.startRegs_sreg_two (s : State) (l : Launch) (wid : Dword) : (s.startRegs l wid).sreg 2 = wid := rfl

theorem State.startRegs_sreg_rest (s : State) (l : Launch) (wid : Dword) {n : SReg} (h : 3 ≤ n.val) :
    (s.startRegs l wid).sreg n = 0#64 := by
  have hn : n ≠ 0 := fun h0 => by simp [h0] at h
  rw [Regs.sreg, if_neg hn]
  change (((Vector.replicate 64 0#64).set 1 (BitVec.ofNat 64 l.arg)).set 2 wid)[n.val] = _
  rw [Vector.getElem_set_ne _ _ (by omega), Vector.getElem_set_ne _ _ (by omega), Vector.getElem_replicate]

theorem State.startRegs_vreg (s : State) (l : Launch) (wid : Dword) (n : VReg) : (s.startRegs l wid).vreg n = 0#16384 :=
  Vector.getElem_replicate ..

theorem State.startRegs_kreg (s : State) (l : Launch) (wid : Dword) {n : KReg} (h : n ≠ 0) : (s.startRegs l wid).kreg n = 0#512 := by
  rw [Regs.kreg, if_neg h]
  exact Vector.getElem_replicate ..

/-- A context of a core no longer awaits the start of a task. -/
def State.unplace (s : State) (c x : Nat) : State := s.modCore c (fun k => { k with starts := k.starts.filter (fun p => p.1 != x) })

theorem State.unplace_starts (s : State) (c x : Nat) :
    ((s.unplace c x).core c).starts = (s.core c).starts.filter (fun p => p.1 != x) := by
  rw [State.unplace, State.core_modCore_self]

theorem State.unplace_ctx (s : State) (c x : Nat) : (s.unplace c x).ctx c x = s.ctx c x :=
  s.ctx_modCore_keeps (by exact fun _ => rfl) ..

/-- A context as a task of a launch starts in it. -/
def State.startCtx (s : State) (c x id : Nat) (l : Launch) (wid : Dword) : Ctx :=
  { status := .ready, r := s.startRegs l wid, mark := some (s.startRegs l wid), launch := id, wid := wid, task := s.nextId,
    origin := 8 * c + x, nextAt := s.now c }

/-- A task of a launch has started in a context. -/
def State.startTask (s : State) (c x id : Nat) (l : Launch) (wid : Dword) : State :=
  ((State.modCtx { s with nextId := s.nextId + 1 } c x (fun _ => s.startCtx c x id l wid)).modLaunch id
    (fun l => { l with started := l.started + 1 })).notePlace id (State.placeCodes l c x)

theorem State.startTask_ctx (s : State) (c x id : Nat) (l : Launch) (wid : Dword) :
    (s.startTask c x id l wid).ctx c x = s.startCtx c x id l wid :=
  State.ctx_modCtx_self { s with nextId := s.nextId + 1 } c x (fun _ => s.startCtx c x id l wid)

theorem State.startTask_core (s : State) (c x id : Nat) (l : Launch) (wid : Dword) :
    (s.startTask c x id l wid).core c = { s.core c with ctxs := tset (s.core c).ctxs x (s.startCtx c x id l wid) } :=
  State.core_modCtx_self { s with nextId := s.nextId + 1 } c x (fun _ => s.startCtx c x id l wid)

theorem taskStart_starts {y id : Nat} {wid : Dword}
    (hp : (s.core s.arg.core).starts.find? (fun p => p.1 = s.arg.ctx) = some (y, id, wid)) (hl : (s.launch id).cancelled = false) :
    exec .taskStart s = .next ((s.unplace s.arg.core s.arg.ctx).startTask s.arg.core s.arg.ctx id (s.launch id) wid) := by
  change execTaskStart s = _
  simp only [execTaskStart, hp, hl, Bool.false_eq_true, if_false]
  rfl

/-! ### Cores and contexts given up (R103, R388, R409, R426) -/

/-- What no change of a core but to its contexts' table can reach, a launch that leaves a core keeps. -/
theorem State.leaveCore_keeps {β : Type} (g : State → β)
    (hg : ∀ (t : State) (n : Nat) (f : Core → Core), (∀ k, (f k).ctxs = k.ctxs) → g (t.modCore n f) = g t) (s : State) (c l : Nat) :
    g (s.leaveCore c l) = g s := by
  have hpass (t : State) (b : Nat) : g (t.passBank c l b) = g t := by
    unfold State.passBank
    exact hg t c _ (by exact fun _ => rfl)
  have hgate (t : State) : g (t.gateBanks c l) = g t := by
    unfold State.gateBanks State.modSp
    exact hg t c _ (by exact fun _ => rfl)
  unfold State.leaveCore
  split_ifs
  · rfl
  extract_lets own here passed gated
  have hpassed : g passed = g s := foldl_keeps g hpass own s
  have hgated : g gated = g s := by
    simp only [gated]
    split_ifs
    · exact (hgate passed).trans hpassed
    · exact hpassed
  exact (hg gated c _ (by exact fun _ => rfl)).trans hgated

theorem State.leaveCore_ctx (s : State) (c l d y : Nat) : (s.leaveCore c l).ctx d y = s.ctx d y :=
  State.leaveCore_keeps (fun t => t.ctx d y) (fun t n _ hf => t.ctx_modCore_keeps hf n d y) s c l

theorem State.leaveCore_vres (s : State) (c l : Nat) : (s.leaveCore c l).vres = s.vres :=
  State.leaveCore_keeps State.vres (fun _ _ _ _ => rfl) s c l

theorem State.regrant_ctx (s : State) (e c x : Nat) : (s.regrant e).ctx c x = s.ctx c x := rfl

theorem State.regrant_vres (s : State) (e : Nat) : (s.regrant e).vres = s.vres := rfl

theorem taskStart_never {y id : Nat} {wid : Dword}
    (hp : (s.core s.arg.core).starts.find? (fun p => p.1 = s.arg.ctx) = some (y, id, wid)) (hl : (s.launch id).cancelled = true) :
    ∃ t, exec .taskStart s = .next t ∧ t.ctx s.arg.core s.arg.ctx = s.ctx s.arg.core s.arg.ctx := by
  refine ⟨((s.unplace s.arg.core s.arg.ctx).leaveCore s.arg.core id).regrant (coreDie s.arg.core), ?_, ?_⟩
  · change execTaskStart s = _
    simp only [execTaskStart, hp, hl, if_true, State.unplace]
  · rw [State.regrant_ctx, State.leaveCore_ctx, State.unplace_ctx]

theorem State.freeCtx_ctx (s : State) (c x : Nat) : (s.freeCtx c x).ctx c x = {} := by
  unfold State.freeCtx
  extract_lets l unanswered abandoned cleared
  have hcleared : cleared.ctx c x = {} := by
    simp only [cleared]
    rw [State.ctx, State.core_modCore_self]
    exact tget_tdel_self ..
  rw [State.regrant_ctx, State.leaveCore_ctx, hcleared]

/-- No result of the context is still to come. -/
theorem State.freeCtx_vres (s : State) (c x : Nat) : (s.freeCtx c x).vres.all (fun v => !(v.core = c && v.ctx = x)) = true := by
  have hvres : (s.freeCtx c x).vres = (s.dropReplies c x).vres := by
    unfold State.freeCtx
    extract_lets l unanswered abandoned cleared
    rw [State.regrant_vres, State.leaveCore_vres]
    rfl
  rw [hvres]
  exact List.all_eq_true.2 fun v hv => by simpa using (List.mem_filter.1 hv).2

/-! ### The end of a task (R377, R409, R426) -/

theorem taskEnd_not_due (h : s.endDue s.arg.core s.arg.ctx = false) : exec .taskEnd s = .next s := by
  change execTaskEnd s = _
  simp [execTaskEnd, h]

/-- A task that has ended counts as arrived at a barrier from its next generation on (R377). -/
def State.leaveBarrier (s : State) (c x : Nat) (k : Ctx) (n : Nat) : State :=
  if bit (s.launch k.launch).barlv n then
    let (s, b) := s.barrier c x n
    (s.modBar b.id (fun b => { b with ended := b.ended ++ [(k.arr.toList.getD n 0#32).toNat] })).checkBar b.id
  else s

theorem State.leaveBarrier_onlyBars (s : State) (c x : Nat) (k : Ctx) (n : Nat) : s.OnlyBars (s.leaveBarrier c x k n) := by
  unfold State.leaveBarrier
  split_ifs
  · exact (s.barrier_onlyBars c x n).trans ((State.modBar_onlyBars ..).trans (State.checkBar_onlyBars ..))
  · exact .refl s

theorem taskEnd_counts (h : s.endDue s.arg.core s.arg.ctx = true) (hw : (s.ctx s.arg.core s.arg.ctx).why = .ended) :
    ∃ t, exec .taskEnd s = .next t ∧ (t.ctx s.arg.core s.arg.ctx).why = .done
      ∧ t.dist = (s.modLaunch (s.ctx s.arg.core s.arg.ctx).launch (fun l => { l with ended := l.ended + 1 })).dist := by
  have hrun : exec .taskEnd s = .next ((((List.range 7).foldl
      (fun t n => t.leaveBarrier s.arg.core s.arg.ctx (s.ctx s.arg.core s.arg.ctx) n) s).modLaunch
      (s.ctx s.arg.core s.arg.ctx).launch (fun l => { l with ended := l.ended + 1 })).modCtx s.arg.core s.arg.ctx
      (fun k => { k with why := .done })) := by
    change execTaskEnd s = _
    simp only [execTaskEnd, h, hw, Bool.not_true, Bool.false_eq_true, if_false, if_true]
    rfl
  obtain ⟨_, _, _, hbars⟩ := State.OnlyBars.foldl s
    (fun t n => t.leaveBarrier_onlyBars s.arg.core s.arg.ctx (s.ctx s.arg.core s.arg.ctx) n) (List.range 7)
  refine ⟨_, hrun, by rw [State.ctx_modCtx_self], ?_⟩
  rw [hbars]
  rfl

theorem taskEnd_frees (h : s.endDue s.arg.core s.arg.ctx = true) (hw : (s.ctx s.arg.core s.arg.ctx).why ≠ .ended) :
    ∃ t, exec .taskEnd s = .next t ∧ (t.ctx s.arg.core s.arg.ctx).status = .free
      ∧ t.vres.all (fun v => !(v.core = s.arg.core && v.ctx = s.arg.ctx)) = true := by
  refine ⟨s.freeCtx s.arg.core s.arg.ctx, ?_, by rw [State.freeCtx_ctx], s.freeCtx_vres ..⟩
  change execTaskEnd s = _
  simp [execTaskEnd, h, hw]

/-! ### All of it -/

/-- Settles O54: each step by what it finds, a launch that is stuck, a portion, a stage of the set-up, a placed task or an end that
is due, and by what it writes there. -/
theorem placingAndTaskEnds : Obligations.PlacingAndTaskEnds := by
  refine ⟨fun s => ⟨fun _ => portionHandout_stuck, fun _ => portionHandout_sets_out, fun _ => portionHandout_arrives,
    fun p hflag hp => ?_, placeTask_sets_up, fun t hstage => ?_, fun y id wid hp => ⟨fun hl => ?_, taskStart_never hp⟩⟩,
    fun s => ⟨taskEnd_not_due, taskEnd_counts, taskEnd_frees⟩⟩
  · intro u l wid others upper found never
    have hrun : exec .placeTask s = .next (u.placeUnder s.arg.n l wid others p upper) := placeTask_places hflag hp
    refine ⟨fun h => by rw [hrun, h]; rfl, fun h => by rw [hrun, h]; rfl, fun w h => ?_⟩
    have hfound : exec .placeTask s = .next (w.placeAs s.arg.n l wid p (found w)) := by rw [hrun, h]; rfl
    exact ⟨fun hf => by rw [hfound, hf]; rfl, fun hf => by rw [hfound, hf]; rfl, fun place po hf => by rw [hfound, hf]; rfl⟩
  · exact ⟨preloadWrite_waits hstage, preloadWrite_claims hstage, fun a hown => preloadWrite_faults hstage hown⟩
  · refine ⟨_, taskStart_starts hp hl, ?_⟩
    rw [State.startTask_ctx, State.startTask_core, State.unplace_starts]
    exact ⟨rfl, rfl, rfl, rfl, State.startRegs_sreg_one .., State.startRegs_sreg_two .., fun _ h => State.startRegs_sreg_rest _ _ _ h,
      fun n => State.startRegs_vreg _ _ _ n, fun _ h => State.startRegs_kreg _ _ _ h, rfl, rfl, rfl, rfl, rfl⟩

end Sys2Proof.Machine
end

section
/-! PROOFS. A masked write of a vector register, element by element (R114, R181). -/

namespace Sys2Proof.Machine

/-! ### Elements of a bit string -/

theorem testBit_elem (w x i b : Nat) : (elem w x i).testBit b = (decide (b < w) && x.testBit (w * i + b)) := by
  rw [elem, Nat.testBit_mod_two_pow, Nat.testBit_div_two_pow, Nat.add_comm b]

theorem elem_pack (w : Nat) (f : Nat → Nat) {n i : Nat} (hi : i < n) (j : Nat) : elem w (pack w f n j) i = f (j + i) % 2 ^ w := by
  induction n generalizing i j with
  | zero => omega
  | succ n ih =>
    have hw : 0 < 2 ^ w := Nat.two_pow_pos w
    cases i with
    | zero => simp [elem, pack]
    | succ i =>
      have htail : pack w f (n + 1) j / 2 ^ w = pack w f n (j + 1) := by
        rw [pack, Nat.add_mul_div_left _ _ hw, Nat.div_eq_of_lt (Nat.mod_lt _ hw), Nat.zero_add]
      rw [elem, Nat.mul_succ, Nat.add_comm (w * i), Nat.pow_add, ← Nat.div_div_eq_div_mul, htail, ← elem, ih (by omega)]
      congr 2
      omega

section
variable {w i n : Nat} (h : w * i + w ≤ n)
include h

theorem elem_toNat_ofNat (x : Nat) : elem w (BitVec.ofNat n x).toNat i = elem w x i := by
  refine Nat.eq_of_testBit_eq fun b => ?_
  rw [testBit_elem, testBit_elem, BitVec.toNat_ofNat, Nat.testBit_mod_two_pow]
  by_cases hb : b < w
  · simp [hb, show w * i + b < n by omega]
  · simp [hb]

omit h in
theorem elem_mux_of_enabled {v en old : BitVec n} (hen : elem w en.toNat i = 2 ^ w - 1) :
    elem w ((v &&& en) ||| (old &&& ~~~en)).toNat i = elem w v.toNat i := by
  refine Nat.eq_of_testBit_eq fun b => ?_
  rw [testBit_elem, testBit_elem]
  by_cases hb : b < w
  · have hbit : en.getLsbD (w * i + b) = true := by
      have hb' := testBit_elem w en.toNat i b
      rwa [hen, Nat.testBit_two_pow_sub_one, decide_eq_true hb, Bool.true_and, eq_comm] at hb'
    simp only [BitVec.testBit_toNat, BitVec.getLsbD_or, BitVec.getLsbD_and, BitVec.getLsbD_not, hbit]
    simp
  · simp [hb]

theorem elem_mux_of_disabled {v en old : BitVec n} (hen : elem w en.toNat i = 0) :
    elem w ((v &&& en) ||| (old &&& ~~~en)).toNat i = elem w old.toNat i := by
  refine Nat.eq_of_testBit_eq fun b => ?_
  rw [testBit_elem, testBit_elem]
  by_cases hb : b < w
  · have hbit : en.getLsbD (w * i + b) = false := by
      have hb' := testBit_elem w en.toNat i b
      rwa [hen, Nat.zero_testBit, decide_eq_true hb, Bool.true_and, eq_comm] at hb'
    simp only [BitVec.testBit_toNat, BitVec.getLsbD_or, BitVec.getLsbD_and, BitVec.getLsbD_not, hbit]
    simp [show w * i + b < n by omega]
  · simp [hb]

end

/-! ### The write (R181) -/

theorem Regs.vreg_write_ne (r : Regs) {d e : VReg} (v en : VWord) (h : e ≠ d) : (r.write (.v d v en)).vreg e = r.vreg e := by
  have hval : d.val ≠ e.val := fun q => h (Fin.ext q.symm)
  simp [Regs.write, Regs.vreg, Vector.getElem_set_ne _ _ hval]

theorem elem_write_maskedWrite (r : Regs) (d : VReg) {w n i : Nat} (act : Nat → Bool) (z : Bool) (f : Nat → Nat) (hi : i < n)
    (hn : w * n ≤ 16384) : elem w ((r.write (maskedWrite d w n act z f)).vreg d).toNat i
      = if act i then f i % 2 ^ w else if z then 0 else elem w (r.vreg d).toNat i := by
  have hfit : w * i + w ≤ 16384 := le_trans (by rw [← Nat.mul_succ]; exact Nat.mul_le_mul_left w hi) hn
  have hval : elem w (BitVec.ofNat 16384 (pack w (fun i => if act i then f i else 0) n 0)).toNat i
      = (if act i then f i else 0) % 2 ^ w := by
    rw [elem_toNat_ofNat hfit, elem_pack w _ hi, Nat.zero_add]
  have hen : elem w (BitVec.ofNat 16384 (pack w (fun i => if act i || z then 2 ^ w - 1 else 0) n 0)).toNat i
      = if act i || z then 2 ^ w - 1 else 0 := by
    have hmax : (2 ^ w - 1) % 2 ^ w = 2 ^ w - 1 := Nat.mod_eq_of_lt (Nat.sub_lt (Nat.two_pow_pos w) one_pos)
    rw [elem_toNat_ofNat hfit, elem_pack w _ hi, Nat.zero_add]
    split <;> simp [hmax]
  rw [maskedWrite, Regs.vreg_write_self]
  by_cases hon : (act i || z) = true
  · rw [elem_mux_of_enabled (by rw [hen, if_pos hon]), hval]
    cases hact : act i
    · simp [show z = true by simpa [hact] using hon]
    · simp
  · rw [elem_mux_of_disabled hfit (by rw [hen, if_neg hon])]
    simp only [Bool.or_eq_true, not_or, Bool.not_eq_true] at hon
    simp [hon]

theorem Ty.width_mul_count_le (t : Ty) : t.width * t.count ≤ 16384 := Nat.mul_div_le 16384 t.width

end Sys2Proof.Machine
end

section
/-! PROOFS. Rounding to a multiple of a quantum, over the rational numbers (R49). -/

namespace Sys2Proof.Machine

/-! ### Which side of the multiples of a power of two a value lies on -/

/-- x and y compare in the same way with every multiple of 2^p. -/
def SameSide (p : ℤ) (x y : ℚ) : Prop :=
  ∀ c : ℤ, ((c : ℚ) * 2 ^ p ≤ x ↔ (c : ℚ) * 2 ^ p ≤ y) ∧ (x ≤ c * 2 ^ p ↔ y ≤ c * 2 ^ p)

theorem SameSide.refl (p : ℤ) (x : ℚ) : SameSide p x x := fun _ => ⟨.rfl, .rfl⟩

/-- A power of two with an exponent of at least p is a whole multiple of 2^p. -/
theorem two_zpow_eq_mul {p q : ℤ} (h : p ≤ q) : (2 : ℚ) ^ q = ((2 ^ (q - p).toNat : ℕ) : ℚ) * 2 ^ p := by
  rw [Nat.cast_pow, Nat.cast_two, ← zpow_natCast, ← zpow_add₀ two_ne_zero, Int.toNat_of_nonneg (by omega), sub_add_cancel]

theorem SameSide.mono {p q : ℤ} {x y : ℚ} (h : SameSide p x y) (hpq : p ≤ q) : SameSide q x y := fun c => by
  have hc : (c : ℚ) * 2 ^ q = ((c * (2 ^ (q - p).toNat : ℕ) : ℤ) : ℚ) * 2 ^ p := by
    rw [two_zpow_eq_mul hpq, Int.cast_mul, Int.cast_natCast, mul_assoc]
  rw [hc]
  exact h _

theorem SameSide.div {p q : ℤ} {x y : ℚ} (h : SameSide p x y) : SameSide (p - q) (x / 2 ^ q) (y / 2 ^ q) := fun c => by
  have hq : (0 : ℚ) < 2 ^ q := zpow_pos two_pos q
  rw [zpow_sub₀ two_ne_zero, ← mul_div_assoc, div_le_div_iff_of_pos_right hq, div_le_div_iff_of_pos_right hq,
    div_le_div_iff_of_pos_right hq, div_le_div_iff_of_pos_right hq]
  exact h c

theorem SameSide.two_zpow_le {p l : ℤ} {x y : ℚ} (h : SameSide p x y) (hl : p ≤ l) :
    (2 : ℚ) ^ l ≤ x ↔ (2 : ℚ) ^ l ≤ y := by
  rw [two_zpow_eq_mul hl]
  exact_mod_cast (h _).1

/-- Two values strictly between neighbouring multiples of 2^p. -/
theorem sameSide_of_between {p n : ℤ} {x y : ℚ} (hx : n * 2 ^ p < x ∧ x < (n + 1) * 2 ^ p)
    (hy : n * 2 ^ p < y ∧ y < (n + 1) * 2 ^ p) : SameSide p x y := fun c => by
  have hp : (0 : ℚ) < 2 ^ p := zpow_pos two_pos p
  obtain ⟨hx0, hx1⟩ := hx
  obtain ⟨hy0, hy1⟩ := hy
  rcases le_or_gt c n with hc | hc
  · have hcn : (c : ℚ) * 2 ^ p ≤ n * 2 ^ p := mul_le_mul_of_nonneg_right (by exact_mod_cast hc) hp.le
    exact ⟨iff_of_true (by linarith) (by linarith), iff_of_false (by linarith) (by linarith)⟩
  · have hcn : ((n : ℚ) + 1) * 2 ^ p ≤ c * 2 ^ p := mul_le_mul_of_nonneg_right (by exact_mod_cast hc) hp.le
    exact ⟨iff_of_false (by linarith) (by linarith), iff_of_true (by linarith) (by linarith)⟩

/-! ### What a rounding mode picks -/

theorem picks_self (rm : Rm) (neg : Bool) (k : Nat) : Picks rm neg k k := by
  cases rm <;> cases neg <;> norm_num [Picks]

theorem Picks.abs_sub_lt {rm : Rm} {neg : Bool} {x : ℚ} {k : Nat} (h : Picks rm neg x k) : |x - k| < 1 := by
  rw [abs_lt]
  cases rm <;> cases neg <;> simp only [Picks, abs_le, if_true, Bool.false_eq_true, if_false] at h <;> grind

theorem Picks.le_of_le {rm : Rm} {neg : Bool} {x : ℚ} {k c : Nat} (h : Picks rm neg x k) (hc : x ≤ c) : k ≤ c := by
  have hk : (k : ℚ) < c + 1 := by linarith [abs_lt.1 h.abs_sub_lt]
  exact Nat.lt_succ_iff.1 (by exact_mod_cast hk)

theorem Picks.ge_of_ge {rm : Rm} {neg : Bool} {x : ℚ} {k c : Nat} (h : Picks rm neg x k) (hc : (c : ℚ) ≤ x) : c ≤ k := by
  have hk : (c : ℚ) < k + 1 := by linarith [abs_lt.1 h.abs_sub_lt]
  exact Nat.lt_succ_iff.1 (by exact_mod_cast hk)

/-- What a mode picks depends only on how the value compares with the halves. -/
theorem SameSide.picks_iff {rm : Rm} {neg : Bool} {x y : ℚ} {k : Nat} (h : SameSide (-1) x y) :
    Picks rm neg x k ↔ Picks rm neg y k := by
  have half (c : ℤ) : ((c : ℚ) / 2 ≤ x ↔ (c : ℚ) / 2 ≤ y) ∧ (x ≤ (c : ℚ) / 2 ↔ y ≤ (c : ℚ) / 2) := by
    simpa only [zpow_neg_one, ← div_eq_mul_inv] using h c
  have hpred := half (2 * k - 2)
  have hbelow := half (2 * k - 1)
  have hat := half (2 * k)
  have habove := half (2 * k + 1)
  have hsucc := half (2 * k + 2)
  push_cast at hpred hbelow hat habove hsucc
  have hfloor : (k : ℚ) ≤ x ∧ x < k + 1 ↔ (k : ℚ) ≤ y ∧ y < k + 1 := by grind
  have hceil : x ≤ k ∧ (k : ℚ) < x + 1 ↔ y ≤ k ∧ (k : ℚ) < y + 1 := by grind
  have hnear : |x - k| ≤ 1 / 2 ↔ |y - k| ≤ 1 / 2 := by
    rw [abs_le, abs_le]
    grind
  have htie : |x - k| = 1 / 2 ↔ |y - k| = 1 / 2 := by
    rw [abs_eq (by norm_num), abs_eq (by norm_num)]
    grind
  have hlt : x < k ↔ y < k := by grind
  cases rm <;> simp only [Picks, hfloor, hceil, hnear, htie, hlt]

/-! ### The multiple that the model picks -/

/-- Whether a mode takes the next whole number, of a value that lies f above the whole number lo (R49). -/
def RoundsUp (rm : Rm) (neg : Bool) (lo : Nat) (f : ℚ) : Prop :=
  match rm with
  | .rne | .ctx => 1 / 2 < f ∨ f = 1 / 2 ∧ lo % 2 = 1
  | .rtz => False
  | .rup => neg = false ∧ 0 < f
  | .rdn => neg = true ∧ 0 < f
  | .rna => 1 / 2 ≤ f

section
variable {rm : Rm} {neg : Bool} {lo : Nat} {f : ℚ}

theorem picks_succ (h1 : f < 1) (h : RoundsUp rm neg lo f) : Picks rm neg (lo + f) (lo + 1 : ℕ) := by
  have hdist : |(lo : ℚ) + f - (lo + 1 : ℕ)| = 1 - f := by
    rw [abs_of_nonpos (by push_cast; linarith)]
    push_cast
    ring
  cases rm <;> simp only [RoundsUp] at h <;> simp only [Picks, hdist] <;> push_cast <;> grind

theorem picks_floor (h0 : 0 ≤ f) (h1 : f < 1) (h : ¬ RoundsUp rm neg lo f) : Picks rm neg (lo + f) lo := by
  have hdist : |(lo : ℚ) + f - lo| = f := by rw [add_sub_cancel_left, abs_of_nonneg h0]
  cases rm <;> simp only [RoundsUp] at h <;> simp only [Picks, hdist] <;> grind

theorem picks_ite {up : Bool} (h0 : 0 ≤ f) (h1 : f < 1) (h : up = true ↔ RoundsUp rm neg lo f) :
    Picks rm neg (lo + f) (if up = true then lo + 1 else lo : ℕ) := by
  split_ifs with hup
  · exact picks_succ h1 (h.1 hup)
  · exact picks_floor h0 h1 (mt h.2 hup)

end

theorem mul_two_zpow_div (m : Nat) {e q : ℤ} (h : q ≤ e) : (m : ℚ) * 2 ^ e / 2 ^ q = (m * 2 ^ (e - q).toNat : ℕ) := by
  rw [two_zpow_eq_mul h, ← mul_assoc, mul_div_cancel_right₀ _ (zpow_pos two_pos q).ne', Nat.cast_mul]

theorem mul_two_zpow_div_of_lt (m : Nat) {e q : ℤ} (h : e < q) :
    (m : ℚ) * 2 ^ e / 2 ^ q = (m / 2 ^ (q - e).toNat : ℕ) + (m % 2 ^ (q - e).toNat : ℕ) / (2 ^ (q - e).toNat : ℕ) := by
  have hD : ((2 ^ (q - e).toNat : ℕ) : ℚ) ≠ 0 := by positivity
  have he : (2 : ℚ) ^ e ≠ 0 := zpow_ne_zero e two_ne_zero
  rw [two_zpow_eq_mul h.le, mul_div_mul_right _ _ he, div_eq_iff hD, add_mul, div_mul_cancel₀ _ hD]
  exact_mod_cast (Nat.div_add_mod' m _).symm

/-- How a fraction r / 2h compares with 0 and with one half. -/
theorem div_two_mul_compare (r : Nat) {h : Nat} (hh : 0 < h) :
    ((1 / 2 : ℚ) < r / (h * 2 : ℕ) ↔ h < r) ∧ ((r : ℚ) / (h * 2 : ℕ) = 1 / 2 ↔ r = h)
      ∧ ((1 / 2 : ℚ) ≤ r / (h * 2 : ℕ) ↔ h ≤ r) ∧ ((0 : ℚ) < r / (h * 2 : ℕ) ↔ r ≠ 0) := by
  have hD : (0 : ℚ) < (h * 2 : ℕ) := by positivity
  have hhalf : (1 / 2 : ℚ) * (h * 2 : ℕ) = h := by
    push_cast
    ring
  rw [lt_div_iff₀ hD, div_eq_iff hD.ne', le_div_iff₀ hD, lt_div_iff₀ hD, hhalf, zero_mul, Nat.cast_lt, Nat.cast_inj,
    Nat.cast_le, Nat.cast_pos, Nat.pos_iff_ne_zero]
  exact ⟨.rfl, .rfl, .rfl, .rfl⟩

theorem picks_roundMag (rm : Rm) (neg : Bool) (m : Nat) (e q : ℤ) : Picks rm neg (m * 2 ^ e / 2 ^ q) (roundMag rm neg m e q) := by
  rw [roundMag]
  split_ifs with hq
  · rw [mul_two_zpow_div m hq]
    exact picks_self ..
  · rw [mul_two_zpow_div_of_lt m (not_le.1 hq)]
    have hD : 0 < 2 ^ (q - e).toNat := Nat.two_pow_pos _
    have hdouble : 2 ^ (q - e).toNat = 2 ^ ((q - e).toNat - 1) * 2 := by rw [← pow_succ, Nat.sub_add_cancel (by omega)]
    obtain ⟨hlt, heq, hle, hpos⟩ := div_two_mul_compare (m % 2 ^ (q - e).toNat) (Nat.two_pow_pos ((q - e).toNat - 1))
    rw [← hdouble] at hlt heq hle hpos
    refine picks_ite (by positivity) ((div_lt_one (Nat.cast_pos.2 hD)).2 (Nat.cast_lt.2 (Nat.mod_lt _ hD))) ?_
    cases rm <;>
      simp only [RoundsUp, hlt, heq, hle, hpos, Bool.or_eq_true, Bool.and_eq_true, decide_eq_true_eq, Bool.not_eq_true', bne_iff_ne,
        Bool.false_eq_true]

end Sys2Proof.Machine
end

section
/-! PROOFS. The encodings of the floating-point formats, and the values that a format has one for (R46, R47). -/

namespace Sys2Proof.Machine

/-! ### The sizes of the fields (R46) -/

theorem isFloat_of_isFP {t : Ty} (h : isFP t = true) : isFloat t = true := by
  revert h
  cases t <;> decide

section
variable {t : Ty} (ht : isFloat t = true)
include ht

theorem width_eq_of_isFloat : t.width = expBits t + fracBits t + 1 := by
  revert ht
  cases t <;> decide

theorem two_pow_fracBits_le_maxM : 2 ^ fracBits t ≤ maxM t := by
  revert ht
  cases t <;> decide

theorem maxM_lt : maxM t < 2 ^ (fracBits t + 1) := by
  revert ht
  cases t <;> decide

theorem emin_le_maxQ : emin t - fracBits t ≤ maxQ t := by
  revert ht
  cases t <;> decide

/-- The largest exponent field of a finite value: all ones in E4M3, one less in the others. -/
theorem maxQ_add_eq : maxQ t + fracBits t + expBias t = if t = .e4m3 then 2 ^ expBits t - 1 else (2 : ℤ) ^ expBits t - 2 := by
  revert ht
  cases t <;> decide

theorem one_lt_expBits : 1 < expBits t := by
  revert ht
  cases t <;> decide

theorem fracBits_le : fracBits t ≤ 52 := by
  revert ht
  cases t <;> decide

end

/-! ### Encodings by their fields -/

/-- The encoding with a sign, an exponent field and a fraction field (R46). -/
def codeOf (t : Ty) (neg : Bool) (ex fr : Nat) : Nat :=
  (if neg then 2 ^ (expBits t + fracBits t) else 0) + ex * 2 ^ fracBits t + fr

section
variable {t : Ty} {neg : Bool} {ex fr : Nat} (hex : ex < 2 ^ expBits t) (hfr : fr < 2 ^ fracBits t)

theorem codeOf_eq : codeOf t neg ex fr = ((if neg then 2 ^ expBits t else 0) + ex) * 2 ^ fracBits t + fr := by
  cases neg <;> simp [codeOf, pow_add, add_mul]

section
include hfr

theorem codeOf_mod_frac : codeOf t neg ex fr % 2 ^ fracBits t = fr := by
  rw [codeOf_eq, Nat.mul_add_mod', Nat.mod_eq_of_lt hfr]

theorem codeOf_div_frac : codeOf t neg ex fr / 2 ^ fracBits t = (if neg then 2 ^ expBits t else 0) + ex := by
  rw [codeOf_eq, Nat.add_comm, Nat.add_mul_div_right _ _ (Nat.two_pow_pos _), Nat.div_eq_of_lt hfr, Nat.zero_add]

end

include hex hfr

theorem magnitude_lt : ex * 2 ^ fracBits t + fr < 2 ^ (expBits t + fracBits t) := by
  rw [pow_add]
  nlinarith

theorem codeOf_mod_sign : codeOf t neg ex fr % 2 ^ (expBits t + fracBits t) = ex * 2 ^ fracBits t + fr := by
  rw [codeOf, Nat.add_assoc]
  cases neg <;> simp [Nat.mod_eq_of_lt (magnitude_lt hex hfr)]

theorem codeOf_div_sign : codeOf t neg ex fr / 2 ^ (expBits t + fracBits t) = Bool.code neg := by
  have hmag := Nat.div_eq_of_lt (magnitude_lt hex hfr)
  rw [codeOf, Nat.add_assoc]
  cases neg
  · simpa [Bool.code] using hmag
  · rw [if_pos rfl, Nat.add_div_left _ (Nat.two_pow_pos _), hmag]
    rfl

/-- The value of an encoding with given fields. -/
theorem value_codeOf (ht : isFloat t = true) : value t (codeOf t neg ex fr) =
    if t = .e4m3 ∧ ex = 15 ∧ fr = 7 then .nan
    else if t ≠ .e4m3 ∧ ex = 2 ^ expBits t - 1 then if fr = 0 then .inf neg else .nan
    else if ex = 0 then .fin neg fr (emin t - fracBits t)
    else .fin neg (2 ^ fracBits t + fr) (ex - expBias t - fracBits t) := by
  have hsign : (codeOf t neg ex fr / 2 ^ (expBits t + fracBits t) % 2 = 1) = (neg = true) := by
    rw [codeOf_div_sign hex hfr]
    cases neg <;> decide
  have hexp : codeOf t neg ex fr / 2 ^ fracBits t % 2 ^ expBits t = ex := by
    rw [codeOf_div_frac hfr]
    cases neg <;> simp [Nat.mod_eq_of_lt hex]
  rw [value, if_pos ht]
  simp only [hsign, hexp, codeOf_mod_frac hfr]
  by_cases h : t = .e4m3 <;> simp [h]

end

/-! ### The values that have an encoding -/

/-- k multiples of 2^q, 2^q being a quantum of the format, with as many digits as the rounding of a value to it can have. -/
structure Fits (t : Ty) (k : Nat) (q : ℤ) : Prop where
  quantum_ge : emin t - fracBits t ≤ q
  le : k ≤ 2 ^ (fracBits t + 1)
  normal : emin t - fracBits t < q → 2 ^ fracBits t ≤ k

/-- The largest finite magnitude of a format (R46). -/
def maxRat (t : Ty) : ℚ := maxM t * 2 ^ maxQ t

section
variable {t : Ty} (ht : isFloat t = true) {k : Nat} {q : ℤ} (h : Fits t k q)
include ht h

/-- Whether a rounded value overflows shows in its quantum, and in the largest quantum in its multiple. -/
theorem Fits.maxRat_lt_iff : maxRat t < k * 2 ^ q ↔ maxQ t < q ∨ q = maxQ t ∧ maxM t < k := by
  have hpow : (2 : ℚ) ^ (fracBits t + 1) = 2 ^ fracBits t * 2 := pow_succ ..
  have hmax : (0 : ℚ) < 2 ^ maxQ t := zpow_pos two_pos _
  rcases lt_trichotomy q (maxQ t) with hq | hq | hq
  · refine iff_of_false (not_lt.2 ?_) (by omega)
    calc (k : ℚ) * 2 ^ q ≤ 2 ^ (fracBits t + 1) * 2 ^ (maxQ t - 1) :=
          mul_le_mul (by exact_mod_cast h.le) (zpow_le_zpow_right₀ one_le_two (by omega)) (zpow_pos two_pos _).le (by positivity)
      _ = 2 ^ fracBits t * 2 ^ maxQ t := by rw [hpow, zpow_sub₀ two_ne_zero, zpow_one]; ring
      _ ≤ maxRat t := mul_le_mul_of_nonneg_right (by exact_mod_cast two_pow_fracBits_le_maxM ht) hmax.le
  · subst hq
    rw [maxRat, mul_lt_mul_iff_left₀ hmax, Nat.cast_lt]
    simp
  · refine iff_of_true ?_ (.inl hq)
    have hk : 2 ^ fracBits t ≤ k := h.normal (lt_of_le_of_lt (emin_le_maxQ ht) hq)
    calc maxRat t < 2 ^ (fracBits t + 1) * 2 ^ maxQ t := mul_lt_mul_of_pos_right (by exact_mod_cast maxM_lt ht) hmax
      _ = 2 ^ fracBits t * 2 ^ (maxQ t + 1) := by rw [hpow, zpow_add₀ two_ne_zero, zpow_one]; ring
      _ ≤ k * 2 ^ q := mul_le_mul (by exact_mod_cast hk) (zpow_le_zpow_right₀ one_le_two (by omega)) (by positivity)
        (by positivity)

end

/-! ### The fields that the model gives them (R46) -/

section
variable {t : Ty} (neg : Bool) {k : Nat} {q : ℤ}

theorem encodeF_of_quantum {K : Nat} {Q : ℤ} (hk : k ≠ 0) (hQ : quantum t k q = Q) (hK : roundMag .rtz neg k q Q = K) :
    encodeF t (.fin neg k q) = if K < 2 ^ fracBits t then codeOf t neg 0 K
      else codeOf t neg (Q + fracBits t + expBias t).toNat (K - 2 ^ fracBits t) := by
  subst hQ hK
  simp [encodeF, hk, codeOf]

theorem roundMag_self (rm : Rm) (m : Nat) (e : ℤ) : roundMag rm neg m e e = m := by simp [roundMag]

theorem encodeF_of_lt (hk : k ≠ 0) (hlt : k < 2 ^ fracBits t) :
    encodeF t (.fin neg k (emin t - fracBits t)) = codeOf t neg 0 k := by
  have hlog : Nat.log2 k < fracBits t := (Nat.log2_lt hk).2 hlt
  rw [encodeF_of_quantum neg hk (Q := emin t - fracBits t) (by unfold quantum; omega) (roundMag_self ..), if_pos hlt]

theorem encodeF_of_ge (hlo : 2 ^ fracBits t ≤ k) (hhi : k < 2 ^ (fracBits t + 1)) (hq : emin t - fracBits t ≤ q) :
    encodeF t (.fin neg k q) = codeOf t neg (q + fracBits t + expBias t).toNat (k - 2 ^ fracBits t) := by
  have hk : k ≠ 0 := by have := Nat.two_pow_pos (fracBits t); omega
  have hlog : Nat.log2 k = fracBits t := (Nat.log2_eq_iff hk).2 ⟨hlo, hhi⟩
  rw [encodeF_of_quantum neg hk (Q := q) (by unfold quantum; omega) (roundMag_self ..), if_neg (not_lt.2 hlo)]

/-- A significand that rounding has carried into one digit more is encoded as half of it in the next quantum. -/
theorem encodeF_carry (hq : emin t - fracBits t ≤ q) :
    encodeF t (.fin neg (2 ^ (fracBits t + 1)) q) = encodeF t (.fin neg (2 ^ fracBits t) (q + 1)) := by
  have hlog : Nat.log2 (2 ^ (fracBits t + 1)) = fracBits t + 1 := Nat.log2_two_pow
  have hround : roundMag .rtz neg (2 ^ (fracBits t + 1)) q (q + 1) = 2 ^ fracBits t := by simp [roundMag, pow_succ]
  rw [encodeF_of_quantum neg (Nat.two_pow_pos _).ne' (Q := q + 1) (by unfold quantum; omega) hround, if_neg (lt_irrefl _),
    encodeF_of_ge neg le_rfl (Nat.pow_lt_pow_right one_lt_two (Nat.lt_succ_self _)) (by omega)]

end

/-! ### Such a value is read back from its encoding -/

/-- c is the encoding with that sign of the magnitude x, and its exponent field says whether x is subnormal. -/
def HasCode (t : Ty) (neg : Bool) (x : ℚ) (c : Nat) : Prop :=
  ∃ ex fr m e, ex < 2 ^ expBits t ∧ fr < 2 ^ fracBits t ∧ c = codeOf t neg ex fr ∧ value t c = .fin neg m e
    ∧ (m : ℚ) * 2 ^ e = x ∧ (ex = 0 ↔ x < 2 ^ emin t)

section
variable {t : Ty} (ht : isFloat t = true) (neg : Bool) {k : Nat} {q : ℤ}
include ht

theorem value_codeOf_subnormal (hk : k < 2 ^ fracBits t) : value t (codeOf t neg 0 k) = .fin neg k (emin t - fracBits t) := by
  have hw : 0 ≠ 2 ^ expBits t - 1 := by
    have := Nat.one_lt_two_pow (one_lt_expBits ht).ne_bot
    omega
  rw [value_codeOf (Nat.two_pow_pos _) hk ht, if_neg (by omega), if_neg (fun h => hw h.2), if_pos rfl]

theorem hasCode_subnormal (hk : k < 2 ^ fracBits t) : HasCode t neg (k * 2 ^ (emin t - fracBits t)) (codeOf t neg 0 k) := by
  refine ⟨0, k, k, _, Nat.two_pow_pos _, hk, rfl, value_codeOf_subnormal ht neg hk, rfl, iff_of_true rfl ?_⟩
  rw [zpow_sub₀ two_ne_zero, zpow_natCast, ← mul_div_assoc, div_lt_iff₀ (by positivity), mul_comm]
  exact mul_lt_mul_of_pos_left (by exact_mod_cast hk) (zpow_pos two_pos _)

theorem hasCode_normal (hlo : 2 ^ fracBits t ≤ k) (hhi : k < 2 ^ (fracBits t + 1)) (hq : emin t - fracBits t ≤ q)
    (hmax : q ≤ maxQ t) (htop : q = maxQ t → k ≤ maxM t) :
    HasCode t neg (k * 2 ^ q) (codeOf t neg (q + fracBits t + expBias t).toNat (k - 2 ^ fracBits t)) := by
  set ex := (q + fracBits t + expBias t).toNat with hex
  have hcast : (ex : ℤ) = q + fracBits t + expBias t := Int.toNat_of_nonneg (by unfold emin at hq; omega)
  have hfr : k - 2 ^ fracBits t < 2 ^ fracBits t := by
    rw [pow_succ] at hhi
    omega
  have hex0 : ex ≠ 0 := by
    unfold emin at hq
    omega
  have hexlt : ex < 2 ^ expBits t ∧ (t ≠ .e4m3 → ex ≠ 2 ^ expBits t - 1) := by
    have hmaxQ := maxQ_add_eq ht
    have hpow : ((2 ^ expBits t : ℕ) : ℤ) = 2 ^ expBits t := by push_cast; rfl
    have hpos : 0 < 2 ^ expBits t := Nat.two_pow_pos _
    split_ifs at hmaxQ with he
    · exact ⟨by omega, fun hne => absurd he hne⟩
    · exact ⟨by omega, fun _ => by omega⟩
  have htop' : ¬ (t = .e4m3 ∧ ex = 15 ∧ k - 2 ^ fracBits t = 7) := by
    rintro ⟨rfl, h15, h7⟩
    have hk : k ≤ 14 := htop (by simp only [fracBits, expBias, maxQ] at hcast ⊢; omega)
    simp only [fracBits] at h7
    omega
  refine ⟨ex, k - 2 ^ fracBits t, k, q, hexlt.1, hfr, rfl, ?_, rfl, iff_of_false hex0 (not_lt.2 ?_)⟩
  · rw [value_codeOf hexlt.1 hfr ht, if_neg htop', if_neg (fun h => hexlt.2 h.1 h.2), if_neg hex0, Nat.add_sub_cancel' hlo]
    congr 1
    omega
  · calc (2 : ℚ) ^ emin t = 2 ^ fracBits t * 2 ^ (emin t - fracBits t) := by
          rw [zpow_sub₀ two_ne_zero, zpow_natCast, mul_div_cancel₀ _ (by positivity)]
      _ ≤ k * 2 ^ q := mul_le_mul (by exact_mod_cast hlo) (zpow_le_zpow_right₀ one_le_two hq) (by positivity) (by positivity)

theorem hasCode_encodeF (h : Fits t k q) (hmax : k * 2 ^ q ≤ maxRat t) :
    HasCode t neg (k * 2 ^ q) (encodeF t (.fin neg k q)) := by
  have hover := mt (h.maxRat_lt_iff ht).2 (not_lt.2 hmax)
  obtain ⟨hquantum, hle, hnormal⟩ := h
  rcases Nat.lt_or_ge k (2 ^ fracBits t) with hlt | hlo
  · rcases Nat.eq_zero_or_pos k with rfl | hpos
    · simpa [encodeF, codeOf] using hasCode_subnormal ht neg hlt
    · obtain rfl : emin t - fracBits t = q := by omega
      rw [encodeF_of_lt neg hpos.ne' hlt]
      exact hasCode_subnormal ht neg hlt
  · rcases hle.lt_or_eq with hhi | rfl
    · rw [encodeF_of_ge neg hlo hhi hquantum]
      exact hasCode_normal ht neg hlo hhi hquantum (by omega) (by omega)
    · have hsame : ((2 ^ (fracBits t + 1) : ℕ) : ℚ) * 2 ^ q = (2 ^ fracBits t : ℕ) * 2 ^ (q + 1) := by
        rw [zpow_add₀ two_ne_zero, zpow_one]
        push_cast
        ring
      have hsucc : 2 ^ fracBits t < 2 ^ (fracBits t + 1) := Nat.pow_lt_pow_right one_lt_two (Nat.lt_succ_self _)
      have hmaxM := maxM_lt ht
      rw [encodeF_carry neg hquantum, encodeF_of_ge neg le_rfl hsucc (by omega), hsame]
      exact hasCode_normal ht neg le_rfl hsucc (by omega) (by omega) (fun _ => two_pow_fracBits_le_maxM ht)

/-! ### NaNs, infinities and the largest finite value (R46, R47) -/

theorem value_encodeF_inf : value t (encodeF t (.inf neg)) = if t = .e4m3 then .nan else .inf neg := by
  revert ht
  cases t <;> cases neg <;> decide

theorem value_encodeF_maxNum : value t (encodeF t (maxNum t neg)) = maxNum t neg := by
  revert ht
  cases t <;> cases neg <;> decide

omit neg in
theorem fits_maxM : Fits t (maxM t) (maxQ t) :=
  ⟨emin_le_maxQ ht, (maxM_lt ht).le, fun _ => two_pow_fracBits_le_maxM ht⟩

theorem value_encodeF_satF_inf (sat : Bool) : value t (encodeF t (satF t sat (.inf neg))) = infOf t sat neg := by
  cases sat
  · exact value_encodeF_inf ht neg
  · exact value_encodeF_maxNum ht neg

end

end Sys2Proof.Machine
end

section
/-! PROOFS. Rounding to a floating-point format, overflow, saturation and quotients (R50 to R52, R171). -/

namespace Sys2Proof.Machine

/-! ### The binade of a value and its quantum (R50) -/

theorem two_zpow_log2_le {m : Nat} (hm : m ≠ 0) (e : ℤ) : (2 : ℚ) ^ ((Nat.log2 m : ℤ) + e) ≤ m * 2 ^ e := by
  rw [zpow_add₀ two_ne_zero, zpow_natCast]
  exact mul_le_mul_of_nonneg_right (by exact_mod_cast Nat.log2_self_le hm) (zpow_pos two_pos e).le

theorem lt_two_zpow_log2 (m : Nat) (e : ℤ) : (m : ℚ) * 2 ^ e < 2 ^ ((Nat.log2 m : ℤ) + e + 1) := by
  rw [add_right_comm, zpow_add₀ two_ne_zero]
  exact mul_lt_mul_of_pos_right (by exact_mod_cast Nat.lt_log2_self) (zpow_pos two_pos e)

/-- A value of the binade l, rounded at its quantum. -/
theorem fits_of_picks {t : Ty} {rm : Rm} {neg : Bool} {x : ℚ} {l : ℤ} {k : Nat} (hlo : 2 ^ l ≤ x) (hhi : x < 2 ^ (l + 1))
    (hk : Picks rm neg (x / 2 ^ (max l (emin t) - fracBits t)) k) : Fits t k (max l (emin t) - fracBits t) := by
  refine ⟨by omega, hk.le_of_le ?_, fun hq => hk.ge_of_ge ?_⟩
  · rw [div_le_iff₀ (zpow_pos two_pos _), Nat.cast_pow, Nat.cast_two, ← zpow_natCast, ← zpow_add₀ two_ne_zero]
    exact hhi.le.trans (zpow_le_zpow_right₀ one_le_two (by push_cast; omega))
  · rw [le_div_iff₀ (zpow_pos two_pos _), Nat.cast_pow, Nat.cast_two, ← zpow_natCast, ← zpow_add₀ two_ne_zero]
    exact (zpow_le_zpow_right₀ one_le_two (by omega)).trans hlo

/-- The multiple k of the quantum at m × 2^e, or what overflow gives in its place (R50). -/
def roundedTo (t : Ty) (rm : Rm) (neg : Bool) (q : ℤ) (k : Nat) : Num :=
  if maxQ t < q || (q = maxQ t && maxM t < k) then overflow t rm neg else .fin neg k q

theorem Fits.roundedTo_eq {t : Ty} (ht : isFloat t = true) (rm : Rm) (neg : Bool) {q : ℤ} {k : Nat} (h : Fits t k q) :
    roundedTo t rm neg q k = if maxRat t < k * 2 ^ q then overflow t rm neg else .fin neg k q :=
  if_congr (by simp [h.maxRat_lt_iff ht]) rfl rfl

section
variable {t : Ty} (rm : Rm) (neg : Bool) {m : Nat} (e : ℤ) (hm : m ≠ 0)
include hm

theorem fits_of_picks_quantum {k : Nat} (hk : Picks rm neg (m * 2 ^ e / 2 ^ quantum t m e) k) : Fits t k (quantum t m e) :=
  fits_of_picks (two_zpow_log2_le hm e) (lt_two_zpow_log2 m e) hk

theorem div_lt_half {q : ℤ} (h : Nat.log2 m + e < q - 1) :
    (0 : ℚ) < m * 2 ^ e / 2 ^ q ∧ (m : ℚ) * 2 ^ e / 2 ^ q < 2 ^ (-1 : ℤ) := by
  refine ⟨div_pos (mul_pos (Nat.cast_pos.2 (Nat.pos_of_ne_zero hm)) (zpow_pos two_pos e)) (zpow_pos two_pos q), ?_⟩
  rw [div_lt_iff₀ (zpow_pos two_pos q), ← zpow_add₀ two_ne_zero, neg_add_eq_sub]
  exact (lt_two_zpow_log2 m e).trans_le (zpow_le_zpow_right₀ one_le_two (by omega))

/-- Below half of the quantum every value rounds as every other does. -/
theorem picks_of_lt_half {q g : ℤ} (h : Nat.log2 m + e < q - 1) (hg : g < q - 1) :
    Picks rm neg (m * 2 ^ e / 2 ^ q) (roundMag rm neg 1 g q) := by
  have hone : Nat.log2 1 = 0 := by decide
  have hside : SameSide (-1) (m * 2 ^ e / 2 ^ q) ((1 : ℕ) * 2 ^ g / 2 ^ q) :=
    sameSide_of_between (n := 0) (by simpa using div_lt_half e hm h) (by simpa using div_lt_half (m := 1) g one_ne_zero (by omega))
  exact hside.picks_iff.2 (picks_roundMag ..)

theorem roundF_of_huge (h : maxQ t + fracBits t + 2 ≤ Nat.log2 m + e) : roundF t rm (.fin neg m e) = overflow t rm neg := by
  obtain ⟨m, rfl⟩ := Nat.exists_eq_succ_of_ne_zero hm
  simp only [roundF, if_pos h]

theorem roundF_of_tiny (h : ¬ maxQ t + fracBits t + 2 ≤ Nat.log2 m + e) (htiny : Nat.log2 m + e < emin t - fracBits t - 2) :
    roundF t rm (.fin neg m e)
      = roundedTo t rm neg (emin t - fracBits t) (roundMag rm neg 1 (emin t - fracBits t - 3) (emin t - fracBits t)) := by
  obtain ⟨m, rfl⟩ := Nat.exists_eq_succ_of_ne_zero hm
  have hq : quantum t 1 (emin t - fracBits t - 3) = emin t - fracBits t := by
    have hlog : Nat.log2 1 = 0 := by decide
    unfold quantum
    omega
  simp only [roundF, if_neg h, if_pos htiny, hq, roundedTo]

theorem roundF_of_mid (h : ¬ maxQ t + fracBits t + 2 ≤ Nat.log2 m + e) (htiny : ¬ Nat.log2 m + e < emin t - fracBits t - 2) :
    roundF t rm (.fin neg m e) = roundedTo t rm neg (quantum t m e) (roundMag rm neg m e (quantum t m e)) := by
  obtain ⟨m, rfl⟩ := Nat.exists_eq_succ_of_ne_zero hm
  simp only [roundF, if_neg h, if_neg htiny, roundedTo]

/-- A nonzero finite value is rounded to the multiple of its quantum that the mode picks, unless that is above the largest value. -/
theorem roundF_fin (ht : isFloat t = true) : ∃ k, Picks rm neg (m * 2 ^ e / 2 ^ quantum t m e) k ∧ roundF t rm (.fin neg m e)
    = if maxRat t < k * 2 ^ quantum t m e then overflow t rm neg else .fin neg k (quantum t m e) := by
  have hfits {k : Nat} (hk : Picks rm neg (m * 2 ^ e / 2 ^ quantum t m e) k) := fits_of_picks_quantum rm neg e hm hk
  by_cases hhuge : maxQ t + fracBits t + 2 ≤ Nat.log2 m + e
  · have hk := picks_roundMag rm neg m e (quantum t m e)
    have hover := ((hfits hk).maxRat_lt_iff ht).2 (.inl (by unfold quantum; omega))
    exact ⟨_, hk, by rw [roundF_of_huge rm neg e hm hhuge, if_pos hover]⟩
  · by_cases htiny : Nat.log2 m + e < emin t - fracBits t - 2
    · have hq : quantum t m e = emin t - fracBits t := by
        unfold quantum
        omega
      have hk := picks_of_lt_half rm neg e hm (q := quantum t m e) (g := emin t - fracBits t - 3) (by omega) (by omega)
      exact ⟨_, hk, by rw [roundF_of_tiny rm neg e hm hhuge htiny, ← hq, (hfits (hq ▸ hk)).roundedTo_eq ht rm neg]⟩
    · have hk := picks_roundMag rm neg m e (quantum t m e)
      exact ⟨_, hk, by rw [roundF_of_mid rm neg e hm hhuge htiny, (hfits hk).roundedTo_eq ht rm neg]⟩

end

/-! ### The quotient that the model forms (R54, R171) -/

/-- The quotient Q × 2^E with R left over, lies R / n of a unit above Q × 2^E. -/
theorem quotient_eq (m n sh : Nat) (e g : ℤ) (hn : n ≠ 0) : (m : ℚ) * 2 ^ e / (n * 2 ^ g)
    = ((m * 2 ^ sh / n : ℕ) + (m * 2 ^ sh % n : ℕ) / (n : ℚ)) * 2 ^ (e - g - sh) := by
  have hn' : (n : ℚ) ≠ 0 := Nat.cast_ne_zero.2 hn
  have hdiv : ((m * 2 ^ sh / n : ℕ) : ℚ) * n + (m * 2 ^ sh % n : ℕ) = m * 2 ^ sh := by
    exact_mod_cast Nat.div_add_mod' (m * 2 ^ sh) n
  rw [zpow_sub₀ two_ne_zero, zpow_sub₀ two_ne_zero, zpow_natCast]
  field_simp
  linear_combination -hdiv

theorem two_pow_le_quotient {m n : Nat} (hm : m ≠ 0) (hn : n ≠ 0) : 2 ^ 127 ≤ m * 2 ^ (128 + Nat.log2 n) / n := by
  rw [Nat.le_div_iff_mul_le (Nat.pos_of_ne_zero hn)]
  calc 2 ^ 127 * n ≤ 2 ^ 127 * 2 ^ (Nat.log2 n + 1) := Nat.mul_le_mul_left _ Nat.lt_log2_self.le
    _ = 2 ^ (128 + Nat.log2 n) := by rw [← pow_add]; congr 1; omega
    _ ≤ m * 2 ^ (128 + Nat.log2 n) := Nat.le_mul_of_pos_left _ (Nat.pos_of_ne_zero hm)

/-! ### What is encoded (R50 to R52) -/

@[simp] theorem flushF_false (t : Ty) (x : Num) : flushF t false x = x := by cases x <;> rfl

@[simp] theorem satF_fin (t : Ty) (sat neg : Bool) (m : Nat) (e : ℤ) : satF t sat (.fin neg m e) = .fin neg m e := by
  cases sat <;> rfl

@[simp] theorem satF_nan (t : Ty) (sat : Bool) : satF t sat .nan = .nan := by cases sat <;> rfl

theorem finish_false (t : Ty) (rm : Rm) (sat : Bool) (x : Num) :
    finish t rm sat false x = encodeF t (satF t sat (roundF t rm x)) := by rw [finish, flushF_false]

theorem overflow_eq (t : Ty) (rm : Rm) (neg : Bool) : overflow t rm neg
    = if rm = .rtz ∨ (rm = .rup ∧ neg = true) ∨ (rm = .rdn ∧ neg = false) then maxNum t neg else .inf neg := by
  cases rm <;> cases neg <;> rfl

section
variable {t : Ty} (ht : isFloat t = true) (rm : Rm) (sat neg : Bool) {m : Nat} {e : ℤ}
include ht

theorem value_encodeF_satF_overflow : value t (encodeF t (satF t sat (overflow t rm neg)))
    = if rm = .rtz ∨ (rm = .rup ∧ neg = true) ∨ (rm = .rdn ∧ neg = false) then maxNum t neg else infOf t sat neg := by
  rw [overflow_eq]
  split_ifs
  · rw [maxNum, satF_fin]
    exact value_encodeF_maxNum ht neg
  · exact value_encodeF_satF_inf ht neg sat

/-- Of a value that no half of a quantum tells from m × 2^e, what the model encodes for m × 2^e is the rounding. -/
theorem rounds_finish (hm : m ≠ 0) {x : ℚ} (hx : SameSide (Nat.log2 m + e - 53) x (m * 2 ^ e)) :
    Rounds t rm sat neg x (finish t rm sat false (.fin neg m e)) := by
  have hf := fracBits_le ht
  have hq : quantum t m e = max (Nat.log2 m + e) (emin t) - fracBits t := rfl
  obtain ⟨k, hk, hround⟩ := roundF_fin rm neg e hm ht
  have hfits := fits_of_picks_quantum rm neg e hm hk
  have hside : SameSide (-1) (x / 2 ^ quantum t m e) (m * 2 ^ e / 2 ^ quantum t m e) := by
    have := (hx.mono (q := quantum t m e - 1) (by omega)).div (q := quantum t m e)
    rwa [sub_right_comm, sub_self, zero_sub] at this
  refine ⟨Nat.log2 m + e, k, (hx.two_zpow_le (by omega)).2 (two_zpow_log2_le hm e),
    lt_of_not_ge (mt (hx.two_zpow_le (by omega)).1 (not_le.2 (lt_two_zpow_log2 m e))), hside.picks_iff.2 hk,
    fun (hle : (k : ℚ) * 2 ^ quantum t m e ≤ maxRat t) => ?_, fun (hlt : maxRat t < k * 2 ^ quantum t m e) => ?_⟩
  · rw [finish_false, hround, if_neg (not_lt.2 hle), satF_fin]
    obtain ⟨_, _, m', e', _, _, _, hval, hmag, _⟩ := hasCode_encodeF ht neg hfits hle
    exact ⟨m', e', hval, hmag⟩
  · rw [finish_false, hround, if_pos hlt]
    exact value_encodeF_satF_overflow ht rm sat neg

theorem value_finish_zero (e : ℤ) : value t (finish t rm sat false (.fin neg 0 e)) = .fin neg 0 (emin t - fracBits t) := by
  have hcode : finish t rm sat false (.fin neg 0 e) = codeOf t neg 0 0 := by simp [finish_false, roundF, encodeF, codeOf]
  rw [hcode, value_codeOf_subnormal ht neg (Nat.two_pow_pos _)]

omit ht in
theorem finish_nan : finish t rm sat false .nan = canonNaN t := by simp [finish_false, roundF, encodeF]

theorem value_finish_inf : value t (finish t rm sat false (.inf neg)) = infOf t sat neg := by
  rw [finish_false, roundF]
  exact value_encodeF_satF_inf ht neg sat

theorem rounds_finish_div {a b : Bool} {m n : Nat} {e g : ℤ} (hm : m ≠ 0) (hn : n ≠ 0) :
    Rounds t rm sat (a != b) (m * 2 ^ e / (n * 2 ^ g)) (finish t rm sat false ((Num.fin a m e).div (.fin b n g))) := by
  have hbig := two_pow_le_quotient hm hn
  have heq := quotient_eq m n (128 + Nat.log2 n) e g hn
  have hR : m * 2 ^ (128 + Nat.log2 n) % n < n := Nat.mod_lt _ (Nat.pos_of_ne_zero hn)
  simp only [Num.div, if_neg hn, inexact]
  push_cast at heq ⊢
  set Q := m * 2 ^ (128 + Nat.log2 n) / n
  set R := m * 2 ^ (128 + Nat.log2 n) % n
  set E : ℤ := e - g - (128 + Nat.log2 n)
  have hE : (0 : ℚ) < 2 ^ E := zpow_pos two_pos E
  split_ifs with hmore
  · have hn0 : (0 : ℚ) < n := Nat.cast_pos.2 (Nat.pos_of_ne_zero hn)
    have hR0 : (0 : ℚ) < R / n := div_pos (Nat.cast_pos.2 (Nat.pos_of_ne_zero (bne_iff_ne.1 hmore))) hn0
    have hR1 : (R / n : ℚ) < 1 := (div_lt_one hn0).2 (Nat.cast_lt.2 hR)
    have hodd : ((2 * Q + 1 : ℕ) : ℚ) * 2 ^ (E - 1) = (Q + 1 / 2) * 2 ^ E := by
      rw [zpow_sub₀ two_ne_zero, zpow_one]
      push_cast
      ring
    have hlog : 128 ≤ Nat.log2 (2 * Q + 1) := (Nat.le_log2 (by omega)).2 (by omega)
    refine rounds_finish ht rm sat _ (by omega) (SameSide.mono (p := E) (sameSide_of_between (n := Q) ?_ ?_) (by omega))
    · rw [heq]
      constructor <;> rw [Int.cast_natCast, mul_lt_mul_iff_left₀ hE] <;> linarith
    · rw [hodd]
      constructor <;> rw [Int.cast_natCast, mul_lt_mul_iff_left₀ hE] <;> linarith
  · have hzero : R = 0 := by simpa using hmore
    rw [heq, hzero, Nat.cast_zero, zero_div, add_zero]
    exact rounds_finish ht rm sat _ (by omega) (.refl _ _)

end

end Sys2Proof.Machine
end

section
/-! PROOFS. Results flushed in exposed mode (R53). -/

namespace Sys2Proof.Machine

theorem flushF_of_not_isFP {t : Ty} (h : isFP t = false) (on : Bool) (x : Num) : flushF t on x = x := by
  cases x <;> simp [flushF, h]

/-- A value that the format has an encoding for, in the quantum that rounding gives it. -/
def Representable (t : Ty) : Num → Prop
  | .fin _ k q => k = 0 ∨ Fits t k q ∧ k * 2 ^ q ≤ maxRat t
  | _ => True

section
variable {t : Ty} (ht : isFloat t = true)
include ht

theorem representable_maxNum (neg : Bool) : Representable t (maxNum t neg) := .inr ⟨fits_maxM ht, le_rfl⟩

theorem Representable.satF {x : Num} (h : Representable t x) (sat : Bool) : Representable t (satF t sat x) := by
  cases sat
  · exact h
  · cases x with
    | nan => exact h
    | inf neg => exact representable_maxNum ht neg
    | fin => exact h

theorem representable_roundF (rm : Rm) (x : Num) : Representable t (roundF t rm x) := by
  cases x with
  | nan | inf => trivial
  | fin neg m e =>
    rcases eq_or_ne m 0 with rfl | hm
    · exact .inl rfl
    · obtain ⟨k, hk, hround⟩ := roundF_fin rm neg e hm ht
      rw [hround]
      split_ifs with hover
      · rw [overflow_eq]
        split_ifs
        · exact representable_maxNum ht neg
        · trivial
      · exact .inr ⟨fits_of_picks_quantum rm neg e hm hk, not_lt.1 hover⟩

end

/-! ### Zero of the same sign in place of a subnormal -/

/-- The encoding c with its magnitude cleared where its exponent field is zero. -/
def clearSubnormal (t : Ty) (c : Nat) : Nat :=
  if c % 2 ^ (expBits t + fracBits t) < 2 ^ fracBits t then c / 2 ^ (expBits t + fracBits t) * 2 ^ (expBits t + fracBits t) else c

theorem clearSubnormal_codeOf {t : Ty} (neg : Bool) {ex fr : Nat} (hex : ex < 2 ^ expBits t) (hfr : fr < 2 ^ fracBits t) :
    clearSubnormal t (codeOf t neg ex fr) = if ex = 0 then codeOf t neg 0 0 else codeOf t neg ex fr := by
  have hzero : ex * 2 ^ fracBits t + fr < 2 ^ fracBits t ↔ ex = 0 := by
    refine ⟨fun h => Nat.eq_zero_of_not_pos fun hpos => ?_, fun h => by simpa [h] using hfr⟩
    have := Nat.le_mul_of_pos_left (2 ^ fracBits t) hpos
    omega
  have hsign : Bool.code neg * 2 ^ (expBits t + fracBits t) = codeOf t neg 0 0 := by cases neg <;> simp [Bool.code, codeOf]
  rw [clearSubnormal, codeOf_mod_sign hex hfr, codeOf_div_sign hex hfr, hsign]
  exact if_congr hzero rfl rfl

theorem lt_two_zpow_iff {m : Nat} (hm : m ≠ 0) {e p : ℤ} : (m : ℚ) * 2 ^ e < 2 ^ p ↔ (Nat.log2 m : ℤ) + e < p := by
  refine ⟨fun h => ?_, fun h => (lt_two_zpow_log2 m e).trans_le (zpow_le_zpow_right₀ one_le_two h)⟩
  exact lt_of_not_ge fun hle => absurd h (not_lt.2 ((zpow_le_zpow_right₀ one_le_two hle).trans (two_zpow_log2_le hm e)))

theorem encodeF_zero (t : Ty) (neg : Bool) (e : ℤ) : encodeF t (.fin neg 0 e) = codeOf t neg 0 0 := by simp [encodeF, codeOf]

theorem encodeF_flushF {t : Ty} (h : isFP t = true) {x : Num} (hx : Representable t x) :
    encodeF t (flushF t true x) = clearSubnormal t (encodeF t x) := by
  have ht := isFloat_of_isFP h
  cases x with
  | nan =>
    revert h
    cases t <;> decide
  | inf neg =>
    revert h
    cases t <;> cases neg <;> decide
  | fin neg k q =>
    rcases eq_or_ne k 0 with rfl | hk
    · have hkeep : flushF t true (.fin neg 0 q) = .fin neg 0 q := by simp [flushF]
      rw [hkeep, encodeF_zero, clearSubnormal_codeOf neg (Nat.two_pow_pos _) (Nat.two_pow_pos _), if_pos rfl]
    · obtain ⟨hfits, hmax⟩ := hx.resolve_left hk
      obtain ⟨ex, fr, _, _, hex, hfr, hcode, _, _, hsub⟩ := hasCode_encodeF ht neg hfits hmax
      have hflush : flushF t true (.fin neg k q) = if ex = 0 then .fin neg 0 0 else .fin neg k q := by
        simp [flushF, h, hk, hsub, lt_two_zpow_iff hk]
      rw [hflush, hcode, clearSubnormal_codeOf neg hex hfr]
      split_ifs
      · exact encodeF_zero ..
      · exact hcode

theorem finish_true {t : Ty} (ht : isFloat t = true) (rm : Rm) (sat : Bool) (x : Num) :
    finish t rm sat true x = if isFP t = true then clearSubnormal t (finish t rm sat false x) else finish t rm sat false x := by
  rw [finish_false, finish]
  split_ifs with h
  · exact encodeF_flushF h ((representable_roundF ht rm x).satF ht sat)
  · rw [flushF_of_not_isFP (by simpa using h)]

end Sys2Proof.Machine
end

section
/-! PROOFS. Exact sums (R52, R56). -/

namespace Sys2Proof.Machine

/-- The sum of finite terms so far: no NaN and no infinity, its value, and whether every term is −0. -/
structure Sum.IsSumOf (s : Sum) (l : List (Bool × Nat × ℤ)) : Prop where
  nan : s.nan = false
  pinf : s.pinf = false
  ninf : s.ninf = false
  value : (s.m : ℚ) * 2 ^ s.e = (l.map (fun p => ratOf p.1 p.2.1 p.2.2)).sum
  neg : s.neg = l.all (fun p => p.1 && p.2.1 == 0)

theorem signed_cast (neg : Bool) (m : Nat) (e : ℤ) : (signed neg m : ℚ) * 2 ^ e = ratOf neg m e := by
  cases neg <;> simp [signed, ratOf]

theorem signed_natAbs (v : ℤ) : signed (decide (v < 0)) v.natAbs = v := by
  unfold signed
  split_ifs with h <;> rw [decide_eq_true_iff] at h <;> omega

theorem Sum.IsSumOf.add {s : Sum} {l : List (Bool × Nat × ℤ)} (h : s.IsSumOf l) (p : Bool × Nat × ℤ) :
    (s.add (.fin p.1 p.2.1 p.2.2)).IsSumOf (l ++ [p]) := by
  obtain ⟨hnan, hpinf, hninf, hvalue, hneg⟩ := h
  obtain ⟨neg, m, e⟩ := p
  have hzero : ratOf neg 0 e = 0 := by simp [ratOf]
  simp only [Sum.add]
  split_ifs with hm hs he
  · subst hm
    exact ⟨hnan, hpinf, hninf, by simp [hvalue, hzero], by simp [hneg]⟩
  · have hprev : (l.map (fun p => ratOf p.1 p.2.1 p.2.2)).sum = 0 := by rw [← hvalue, hs, Int.cast_zero, zero_mul]
    exact ⟨hnan, hpinf, hninf, by simp [hprev, signed_cast], by simp [hm]⟩
  · refine ⟨hnan, hpinf, hninf, ?_, by simp [hm]⟩
    rw [List.map_append, List.sum_append, ← hvalue, two_zpow_eq_mul he]
    simp [add_mul, signed_cast, mul_assoc]
  · refine ⟨hnan, hpinf, hninf, ?_, by simp [hm]⟩
    rw [List.map_append, List.sum_append, ← hvalue]
    simp [add_mul, ← signed_cast, mul_assoc, two_zpow_eq_mul (not_le.1 he).le]

theorem Sum.isSumOf_foldl (l l' : List (Bool × Nat × ℤ)) {s : Sum} (h : s.IsSumOf l') :
    ((l.map (fun p => Num.fin p.1 p.2.1 p.2.2)).foldl Sum.add s).IsSumOf (l' ++ l) := by
  induction l generalizing s l' with
  | nil => simpa using h
  | cons p l ih => simpa using ih (l' ++ [p]) (h.add p)

theorem Sum.IsSumOf.total {s : Sum} {l : List (Bool × Nat × ℤ)} (h : s.IsSumOf l) (rm : Rm) : ∃ neg m e,
    s.total rm = .fin neg m e
    ∧ ratOf neg m e = (l.map (fun p => ratOf p.1 p.2.1 p.2.2)).sum
    ∧ (m = 0 → neg = (decide (rm = .rdn) || l.all (fun p => p.1 && p.2.1 == 0))) := by
  obtain ⟨hnan, hpinf, hninf, hvalue, hneg⟩ := h
  simp only [Sum.total, hnan, hpinf, hninf, Bool.false_and, Bool.or_false, Bool.false_eq_true, if_false]
  split_ifs with hm
  · exact ⟨_, _, _, rfl, by rw [← hvalue, hm]; simp [ratOf], fun _ => by rw [hneg]⟩
  · refine ⟨_, _, _, rfl, ?_, fun h => absurd (Int.natAbs_eq_zero.1 h) hm⟩
    rw [← signed_cast, signed_natAbs, hvalue]

theorem sumOf_fin (l : List (Bool × Nat × ℤ)) (rm : Rm) : ∃ neg m e,
    sumOf (l.map (fun p => .fin p.1 p.2.1 p.2.2)) rm = .fin neg m e
    ∧ ratOf neg m e = (l.map (fun p => ratOf p.1 p.2.1 p.2.2)).sum
    ∧ (m = 0 → neg = (decide (rm = .rdn) || l.all (fun p => p.1 && p.2.1 == 0))) :=
  (Sum.isSumOf_foldl l [] ⟨rfl, rfl, rfl, by simp, rfl⟩).total rm

end Sys2Proof.Machine
end

section
/-! PROOFS. Conversions with an integer side (R48, R55). -/

namespace Sys2Proof.Machine

/-! ### Integers of a format (R48) -/

theorem width_pos (t : Ty) : 0 < t.width := by cases t <;> decide

theorem intValue_mod (t : Ty) (x : Nat) : intValue t (x % 2 ^ t.width) = intValue t x := by simp [intValue]

/-- A wrapped integer is the same modulo 2^n. -/
theorem wrapInt_cast (t : Ty) (sat : Bool) (v : ℤ) :
    (wrapInt t sat v : ℤ) = (if sat then max (intRange t).1 (min (intRange t).2 v) else v) % 2 ^ t.width :=
  Int.toNat_of_nonneg (Int.emod_nonneg _ (by positivity))

theorem two_pow_width (t : Ty) : (2 : ℤ) ^ t.width = 2 * ((2 ^ (t.width - 1) : ℕ) : ℤ) := by
  rw [Nat.cast_pow, Nat.cast_two, ← pow_succ', Nat.sub_add_cancel (width_pos t)]

/-- The range of a format in terms of half of 2^n. -/
theorem intRange_eq (t : Ty) : intRange t =
    if isSigned t then (-((2 ^ (t.width - 1) : ℕ) : ℤ), ((2 ^ (t.width - 1) : ℕ) : ℤ) - 1)
    else (0, 2 * ((2 ^ (t.width - 1) : ℕ) : ℤ) - 1) := by
  rw [intRange, two_pow_width]
  push_cast
  rfl

theorem intRange_le (t : Ty) : (intRange t).1 ≤ 0 ∧ 0 ≤ (intRange t).2 := by
  have hpos := Nat.two_pow_pos (t.width - 1)
  rw [intRange_eq]
  split_ifs <;> constructor <;> simp only <;> omega

theorem emod_two_mul_eq {v P : ℤ} (hlo : -P ≤ v) (hhi : v < 2 * P) : v % (2 * P) = if v < 0 then v + 2 * P else v := by
  split_ifs with hv
  · rw [← Int.add_emod_right, Int.emod_eq_of_lt (by omega) (by omega)]
  · exact Int.emod_eq_of_lt (by omega) hhi

theorem intValue_of_lt {t : Ty} {x : Nat} (h : x < 2 ^ t.width) :
    intValue t x = if isSigned t && 2 ^ (t.width - 1) ≤ x then (x : ℤ) - 2 ^ t.width else x := by
  simp only [intValue, Nat.mod_eq_of_lt h]

/-- An integer of the format's range is read back from its n bits. -/
theorem intValue_toNat_emod {t : Ty} {v : ℤ} (hlo : (intRange t).1 ≤ v) (hhi : v ≤ (intRange t).2) :
    intValue t (v % 2 ^ t.width).toNat = v := by
  have hlt : (v % 2 ^ t.width).toNat < 2 ^ t.width := by
    rw [Int.toNat_lt (Int.emod_nonneg _ (by positivity)), Nat.cast_pow, Nat.cast_two]
    exact Int.emod_lt_of_pos v (by positivity)
  rw [intRange_eq] at hlo hhi
  rw [intValue_of_lt hlt, two_pow_width]
  generalize 2 ^ (t.width - 1) = P at hlo hhi ⊢
  cases hs : isSigned t
  · simp only [hs, Bool.false_eq_true, if_false] at hlo hhi
    have hv : ¬ v < 0 := by omega
    rw [emod_two_mul_eq (by omega) (by omega), if_neg hv, Bool.false_and, if_neg Bool.false_ne_true]
    omega
  · simp only [hs, if_true] at hlo hhi
    rw [emod_two_mul_eq (by omega) (by omega)]
    simp only [Bool.true_and, decide_eq_true_eq]
    split_ifs <;> omega

theorem intValue_wrapInt_sat (t : Ty) (v : ℤ) : intValue t (wrapInt t true v) = max (intRange t).1 (min (intRange t).2 v) := by
  refine intValue_toNat_emod (le_max_left _ _) (max_le ?_ (min_le_left _ _))
  exact (intRange_le t).1.trans (intRange_le t).2

/-! ### A value rounded to an integer format (R55) -/

theorem intRange_lt (t : Ty) : -2 ^ 64 < (intRange t).1 ∧ (intRange t).2 < 2 ^ 64 := by cases t <;> decide

section
variable (t : Ty) (rm : Rm) (neg : Bool)

theorem intValue_toIntFmt_inf : intValue t (toIntFmt t rm (.inf neg)) = if neg then (intRange t).1 else (intRange t).2 := by
  have hle := intRange_le t
  rw [toIntFmt, intValue_wrapInt_sat]
  cases neg <;> simp only [Bool.false_eq_true, if_true, if_false] <;> omega

theorem intValue_toIntFmt_fin (m : Nat) (e : ℤ) : ∃ k, Picks rm neg (m * 2 ^ e) k
    ∧ intValue t (toIntFmt t rm (.fin neg m e)) = max (intRange t).1 (min (intRange t).2 (if neg then -(k : ℤ) else k)) := by
  have hle := intRange_le t
  have hunit {k : Nat} (hk : Picks rm neg (m * 2 ^ e / 2 ^ (0 : ℤ)) k) : Picks rm neg (m * 2 ^ e) k := by simpa using hk
  have hpick := hunit (picks_roundMag rm neg m e 0)
  by_cases hm : m = 0
  · subst hm
    refine ⟨0, by simpa using picks_self rm neg 0, ?_⟩
    have hzero : intValue t 0 = 0 := by simp [intValue]
    rw [toIntFmt, if_pos rfl, hzero]
    cases neg <;> simp only [Bool.false_eq_true, if_true, if_false] <;> omega
  by_cases hfar : 70 < (Nat.log2 m : ℤ) + e
  · refine ⟨roundMag rm neg m e 0, hpick, ?_⟩
    have hbig : 2 ^ 64 ≤ roundMag rm neg m e 0 := hpick.ge_of_ge <| by
      rw [Nat.cast_pow, Nat.cast_two, ← zpow_natCast]
      exact (zpow_le_zpow_right₀ one_le_two (by push_cast; omega)).trans (two_zpow_log2_le hm e)
    have hlt := intRange_lt t
    rw [toIntFmt, if_neg hm, if_pos hfar, intValue_wrapInt_sat]
    cases neg <;> simp only [Bool.false_eq_true, if_true, if_false] <;> omega
  by_cases htiny : (Nat.log2 m : ℤ) + e < -4
  · refine ⟨roundMag rm neg 1 (-5) 0, hunit (picks_of_lt_half rm neg e hm (by omega) (by omega)), ?_⟩
    simp only [toIntFmt, if_neg hm, if_neg hfar, if_pos htiny, intValue_wrapInt_sat]
    rfl
  · refine ⟨roundMag rm neg m e 0, hpick, ?_⟩
    simp only [toIntFmt, if_neg hm, if_neg hfar, if_neg htiny, intValue_wrapInt_sat]
    rfl

end

/-! ### The table of conversions (R55) -/

theorem div_mod_two_pow_of_le {a b n : Nat} (h : a + b ≤ n) (x : Nat) : x % 2 ^ n / 2 ^ a % 2 ^ b = x / 2 ^ a % 2 ^ b := by
  refine Nat.eq_of_testBit_eq fun i => ?_
  simp only [Nat.testBit_mod_two_pow, Nat.testBit_div_two_pow]
  by_cases hi : i < b
  · simp [show i + a < n by omega]
  · simp [hi]

/-- Only the bits of the format count for the value of an encoding. -/
theorem value_mod {t : Ty} (ht : isFloat t = true) (x : Nat) : value t (x % 2 ^ t.width) = value t x := by
  have hwidth := width_eq_of_isFloat ht
  have hsign := div_mod_two_pow_of_le (a := expBits t + fracBits t) (b := 1) (n := t.width) (by omega) x
  have hexp := div_mod_two_pow_of_le (a := fracBits t) (b := expBits t) (n := t.width) (by omega) x
  have hfrac := div_mod_two_pow_of_le (a := 0) (b := fracBits t) (n := t.width) (by omega) x
  simp only [pow_one, pow_zero, Nat.div_one] at hsign hfrac
  simp only [value, if_pos ht, hsign, hexp, hfrac]

theorem value_of_not_isFloat {t : Ty} (ht : isFloat t = false) (x : Nat) :
    value t x = .fin (decide (intValue t x < 0)) (intValue t x).natAbs 0 := by
  have hlt : x % 2 ^ t.width < 2 ^ t.width := Nat.mod_lt _ (Nat.two_pow_pos _)
  have hcast : ((2 ^ t.width : ℕ) : ℤ) = 2 ^ t.width := by push_cast; rfl
  simp only [value, ht, intValue, Bool.false_eq_true, if_false]
  split_ifs
  · rw [decide_eq_true (by omega)]
    congr 1
    omega
  · rw [decide_eq_false (by omega)]
    rfl

section
variable {src dst : Ty} (rm : Rm) (sat : Bool) (x : Nat)

theorem convert_of_ne (hne : src ≠ dst) : convert src dst rm sat false x =
    if isFloat dst then finish dst rm sat false (value src (x % 2 ^ src.width))
    else if isFloat src then toIntFmt dst rm (value src (x % 2 ^ src.width))
    else wrapInt dst sat (intValue src (x % 2 ^ src.width)) := by
  simp [convert, hne, operand]

theorem convert_float_int (hs : isFloat src = true) (hd : isFloat dst = false) :
    convert src dst rm sat false x = toIntFmt dst rm (value src x) := by
  have hne : src ≠ dst := by
    rintro rfl
    simp [hs] at hd
  rw [convert_of_ne rm sat x hne, value_mod hs]
  simp [hs, hd]

theorem convert_int_float (hs : isFloat src = false) (hd : isFloat dst = true) :
    convert src dst rm sat false x = finish dst rm sat false (.fin (decide (intValue src x < 0)) (intValue src x).natAbs 0) := by
  have hne : src ≠ dst := by
    rintro rfl
    simp [hs] at hd
  rw [convert_of_ne rm sat x hne, if_pos hd, value_of_not_isFloat hs, intValue_mod]

theorem convert_int_int (hs : isFloat src = false) (hd : isFloat dst = false) (hne : src ≠ dst) :
    convert src dst rm sat false x = wrapInt dst sat (intValue src x) := by
  rw [convert_of_ne rm sat x hne, intValue_mod]
  simp [hs, hd]

end

/-! ### All of it -/

/-- Settles O20: a masked write element by element, the rounding of what the model holds as an exact value or as a quotient with a
mark for the rest, the sum as an invariant of its terms, and the three kinds of conversions. -/
theorem NumberFormats.maskedWrite : Obligations.MaskedWrite := by
  refine ⟨fun r d ty act z f i hi => ⟨elem_write_maskedWrite r d act z f hi (Ty.width_mul_count_le ty),
      fun e he => r.vreg_write_ne _ _ he⟩,
    fun t rm sat a b m n e g x ht => ⟨fun hm => rounds_finish ht rm sat a hm (.refl _ _), value_finish_zero ht rm sat a e,
      finish_nan rm sat, value_finish_inf ht rm sat a, fun hm hn => rounds_finish_div ht rm sat hm hn, ?_⟩,
    fun l rm _ => sumOf_fin l rm,
    fun src dst rm sat x => ⟨fun hs hd => ⟨fun hv => ?_, fun neg hv => ?_, fun neg m e hv => ?_⟩,
      fun hs hd => convert_int_float rm sat x hs hd, fun hs hd hne => ?_⟩⟩
  · have hsign : t.width - 1 = expBits t + fracBits t := by rw [width_eq_of_isFloat ht, Nat.add_sub_cancel]
    rw [finish_true ht, hsign]
    by_cases h : isFP t = true <;> simp only [h, clearSubnormal, Bool.false_eq_true, true_and, false_and, if_true, if_false]
  · rw [convert_float_int rm sat x hs hd, hv, toIntFmt]
  · rw [convert_float_int rm sat x hs hd, hv]
    exact intValue_toIntFmt_inf dst rm neg
  · rw [convert_float_int rm sat x hs hd, hv]
    exact intValue_toIntFmt_fin dst rm neg m e
  · rw [convert_int_int rm sat x hs hd hne]
    exact wrapInt_cast dst sat _

end Sys2Proof.Machine
end

section
/-! PROOFS. Vector instructions: the element-wise arithmetic (R186 to R192). -/

namespace Sys2Proof.Machine

section
variable {s : State} {i : Instr}

/-! ### The forms of a vector instruction (R182, R187) -/

theorem vecOp_gives {ok : Bool} {dist : Nat} {w : State → RegWrite} {v : RegWrite} (he : exec i s = vecOp i ok dist w s)
    (hok : ok = true) (hv : v = w s := by rfl) : Gives s i dist v := fun hi => by
  rw [he, vecOp, hok, need_true, hv]
  exact perform_acts s hi

theorem vecOp_traps {ok : Bool} {dist : Nat} {w : State → RegWrite} (he : exec i s = vecOp i ok dist w s) (hok : ok = false) :
    Traps s i { cause := 0x0A } := fun ht => by
  rw [he, vecOp, hok, need_false]
  exact perform_trap s ht

section
variable {ty : Ty} {okB : Bool} {w : State → RegWrite} (he : exec i s = vecVar i ty okB w s)
include he

theorem vecVar_does {t : State} (hty : isFP ty = true) (hb : okB = true) (hx : s.exposed = false)
    (ht : t = s.varRange (vdivRange ty).1 (vdivRange ty).2 (w s) := by rfl) : Does s i t := fun hi => by
  rw [he, vecVar, hty, hb, hx, ht]
  exact perform_acts s hi

theorem vecVar_mode_traps (hty : isFP ty = true) (hb : okB = true) (hx : s.exposed = true) : Traps s i { cause := 0x0B } :=
  fun ht => by
    rw [he, vecVar, hty, hb, hx]
    exact perform_trap s ht

theorem vecVar_format_traps (h : isFP ty = false ∨ okB = false) : Traps s i { cause := 0x0A } := fun ht => by
  have hbad : (!isFP ty || !okB) = true := by rcases h with h | h <;> simp [h]
  rw [he, vecVar, hbad]
  exact perform_trap s ht

end
end

/-! ### All of it -/

/-- Settles O21: each instruction is a vector operation that checks its formats and then gives its masked write, or one of variable
latency that asks for checked mode besides. -/
theorem vectorArithmetic : Obligations.VectorArithmetic := by
  refine ⟨fun s o b c rm sat => ⟨fun hf hb => ?_, fun hf hb => ?_, fun hf => ?_, fun h => ?_, fun hf => ?_⟩,
    fun s o b c sat => ⟨fun hi => ?_, ?_, fun hi => ?_⟩⟩
  · have hok : (isFP o.ty && bsrcOk o.ty b) = true := by rw [hf, hb]; rfl
    exact ⟨vecOp_gives (execVadd.eq_def ..) hok, vecOp_gives (execVsub.eq_def ..) hok, vecOp_gives (execVmul.eq_def ..) hok,
      vecOp_gives (execVfma.eq_def ..) hok, vecOp_gives (execVfms.eq_def ..) hok, vecOp_gives (execVfnma.eq_def ..) hok,
      vecOp_gives (execVscalb.eq_def ..) hok, vecOp_gives (execVmin.eq_def ..) hok, vecOp_gives (execVmax.eq_def ..) hok⟩
  · exact ⟨fun hx => vecVar_does (i := .vdiv o b rm sat) (execVdiv.eq_def ..) hf hb hx,
      vecVar_mode_traps (execVdiv.eq_def ..) hf hb⟩
  · exact ⟨vecOp_gives (execVabs.eq_def ..) hf, vecOp_gives (execVneg.eq_def ..) hf, vecOp_gives (execVrcp.eq_def ..) hf,
      vecOp_gives (execVrsq.eq_def ..) hf, vecOp_gives (execVexp2.eq_def ..) hf, vecOp_gives (execVlog2.eq_def ..) hf,
      fun hx => vecVar_does (i := .vsqrt o rm sat) (execVsqrt.eq_def ..) hf rfl hx,
      vecVar_mode_traps (execVsqrt.eq_def ..) hf rfl⟩
  · have hok : (isFP o.ty && bsrcOk o.ty b) = false := by rcases h with h | h <;> simp [h]
    exact ⟨vecOp_traps (execVadd.eq_def ..) hok, vecOp_traps (execVsub.eq_def ..) hok, vecOp_traps (execVmul.eq_def ..) hok,
      vecOp_traps (execVfma.eq_def ..) hok, vecOp_traps (execVfms.eq_def ..) hok, vecOp_traps (execVfnma.eq_def ..) hok,
      vecOp_traps (execVscalb.eq_def ..) hok, vecOp_traps (execVmin.eq_def ..) hok, vecOp_traps (execVmax.eq_def ..) hok,
      vecVar_format_traps (execVdiv.eq_def ..) h⟩
  · exact ⟨vecOp_traps (execVabs.eq_def ..) hf, vecOp_traps (execVneg.eq_def ..) hf, vecOp_traps (execVrcp.eq_def ..) hf,
      vecOp_traps (execVrsq.eq_def ..) hf, vecOp_traps (execVexp2.eq_def ..) hf, vecOp_traps (execVlog2.eq_def ..) hf,
      vecVar_format_traps (execVsqrt.eq_def ..) (.inl hf)⟩
  · exact ⟨vecOp_gives (execViadd.eq_def ..) hi, vecOp_gives (execVisub.eq_def ..) hi, vecOp_gives (execVimul.eq_def ..) hi,
      vecOp_gives (execVimad.eq_def ..) hi, vecOp_gives (execVimin.eq_def ..) hi, vecOp_gives (execVimax.eq_def ..) hi,
      vecOp_gives (execVpopc.eq_def ..) hi, vecOp_gives (execViabs.eq_def ..) hi, vecOp_gives (execVshl.eq_def ..) hi,
      vecOp_gives (execVshr.eq_def ..) hi, vecOp_gives (execVsra.eq_def ..) hi⟩
  · exact ⟨vecOp_gives (execVand.eq_def ..) rfl, vecOp_gives (execVor.eq_def ..) rfl, vecOp_gives (execVxor.eq_def ..) rfl⟩
  · exact ⟨vecOp_traps (execViadd.eq_def ..) hi, vecOp_traps (execVisub.eq_def ..) hi, vecOp_traps (execVimul.eq_def ..) hi,
      vecOp_traps (execVimad.eq_def ..) hi, vecOp_traps (execVimin.eq_def ..) hi, vecOp_traps (execVimax.eq_def ..) hi,
      vecOp_traps (execVpopc.eq_def ..) hi, vecOp_traps (execViabs.eq_def ..) hi, vecOp_traps (execVshl.eq_def ..) hi,
      vecOp_traps (execVshr.eq_def ..) hi, vecOp_traps (execVsra.eq_def ..) hi⟩

end Sys2Proof.Machine
end

section
/-! PROOFS. Vector instructions: reductions, conversions, packing and Billet blocks (R201 to R208). -/

namespace Sys2Proof.Machine

section
variable {s : State} {ty : Ty} {a : VReg} {k : KReg}

/-! ### Reductions (R201, R202) -/

theorem State.extreme_of_isFP (larger sat : Bool) (h : isFP ty = true) : s.extreme larger ty a k sat
    = encodeF ty (satF ty sat (((s.members ty a k).map (operand ty s.exposed)).foldl (minMax larger) (.inf larger))) :=
  if_pos (isFloat_of_isFP h)

theorem State.extreme_of_isInt (larger sat : Bool) (h : isInt ty = true) : s.extreme larger ty a k sat
    = wrapInt ty false (((s.members ty a k).map (intValue ty)).foldl (fun x y => if larger then max x y else min x y)
        (if larger then (intRange ty).1 else (intRange ty).2)) :=
  if_neg (by simpa [isInt] using h)

end

/-! ### The formats of Billet blocks (R207, R208) -/

theorem blkFmtOk_iff (f : Fin 4) : (f.val != 3) = true ↔ f ≠ 3 := by simp [Fin.ext_iff]

theorem blkFmtOk_eq_false_iff (f : Fin 4) : (f.val != 3) = false ↔ f = 3 := by simp [Fin.ext_iff]

theorem blkZeroOk_all_iff (s : State) (a : VReg) (blk : BlkImm) :
    (List.range (blk.bc.val + 1)).all (fun j => blkZeroOk (s.record a blk j)) = true
      ↔ ∀ j ≤ blk.bc.val, blkZeroOk (s.record a blk j) = true := by
  simp

theorem blkZeroOk_all_eq_false_iff (s : State) (a : VReg) (blk : BlkImm) :
    (List.range (blk.bc.val + 1)).all (fun j => blkZeroOk (s.record a blk j)) = false
      ↔ ∃ j ≤ blk.bc.val, blkZeroOk (s.record a blk j) = false := by
  simp

/-! ### All of it -/

/-- Settles O23: each instruction is a vector operation that checks its formats, and where it does not write the value that is
claimed of it word for word, the two are shown to be equal. -/
theorem vectorReductionsAndConversions : Obligations.VectorReductionsAndConversions := by
  refine ⟨fun s ty d a k rm sat => ⟨fun hf => ?_, fun hi => ?_, fun hf => vecOp_traps (execVrsum.eq_def ..) hf,
      fun hi => vecOp_traps (execVirsum.eq_def ..) hi, fun hf hi => ?_⟩,
    fun s o dst ty p rm sat hi a b d blk => ⟨vecOp_gives (execVcvt.eq_def ..) rfl, fun hi => ?_, fun hi hh => ?_,
      fun h => ?_, fun hi hh => ?_, fun h => ?_, fun hf hb => ?_, fun h => ?_, fun hf hb hz => ?_, fun h => ?_⟩⟩
  · refine ⟨vecOp_gives (execVrsum.eq_def ..) hf ?_, vecOp_gives (execVrmax.eq_def ..) (by simp [hf]) ?_,
      vecOp_gives (execVrmin.eq_def ..) (by simp [hf]) ?_⟩
    · simp only [← List.isEmpty_iff]
      rfl
    · rw [State.extreme_of_isFP true sat hf]
      rfl
    · rw [State.extreme_of_isFP false sat hf]
      rfl
  · refine ⟨vecOp_gives (execVrmax.eq_def ..) (by simp [hi]) ?_,
      vecOp_gives (execVrmin.eq_def ..) (by simp [hi]) ?_, vecOp_gives (execVirsum.eq_def ..) hi ?_⟩
    · rw [State.extreme_of_isInt true sat hi]
      rfl
    · rw [State.extreme_of_isInt false sat hi]
      rfl
    · rw [List.sum_eq_foldl]
      rfl
  · have hok : (isFP ty || isInt ty) = false := by rw [hf, hi]; rfl
    exact ⟨vecOp_traps (execVrmax.eq_def ..) hok, vecOp_traps (execVrmin.eq_def ..) hok⟩
  · show execVcvtsr o dst p sat s = _
    rw [execVcvtsr]
    exact perform_acts s hi
  · exact vecOp_gives (execVpack.eq_def ..) (Bool.and_eq_true_iff.2 ⟨hi, bne_iff_ne.2 hh⟩)
  · exact vecOp_traps (execVpack.eq_def ..) (by rwa [Bool.and_eq_false_iff, bne_eq_false_iff_eq])
  · exact vecOp_gives (execVunpk.eq_def ..) (Bool.and_eq_true_iff.2 ⟨hi, bne_iff_ne.2 hh⟩)
  · exact vecOp_traps (execVunpk.eq_def ..) (by rwa [Bool.and_eq_false_iff, bne_eq_false_iff_eq])
  · exact vecOp_gives (execVqblk.eq_def ..) (Bool.and_eq_true_iff.2 ⟨hf, (blkFmtOk_iff _).2 hb⟩)
  · exact vecOp_traps (execVqblk.eq_def ..) (by rwa [Bool.and_eq_false_iff, blkFmtOk_eq_false_iff])
  · refine vecOp_gives (execVdqblk.eq_def ..) ?_
    rw [Bool.and_eq_true_iff, Bool.and_eq_true_iff, blkFmtOk_iff, blkZeroOk_all_iff]
    exact ⟨⟨hf, hb⟩, hz⟩
  · refine vecOp_traps (execVdqblk.eq_def ..) ?_
    rwa [Bool.and_eq_false_iff, Bool.and_eq_false_iff, blkFmtOk_eq_false_iff, blkZeroOk_all_eq_false_iff, or_assoc]

end Sys2Proof.Machine
end

section
/-! PROOFS. Writes through the host port, page moves and the checkpoint drain (R70, R282, R405 to R407, R449). -/

namespace Sys2Proof.Machine

/-! ### What the homes keep of their lines (R282, R316) -/

/-- What the homes keep of their lines, and the elements in update state. -/
def State.homes (s : State) : Tab LineInfo × List Upd := (s.lines, s.upds)

namespace State
variable (s : State)

theorem line_of_homes {s t : State} (h : t.homes = s.homes) (p : Nat) : t.line p = s.line p := by
  obtain ⟨hlines, -⟩ := Prod.mk.inj h
  rw [line, line, hlines]

theorem line_modLine (p : Nat) (f : LineInfo → LineInfo) (q : Nat) :
    (s.modLine p f).line q = if lineOf q = lineOf p then f (s.line p) else s.line q := by
  split_ifs with h
  · rw [line, h]
    exact tget_tset_self ..
  · exact tget_tset_ne _ _ _ h

theorem ckCopy_homes (p : Nat) : (s.ckCopy p).homes = s.homes := by
  unfold ckCopy
  split <;> rfl

/-- t is s but for the two memories. -/
def OnlyMems (t : State) : Prop := ∃ mem host, t = { s with mem := mem, host := host }

theorem rawWrite_onlyMems (p n v : Nat) : s.OnlyMems (s.rawWrite p n v) := by
  unfold rawWrite
  split_ifs <;> exact ⟨_, _, rfl⟩

theorem lineWrite_onlyMems (key l v : Nat) : s.OnlyMems (s.lineWrite key l v) := by
  unfold lineWrite
  split <;> exact rawWrite_onlyMems ..

theorem placeWrite_onlyMems (key p n v be : Nat) : s.OnlyMems (s.placeWrite key p n v be) := by
  refine List.foldlRecOn (motive := s.OnlyMems) _ _ ⟨_, _, rfl⟩ fun t ht i _ => ?_
  obtain ⟨_, _, rfl⟩ := ht
  obtain ⟨_, _, hwrite⟩ := lineWrite_onlyMems _ key (lineOf p + i) _
  exact ⟨_, _, hwrite⟩

variable {s} in
theorem OnlyMems.homes {t : State} (h : s.OnlyMems t) : t.homes = s.homes := by
  obtain ⟨_, _, rfl⟩ := h
  rfl

variable {s} in
theorem OnlyMems.arg {t : State} (h : s.OnlyMems t) : t.arg = s.arg := by
  obtain ⟨_, _, rfl⟩ := h
  rfl

theorem mergeWhere_arg (hit : Upd → Bool) : (s.mergeWhere hit).arg = s.arg := by
  unfold mergeWhere
  refine foldl_keeps State.arg (fun t u => ?_) _ _
  split_ifs
  · exact (placeWrite_onlyMems ..).arg
  · rfl

theorem mergeWhere_homes_of_none {s : State} (h : s.upds = []) (hit : Upd → Bool) : (s.mergeWhere hit).homes = s.homes := by
  simp [mergeWhere, h, homes]

theorem toPort_homes (p : Packet) : (s.toPort p).homes = s.homes := by
  unfold toPort
  split_ifs <;> rfl

theorem answer_homes (r : Req) : (s.answer r).homes = s.homes := by
  unfold answer
  split
  · refine (toPort_homes ..).trans ?_
    (repeat' split) <;> rfl
  · rfl

theorem notify_homes (p n : Nat) : (s.notify p n).homes = s.homes :=
  foldl_keeps homes (fun _ _ => answer_homes ..) _ _

theorem patchPinned_homes (p v be : Nat) : (s.patchPinned p v be).homes = s.homes := by
  unfold patchPinned
  extract_lets pins b patch here patched
  have hpatched : patched.homes = s.homes := foldl_keeps homes (fun _ _ => by rfl) _ _
  split_ifs <;> exact hpatched

/-! ### Bytes written through the host port (R70, R282) -/

/-- No element is in update state and no line has an uncorrectable error: a write at a home is one of its bytes alone. -/
def Plain : Prop := s.upds = [] ∧ ∀ p, (s.line p).err = false

variable {s}

theorem Plain.of_homes {t : State} (hs : s.Plain) (h : t.homes = s.homes) : t.Plain :=
  ⟨(congrArg Prod.snd h).trans hs.1, fun p => by rw [line_of_homes h, hs.2 p]⟩

theorem Plain.modLine (hs : s.Plain) (p : Nat) {f : LineInfo → LineInfo} (hf : (f (s.line p)).err = false) :
    (s.modLine p f).Plain := by
  refine ⟨hs.1, fun q => ?_⟩
  rw [line_modLine]
  split_ifs
  · exact hf
  · exact hs.2 q

theorem Plain.homeWrite (hs : s.Plain) (key p n v be lt : Nat) : (s.homeWrite key p n v be lt false).Plain := by
  have hcopied : (s.ckCopy p).Plain := hs.of_homes (ckCopy_homes ..)
  have hwritten : (((s.ckCopy p).mergeWhere (Upd.hit p be)).placeWrite key p n v be).Plain :=
    hcopied.of_homes ((placeWrite_onlyMems ..).homes.trans (mergeWhere_homes_of_none hcopied.1 _))
  have hmarked := hwritten.modLine p (f := fun l => { l with tag := l.tag + 1#32, err := false }) rfl
  have hstamped := hmarked.modLine p (f := fun l => l) (hmarked.2 p)
  rw [State.homeWrite, if_neg (by simp [hs.2 p])]
  exact hstamped.of_homes (notify_homes ..)

/-- On plain lines a host's bytes are a write at their home, which patches the pinned copies. -/
theorem Plain.hostWrite_eq (hs : s.Plain) (p : Nat) (l : List Byte) : s.hostWrite p l =
    (s.homeWrite 0 p l.length (ofBytes l) (2 ^ l.length - 1) 0 false).patchPinned p (ofBytes l) (2 ^ l.length - 1) :=
  if_neg (by simp [hs.2 p])

theorem Plain.hostWrite (hs : s.Plain) (p : Nat) (l : List Byte) : (s.hostWrite p l).Plain := by
  rw [hs.hostWrite_eq]
  exact (hs.homeWrite ..).of_homes (patchPinned_homes ..)

end State

/-- Byte k of the number that a list of bytes makes. -/
theorem ofNat_ofBytes_byte (l : List Byte) (k : Nat) : BitVec.ofNat 8 (ofBytes l / 2 ^ (8 * k)) = l.getD k 0#8 := by
  induction l generalizing k with
  | nil => simp [ofBytes]
  | cons b l ih =>
    have hb := b.isLt
    cases k with
    | zero =>
      refine BitVec.eq_of_toNat_eq ?_
      simp only [ofBytes, Nat.mul_zero, Nat.pow_zero, Nat.div_one, BitVec.toNat_ofNat, List.getD_cons_zero]
      omega
    | succ k =>
      have htail : ofBytes (b :: l) / 256 = ofBytes l := by
        rw [ofBytes]
        omega
      rw [div_byte_succ, htail, ih, List.getD_cons_succ]

/-- All of n byte enables are set. -/
theorem ones_div_mod_two {n k : Nat} (hk : k < n) : (2 ^ n - 1) / 2 ^ k % 2 = 1 := by
  simpa [Nat.testBit_eq_decide_div_mod_eq, hk] using Nat.testBit_two_pow_sub_one n k

namespace State

/-- From s to t the bytes l are put into package memory from place p on, and no other byte of either memory changes. -/
def PutsBytes (s : State) (p : Nat) (l : List Byte) (t : State) : Prop :=
  t.host = s.host ∧ ∀ q, mget t.mem q = if p ≤ q ∧ q < p + l.length then l.getD (q - p) 0#8 else mget s.mem q

theorem putsBytes_nil (s : State) (p : Nat) : s.PutsBytes p [] s :=
  ⟨rfl, fun q => by rw [if_neg (by simp)]⟩

/-- Bytes put one piece after the other are put. -/
theorem PutsBytes.trans {s t u : State} {p k : Nat} {l : List Byte} (h : s.PutsBytes p (l.take k) t)
    (h' : t.PutsBytes (p + k) (l.drop k) u) : s.PutsBytes p l u := by
  obtain ⟨hhost, hmem⟩ := h
  obtain ⟨hhost', hmem'⟩ := h'
  refine ⟨hhost'.trans hhost, fun q => ?_⟩
  rw [hmem', hmem, List.length_take, List.length_drop, List.getD_eq_getElem?_getD, List.getD_eq_getElem?_getD,
    List.getD_eq_getElem?_getD, List.getElem?_drop]
  by_cases hrest : p + k ≤ q
  · rw [show k + (q - (p + k)) = q - p by omega, if_neg (c := p ≤ q ∧ q < p + min k l.length) (by omega)]
    exact if_congr (by omega) rfl rfl
  · rw [if_neg (by omega)]
    refine if_ctx_congr (by omega) (fun hq => ?_) fun _ => rfl
    rw [List.getElem?_take_of_lt (by omega)]

variable {s : State}

theorem Plain.hostWrite_putsBytes (hs : s.Plain) (hok : s.MemOk) {p : Nat} {l : List Byte} (hl : l ≠ [])
    (hp : p + l.length ≤ 2 ^ 40) (hline : p % 128 + l.length ≤ 128) : s.PutsBytes p l (s.hostWrite p l) := by
  have hn : 0 < l.length := List.length_pos_iff.2 hl
  obtain ⟨hhost, -, hmem⟩ :=
    homeWriteBytes s p l.length (ofBytes l) (2 ^ l.length - 1) 0 false hok hs.1 hn hp (by omega)
  obtain ⟨hm, hh⟩ := Prod.mk.inj (patchPinned_mems (s.homeWrite 0 p l.length (ofBytes l) (2 ^ l.length - 1) 0 false) p
    (ofBytes l) (2 ^ l.length - 1))
  rw [hs.hostWrite_eq]
  refine ⟨hh.trans hhost, fun q => ?_⟩
  rw [hm, hmem, ofNat_ofBytes_byte]
  refine if_congr ⟨fun ⟨hlo, hhi, _⟩ => ⟨hlo, hhi⟩, fun ⟨hlo, hhi⟩ => ⟨hlo, hhi, ones_div_mod_two (by omega)⟩⟩ rfl rfl

/-- Enough lines put all the bytes. -/
theorem Plain.hostLines_putsBytes (hs : s.Plain) (hok : s.MemOk) {p n : Nat} {l : List Byte} (hp : p + l.length ≤ 2 ^ 40)
    (hn : p % 128 + l.length ≤ 128 * n) : s.PutsBytes p l (s.hostLines p l n) := by
  induction n generalizing s p l with
  | zero =>
    obtain rfl : l = [] := List.eq_nil_of_length_eq_zero (by omega)
    exact putsBytes_nil s p
  | succ n ih =>
    rw [hostLines]
    split_ifs with hempty
    · obtain rfl := List.isEmpty_iff.1 hempty
      exact putsBytes_nil s p
    · have hpos : 0 < l.length := List.length_pos_iff.2 (by simpa using hempty)
      have htake : l.take (128 - p % 128) ≠ [] := List.length_pos_iff.1 (by rw [List.length_take]; omega)
      have hfirst := hs.hostWrite_putsBytes hok (p := p) htake (by rw [List.length_take]; omega)
        (by rw [List.length_take]; omega)
      refine hfirst.trans ?_
      exact ih (hs.hostWrite ..) (hok.hostWrite ..) (by rw [List.length_drop]; omega) (by rw [List.length_drop]; omega)

end State

variable {s : State}

theorem hostPortMemoryWrite_puts (hok : s.MemOk) (hu : s.upds = []) (hlines : s.lines = [])
    (hp : s.arg.v + s.arg.bytes.length ≤ 2 ^ 40) (hck : s.ckStuck s.arg.v s.arg.bytes.length = false) :
    ∃ t, exec .hostPortMemoryWrite s = .next t ∧ s.PutsBytes s.arg.v s.arg.bytes t := by
  have hline (p : Nat) : s.line p = {} := by rw [State.line, hlines]; rfl
  have hunpinned (p : Nat) : s.pinnedBy p = none := by rw [State.pinnedBy, hline]; rfl
  refine ⟨_, show execHostPortMemoryWrite s = _ from (if_neg ?_).trans (if_neg ?_), ?_⟩
  · exact Nat.not_lt.2 hp
  · simp [hck, hunpinned]
  · have hplain : s.Plain := ⟨hu, fun p => by rw [hline]⟩
    exact hplain.hostLines_putsBytes hok hp (by omega)

theorem hostPortMemoryWrite_waits (hp : s.arg.v + s.arg.bytes.length ≤ 2 ^ 40)
    (hck : s.ckStuck s.arg.v s.arg.bytes.length = true) :
    exec .hostPortMemoryWrite s = .next (s.sched_ (s.pcyc + 1) 0 .hostPortMemoryWrite s.arg).deferPosted :=
  show execHostPortMemoryWrite s = _ from (if_neg (Nat.not_lt.2 hp)).trans (if_pos (by simp [hck]))

theorem hostPortMemoryWrite_faults (hp : 2 ^ 40 < s.arg.v + s.arg.bytes.length) :
    exec .hostPortMemoryWrite s = .fault (.noMemory s.arg.v) :=
  show execHostPortMemoryWrite s = _ from if_pos hp

/-! ### Lines moved (R449) -/

/-- Where a byte stood before k lines from line l on were moved to line m on. -/
def movedFrom (l m k q : Nat) : Nat := if 128 * m ≤ q ∧ q < 128 * (m + k) then 128 * l + (q - 128 * m) else q

/-- From s to t k lines from line l on are moved to line m on, with what their homes keep of them. -/
def State.MovesLines (s : State) (l m k : Nat) (t : State) : Prop :=
  t.MemOk ∧ ∀ q, mget t.mem q = mget s.mem (movedFrom l m k q) ∧ t.line q = s.line (movedFrom l m k q)

theorem State.MemOk.movesLines_zero (h : s.MemOk) (l m : Nat) : s.MovesLines l m 0 s :=
  ⟨h, fun q => by rw [movedFrom, if_neg (by omega)]; exact ⟨rfl, rfl⟩⟩

/-- One line more moved, which is none of those written before. -/
theorem State.MovesLines.succ {t u : State} {l m k : Nat} (h : s.MovesLines l m k t) (h' : t.MovesLines (l + k) (m + k) 1 u)
    (hdisjoint : l + k < m ∨ m + k ≤ l + k) : s.MovesLines l m (k + 1) u := by
  obtain ⟨-, ht⟩ := h
  obtain ⟨hok, hu⟩ := h'
  have hfrom (q : Nat) : movedFrom l m k (movedFrom (l + k) (m + k) 1 q) = movedFrom l m (k + 1) q := by
    unfold movedFrom
    split_ifs <;> omega
  refine ⟨hok, fun q => ?_⟩
  rw [(hu q).1, (hu q).2, (ht _).1, (ht _).2, hfrom]
  exact ⟨rfl, rfl⟩

/-- Under no key a line is moved as it is stored. -/
theorem State.moveLine_mem (s : State) {l m : Nat} (hl : l < 2 ^ 33) (hm : m < 2 ^ 33) :
    (s.moveLine 0 l m).mem = mwrite s.mem (128 * m) 128 (mread s.mem (128 * l) 128) := by
  have hl' : 128 * l < hostBase := by unfold hostBase; omega
  have hm' : 128 * m < hostBase := by unfold hostBase; omega
  have hcopy : (s.ckCopy (128 * m)).mem = s.mem := congrArg Prod.fst (s.ckCopy_mems _)
  simp [moveLine, lineRead, lineWrite, keys, rawRead, rawWrite, modLine, hl', hm', hcopy]

theorem State.moveLine_line (s : State) (key l m q : Nat) :
    (s.moveLine key l m).line q = if lineOf q = m then s.line (128 * l) else s.line q := by
  have hhomes : ((s.ckCopy (128 * m)).lineWrite key m (s.lineRead key l)).homes = s.homes :=
    (lineWrite_onlyMems ..).homes.trans (ckCopy_homes ..)
  rw [moveLine, line_modLine, line_of_homes hhomes, show lineOf (128 * m) = m from Nat.mul_div_cancel_left m (by decide)]

theorem State.MemOk.movesLines_one (h : s.MemOk) {l m : Nat} (hl : l < 2 ^ 33) (hm : m < 2 ^ 33) :
    s.MovesLines l m 1 (s.moveLine 0 l m) := by
  refine ⟨h.moveLine .., fun q => ?_⟩
  rw [s.moveLine_mem hl hm, s.moveLine_line, movedFrom]
  by_cases hq : 128 * m ≤ q ∧ q < 128 * (m + 1)
  · obtain ⟨j, rfl⟩ := Nat.exists_eq_add_of_le hq.1
    have hj : j < 128 := by omega
    rw [if_pos hq, Nat.add_sub_cancel_left, mget_mwrite_inside _ _ h.1 hj, ofNat_mread_byte _ _ _ hj,
      if_pos (by unfold lineOf; omega)]
    refine ⟨rfl, ?_⟩
    rw [line, line, show lineOf (128 * l + j) = lineOf (128 * l) by unfold lineOf; omega]
  · rw [if_neg hq, mget_mwrite_outside _ _ h.1 (by omega), if_neg (by unfold lineOf; omega)]
    exact ⟨rfl, rfl⟩

/-- Lines moved one after the other to places that none of them comes from. -/
theorem State.MemOk.movesLines (h : s.MemOk) {l m k : Nat} (hl : l + k ≤ 2 ^ 33) (hm : m + k ≤ 2 ^ 33)
    (hdisjoint : l + k ≤ m ∨ m + k ≤ l) :
    s.MovesLines l m k ((List.range k).foldl (fun (s : State) i => s.moveLine 0 (l + i) (m + i)) s) := by
  suffices ∀ j ≤ k, s.MovesLines l m j ((List.range j).foldl (fun (s : State) i => s.moveLine 0 (l + i) (m + i)) s) from
    this k le_rfl
  intro j hj
  induction j with
  | zero => exact h.movesLines_zero l m
  | succ j ih =>
    have hmoved := ih (by omega)
    rw [List.range_succ, List.foldl_append]
    exact hmoved.succ (hmoved.1.movesLines_one (by omega) (by omega)) (by omega)

section
variable (hv : s.arg.v / 128 * 128 + s.arg.n ≤ 2 ^ 40) (hm : s.arg.m / 128 * 128 + s.arg.n ≤ 2 ^ 40)
include hv hm

theorem pageMove_in_memory : ¬ (decide (Config.ppaLimit < s.arg.v / 128 * 128 + s.arg.n)
    || decide (Config.ppaLimit < s.arg.m / 128 * 128 + s.arg.n)) = true := by
  rw [Bool.or_eq_true, decide_eq_true_eq, decide_eq_true_eq, not_or, Nat.not_lt, Nat.not_lt]
  exact ⟨hv, hm⟩

theorem pageMove_waits (hwait : (s.die (s.arg.v / 128 * 128 / 2 ^ 37)).htBusy ≠ none ∨
      s.ckStuck (s.arg.m / 128 * 128) s.arg.n = true) :
    exec .pageMove s = .next (s.sched_ (s.pcyc + 1) 0 .pageMove s.arg) := by
  refine show execPageMove s = _ from (if_neg (pageMove_in_memory hv hm)).trans (if_pos ?_)
  rwa [Bool.or_eq_true, Option.isSome_iff_ne_none]

theorem pageMove_movesLines (hidle : (s.die (s.arg.v / 128 * 128 / 2 ^ 37)).htBusy = none)
    (hck : s.ckStuck (s.arg.m / 128 * 128) s.arg.n = false) (hkey : s.arg.id = 0) (hn : s.arg.n % 128 = 0)
    (hdisjoint : s.arg.v / 128 * 128 + s.arg.n ≤ s.arg.m / 128 * 128 ∨ s.arg.m / 128 * 128 + s.arg.n ≤ s.arg.v / 128 * 128)
    (hok : s.MemOk) :
    ∃ t, exec .pageMove s = .next t ∧ s.MovesLines (s.arg.v / 128) (s.arg.m / 128) (s.arg.n / 128) t := by
  obtain ⟨hok', hmoved⟩ := hok.movesLines (l := s.arg.v / 128) (m := s.arg.m / 128) (k := s.arg.n / 128) (by omega) (by omega)
    (by omega)
  refine ⟨_, show execPageMove s = _ from (if_neg (pageMove_in_memory hv hm)).trans (if_neg ?_), ?_⟩
  · rw [hidle, hck]
    decide
  · simp only [hkey, Nat.mul_div_cancel _ (show 0 < 128 by decide)]
    exact ⟨hok'.of_mems rfl, hmoved⟩

end

theorem pageMove_faults (h : 2 ^ 40 < s.arg.v / 128 * 128 + s.arg.n ∨ 2 ^ 40 < s.arg.m / 128 * 128 + s.arg.n) :
    exec .pageMove s = .fault (.noMemory (max (s.arg.v / 128 * 128) (s.arg.m / 128 * 128))) :=
  show execPageMove s = _ from if_pos (by rwa [Bool.or_eq_true, decide_eq_true_eq, decide_eq_true_eq])

/-- Lines moved are a frame copied, byte by byte. -/
theorem State.MovesLines.copies {t : State} {v m n : Nat} (h : s.MovesLines (v / 128) (m / 128) (n / 128) t) (hn : n % 128 = 0) :
    (∀ i < n, mget t.mem (m / 128 * 128 + i) = mget s.mem (v / 128 * 128 + i))
      ∧ (∀ q, (q < m / 128 * 128 ∨ m / 128 * 128 + n ≤ q) → mget t.mem q = mget s.mem q)
      ∧ ∀ i < n, t.line (m / 128 * 128 + i) = s.line (v / 128 * 128 + i) := by
  obtain ⟨-, hfrom⟩ := h
  have hin : ∀ i < n, movedFrom (v / 128) (m / 128) (n / 128) (m / 128 * 128 + i) = v / 128 * 128 + i := fun i hi => by
    rw [movedFrom, if_pos (by omega)]
    omega
  refine ⟨fun i hi => ?_, fun q hq => ?_, fun i hi => ?_⟩
  · rw [(hfrom _).1, hin i hi]
  · rw [(hfrom q).1, movedFrom, if_neg (by omega)]
  · rw [(hfrom _).2, hin i hi]

/-! ### The checkpoint drain (R405 to R407) -/

theorem State.ckRetry_ck (s : State) (of : Nat × Nat → Bool) :
    (s.ckRetry of).ck = { s.ck with waits := s.ck.waits.filter (fun w => !of w) } :=
  foldl_keeps State.ck (fun _ _ => by rfl) _ _

theorem State.ckRetry_mem (s : State) (of : Nat × Nat → Bool) : (s.ckRetry of).mem = s.mem :=
  foldl_keeps State.mem (fun _ _ => by rfl) _ _

theorem State.now_ite_ck (s : State) (c : Prop) [Decidable c] (i : Instr) (a : Arg) :
    (if c then s.now_ i a else s).ck = s.ck := by
  split_ifs <;> rfl

theorem State.now_ite_mem (s : State) (c : Prop) [Decidable c] (i : Instr) (a : Arg) :
    (if c then s.now_ i a else s).mem = s.mem := by
  split_ifs <;> rfl

theorem State.post_ck (s : State) (r : Rec) : (s.post r).ck = s.ck := by
  obtain ⟨_, _, hpost⟩ := s.post_onlyRecords r
  rw [hpost]

theorem State.post_ring {s : State} {r : Rec} (hroom : s.fq.ring.length < Config.faultRecords) (hheld : s.fq.heldRecs = []) :
    (s.post r).fq.ring = s.fq.ring ++ [r.word s.fq.seq.toNat s.pcyc] := by
  rw [s.post_room r hroom hheld]

theorem checkpointDrainOpen_opened (h : s.ck.open_ = true) : exec .checkpointDrainOpen s = .next s :=
  show execCheckpointDrainOpen s = _ from if_pos h

theorem checkpointDrainOpen_opens (h : s.ck.open_ = false) :
    ∃ t, exec .checkpointDrainOpen s = .next t ∧ t.ck = { open_ := true, tier := some s.arg.n }
      ∧ (s.upds = [] → t.mem = s.mem) := by
  have harg : (s.upds.foldl (fun (s : State) u => s.mergeUpds u.p u.w) s).arg = s.arg :=
    foldl_keeps State.arg (fun _ _ => State.mergeWhere_arg ..) _ _
  refine ⟨_, show execCheckpointDrainOpen s = _ from if_neg (by simp [h]), ?_, fun hu => ?_⟩
  · rw [harg]
  · rw [hu]
    rfl

theorem checkpointUnitDrained_drains (u : Nat) (hopen : s.ck.open_ = true) (hstopped : s.ck.stopped = false)
    (hu : s.ckNext = some u) : ∃ t, exec .checkpointUnitDrained s = .next t
      ∧ t.ck.drained = s.ck.drained ++ [u] ∧ t.mem = s.mem ∧ (∀ w ∈ t.ck.waits, w.2 ≠ u) ∧ (∀ k ∈ t.ck.copies, k.1 ≠ u)
      ∧ t.ck.image = s.ck.image ++ [(u, match s.ck.copies.find? (fun k => k.1 = u) with
          | some k => k.2
          | none => s.mem.filter (fun c => c.1 / 65536 = u))] := by
  refine ⟨_, show execCheckpointUnitDrained s = _ by
    rw [execCheckpointUnitDrained, if_neg (by simp [hopen, hstopped]), hu], ?_⟩
  rw [State.now_ite_ck, State.now_ite_mem, State.ckRetry_ck, State.ckRetry_mem]
  exact ⟨rfl, rfl, fun w hw => by simpa using (List.mem_filter.1 hw).2, fun k hk => by simpa using (List.mem_filter.1 hk).2, rfl⟩

theorem checkpointDrainClose_closes (h : s.ck.open_ = true) :
    ∃ t, exec .checkpointDrainClose s = .next t ∧ t.ck.open_ = false ∧ t.ck.drained = [] ∧ t.ck.copies = []
      ∧ t.ck.waits = [] ∧ t.ck.image = s.ck.image ∧ t.mem = s.mem := by
  refine ⟨_, show execCheckpointDrainClose s = _ from if_neg (by simp [h]), ?_⟩
  rw [State.ckRetry_ck, State.ckRetry_mem]
  exact ⟨rfl, rfl, rfl, by simp, rfl, rfl⟩

theorem safeTierFault_stops (h : s.ck.open_ = true) :
    ∃ t, exec .safeTierFault s = .next t ∧ t.ck = { s.ck with stopped := true } ∧ t.mem = s.mem
      ∧ (s.fq.ring.length < Config.faultRecords → s.fq.heldRecs = [] → ∃ n, t.fq.ring = s.fq.ring
        ++ [({ cls := 5, cause := 0, sub := n } : Rec).word s.fq.seq.toNat s.pcyc]) := by
  refine ⟨_, show execSafeTierFault s = _ from if_neg (by simp [h]), ?_⟩
  rw [State.post_ck]
  exact ⟨rfl, congrArg Prod.fst (State.post_mems ..), fun hroom hheld =>
    ⟨_, State.post_ring (by exact hroom) (by exact hheld)⟩⟩

/-- With no drain open its steps change nothing. -/
theorem checkpoint_closed (h : s.ck.open_ = false) :
    exec .safeTierFault s = .next s ∧ exec .checkpointDrainClose s = .next s ∧ exec .checkpointUnitDrained s = .next s :=
  ⟨show execSafeTierFault s = _ from if_pos (by simp [h]), show execCheckpointDrainClose s = _ from if_pos (by simp [h]),
    show execCheckpointUnitDrained s = _ from if_pos (by simp [h])⟩

/-! ### All of it -/

/-- Settles O58: the host's bytes piece by piece, each a write of one line; a page line by line, none of which is written before
it is read; and the drain, from what each of its steps writes. -/
theorem memoryManagement : Obligations.MemoryManagement := by
  refine fun s => ⟨fun hok hu hl hp hck => ?_, hostPortMemoryWrite_waits, hostPortMemoryWrite_faults,
    ⟨pageMove_waits, fun hv hm hidle hck hkey hn hdisjoint hok => ?_, pageMove_faults⟩,
    checkpointDrainOpen_opened, checkpointDrainOpen_opens, checkpointUnitDrained_drains, checkpointDrainClose_closes,
    safeTierFault_stops, checkpoint_closed⟩
  · exact hostPortMemoryWrite_puts hok hu hl hp hck
  · obtain ⟨t, ht, hmoved⟩ := pageMove_movesLines hv hm hidle hck hkey hn hdisjoint hok
    exact ⟨t, ht, hmoved.copies hn⟩

end Sys2Proof.Machine
end

section
/-! PROOFS. The matrix engine as a context finds it, and the beats that are not arithmetic: faults, waits, TSWAP, TZERO and TCLOSE
(R92, R218, R220, R221, R227, R238 to R240). -/

namespace Sys2Proof.Machine

/-! ### The engine of the issuing context (R231, R232) -/

@[simp] theorem Core.eng_modEng_self (k : Core) (h : Nat) (f : Engine → Engine) : (k.modEng h f).eng h = f (k.eng h) := by
  by_cases hh : h = 1 <;> simp [Core.eng, Core.modEng, hh]

@[simp] theorem Core.modEng_split (k : Core) (h : Nat) (f : Engine → Engine) : (k.modEng h f).split = k.split := by
  unfold Core.modEng
  split <;> rfl

section
variable (s : State)

theorem State.half_modCore {c : Nat} {f : Core → Core} (hf : ∀ k, (f k).split = k.split) (d x : Nat) :
    (s.modCore c f).half d x = s.half d x := by
  unfold State.half
  by_cases h : d = c
  · rw [h, State.core_modCore_self, hf]
  · rw [State.core_modCore_ne _ _ h]

@[simp] theorem State.eng_modEng (f : Engine → Engine) : (s.modEng f).eng = f s.eng := by
  unfold State.modEng
  rw [State.eng, State.cc_modCc, State.modCc_iss, State.modCc, s.half_modCore fun k => k.modEng_split _ f]
  exact Core.eng_modEng_self ..

@[simp] theorem State.modEng_iss (f : Engine → Engine) : (s.modEng f).iss = s.iss := rfl

@[simp] theorem State.modEng_cc_split (f : Engine → Engine) : (s.modEng f).cc.split = s.cc.split := by
  unfold State.modEng
  rw [State.cc_modCc, Core.modEng_split]

@[simp] theorem State.eng_modTile (f : Tile → Tile) : (s.modTile f).eng = { s.eng with tile := s.eng.tile.map f } :=
  s.eng_modEng _

/-- An issued beat has taken the engine, and but for its record, its owner and the numbers that say who used it the engine is as it
was. -/
theorem State.eng_openTile (swapped : Bool) : ∃ tile last opens, (s.openTile swapped).eng =
    { s.eng with owner := some s.iss.ctx, tile := tile, lastUser := last, opens := opens } := by
  unfold State.openTile
  by_cases ht : s.tile.isSome = true
  · have howner : s.eng.owner = some s.iss.ctx := by
      by_contra h
      simp [State.tile, h] at ht
    rw [if_pos ht, ← howner]
    exact ⟨_, _, _, rfl⟩
  · rw [if_neg ht, State.eng_modEng]
    exact ⟨_, _, _, rfl⟩

theorem State.eng_addBeat (b : Beat) : ∃ tile, (s.addBeat b).eng = { s.eng with tile := tile } := by
  unfold State.addBeat
  split_ifs
  · exact ⟨_, rfl⟩
  · exact ⟨_, s.eng_modTile _⟩

end

/-! ### Faults and waits of every beat (R92, R220) -/

theorem Wait.and_assoc (a b c : Wait) : (a.and b).and c = a.and (b.and c) := by cases a <;> rfl

/-- The instruction is a beat: its launch must use the engine, and before all its other waits it waits for the engine. -/
def State.IsBeat (s : State) (i : Instr) : Prop := ∃ w act, exec i s = perform i s.mxUse (s.beatWait.and w) act s

section
variable {s : State} {i : Instr}

theorem State.isBeat_wloadRing {next : Bool} {row off : Nat} {h : HReg} (he : exec i s = s.wloadRing i next row h off) :
    s.IsBeat i := ⟨_, _, he.trans (State.wloadRing.eq_def ..)⟩

theorem State.isBeat_wloadTongs {next : Bool} {row : Nat} (he : exec i s =
    if (s.mset next).wsrc then s.wloadTongs i next row else s.wloadRing i next row 0 0) : s.IsBeat i := by
  by_cases hw : (s.mset next).wsrc = true
  · exact ⟨_, _, (he.trans (if_pos hw)).trans (State.wloadTongs.eq_def ..)⟩
  · exact State.isBeat_wloadRing (he.trans (if_neg hw))

theorem State.isBeat_accum {a : Nat} {set : Bool} (he : exec i s = s.accum i a set) : s.IsBeat i :=
  ⟨_, _, he.trans (State.accum.eq_def ..)⟩

theorem State.isBeat_drainBeat {a : Nat} {clr : Bool} (he : exec i s = s.drainBeat i a clr) : s.IsBeat i :=
  ⟨_, _, he.trans (State.drainBeat.eq_def ..)⟩

theorem State.isBeat_afeed (h : HReg) (off : Fin 32) : s.IsBeat (.afeed h off) := ⟨_, _, execAfeed.eq_def ..⟩

theorem State.isBeat_tclose : s.IsBeat .tclose := ⟨_, _, execTclose.eq_def ..⟩

theorem State.isBeat_tswap : s.IsBeat .tswap :=
  ⟨_, _, (execTswap.eq_def s).trans (by rw [Wait.and_assoc])⟩

theorem State.isBeat_tzero (a : Fin 128) (n : Fin 32) : s.IsBeat (.tzero a n) :=
  ⟨_, _, (execTzero.eq_def a n s).trans (by rw [Wait.and_assoc])⟩

theorem State.IsBeat.traps (hb : s.IsBeat i) (hmx : s.cl.mx = false) : Traps s i { cause := 0x0E, info := s.eng.active.tileId } :=
  fun ht => by
    obtain ⟨w, act, he⟩ := hb
    rw [he, State.mxUse, hmx, need_false]
    exact perform_trap s ht

theorem State.IsBeat.holds (hb : s.IsBeat i) (hmx : s.cl.mx = true) (hw : s.beatWait = .hold) : Holds s i := fun ht => by
  obtain ⟨w, act, he⟩ := hb
  rw [he, State.mxUse, hmx, need_true, hw]
  exact perform_hold s ht

theorem State.beatWait_of_other {x : Nat} (ho : s.eng.owner = some x) (hx : x ≠ s.iss.ctx) : s.beatWait = .hold := by
  simp [State.beatWait, ho, hx]

end

theorem State.isBeat_all (s : State) (w off n : Fin 32) (a : Fin 128) (h : HReg) : ∀ i ∈ [Instr.tclose, .wload w h off, .wloadNxt w h off,
    .wloadTongs w, .wloadNxtTongs w, .afeed h off, .accum a, .accumSet a, .drain a, .drainClr a, .tswap, .tzero a n], s.IsBeat i := by
  simp only [List.forall_mem_cons]
  exact ⟨s.isBeat_tclose, s.isBeat_wloadRing rfl, s.isBeat_wloadRing rfl, s.isBeat_wloadTongs rfl, s.isBeat_wloadTongs rfl,
    s.isBeat_afeed h off, s.isBeat_accum rfl, s.isBeat_accum rfl, s.isBeat_drainBeat rfl, s.isBeat_drainBeat rfl, s.isBeat_tswap,
    s.isBeat_tzero a n, fun _ h => absurd h List.not_mem_nil⟩

/-! ### The outcome of a beat whose waits are known -/

section
variable {s : State} {i : Instr} {w : Wait} {act : State → State} (hmx : s.cl.mx = true)
include hmx

theorem beat_does {t : State} (he : exec i s = perform i s.mxUse w act s) (hw : w = .go) (ht : t = act s := by rfl) : Does s i t :=
  fun hi => by
    rw [he, State.mxUse, hmx, need_true, hw, ht]
    exact perform_acts s hi

theorem beat_traps {t : Trap} (he : exec i s = perform i s.mxUse w act s) (hw : w = .trap t) : Traps s i t := fun ht => by
  rw [he, State.mxUse, hmx, need_true, hw]
  simp [perform, ht.1, ht.2]

theorem beat_holds (he : exec i s = perform i s.mxUse w act s) (hw : w = .hold) : Holds s i := fun ht => by
  rw [he, State.mxUse, hmx, need_true, hw]
  exact perform_hold s ht

end

theorem orTrap_true (t : Trap) : orTrap true t = .go := rfl

theorem orTrap_false (t : Trap) : orTrap false t = .trap t := rfl

theorem Wait.trap_and (t : Trap) (w : Wait) : (Wait.trap t).and w = .trap t := rfl

/-! ### TSWAP (R218, R238) -/

/-- The sets and the banks exchanged, which opens a tile under the set that becomes the active one. -/
def State.swapSets (s : State) : State :=
  let s := (s.openTile true).modEng (fun e => { e with active := e.shadow, shadow := e.active, sel := !e.sel })
  (s.modTile (fun t => { t with set := s.eng.active, tileId := s.eng.active.tileId })).addBeat .tswap

theorem State.eng_swapSets (s : State) : s.swapSets.eng.active = s.eng.shadow ∧ s.swapSets.eng.shadow = s.eng.active
    ∧ s.swapSets.eng.sel = !s.eng.sel ∧ s.swapSets.eng.owner = some s.iss.ctx := by
  unfold State.swapSets
  extract_lets swapped
  obtain ⟨_, _, _, hopen⟩ := s.eng_openTile true
  obtain ⟨_, hbeat⟩ := (swapped.modTile (fun t => { t with set := swapped.eng.active, tileId := swapped.eng.active.tileId })).eng_addBeat
    .tswap
  rw [hbeat, State.eng_modTile, State.eng_modEng, hopen]
  exact ⟨rfl, rfl, rfl, rfl⟩

section
variable {s : State} (hmx : s.cl.mx = true) (hw : s.beatWait = .go)
include hmx hw

theorem tswap_swaps (ht : s.tile = none) (hok : s.eng.shadow.tileOk = true) : Does s .tswap s.swapSets :=
  beat_does hmx (execTswap.eq_def s) (by rw [hw, ht, State.opens, ht, hok]; rfl)

theorem tswap_in_tile {t : Tile} (ht : s.tile = some t) : Traps s .tswap { cause := 0x0D, info := s.eng.active.tileId } :=
  beat_traps hmx (execTswap.eq_def s) (by rw [hw, ht]; rfl)

theorem tswap_reserved (ht : s.tile = none) (hok : s.eng.shadow.tileOk = false) : Traps s .tswap { cause := 0x0A } :=
  beat_traps hmx (execTswap.eq_def s) (by rw [hw, ht, State.opens, ht, hok]; rfl)

/-! ### TZERO (R239) -/

theorem tzero_reserved {a : Fin 128} {n : Fin 32} (ht : s.tile = none) (hok : s.eng.active.tileOk = false) :
    Traps s (.tzero a n) { cause := 0x0A } :=
  beat_traps hmx (execTzero.eq_def a n s) (by rw [hw, State.opens, ht, hok]; rfl)

end

theorem Engine.accA_setAcc (e : Engine) (a : Nat) (ra rb : List Nat) (b : Nat) :
    (e.setAcc a ra rb).accA b = if b = a then ra else e.accA b := by
  by_cases h : b = a
  · rw [if_pos h, h]
    exact tget_tset_self ..
  · rw [if_neg h]
    exact tget_tset_ne _ _ _ h

/-- Accumulator rows of both arrays cleared. -/
def Engine.zeroRows (e : Engine) (rows : List Nat) : Engine := rows.foldl (fun e r => e.setAcc r zeroRow zeroRow) e

theorem Engine.accA_zeroRows (e : Engine) (rows : List Nat) (b : Nat) :
    (e.zeroRows rows).accA b = if b ∈ rows then zeroRow else e.accA b := by
  induction rows generalizing e with
  | nil => simp [Engine.zeroRows]
  | cons r rows ih =>
    have hstep : e.zeroRows (r :: rows) = (e.setAcc r zeroRow zeroRow).zeroRows rows := rfl
    rw [hstep, ih, Engine.accA_setAcc]
    by_cases hb : b ∈ rows <;> simp [hb]

/-- The rows that TZERO a, n names. -/
def tzeroRows (a n : Nat) : List Nat := (List.range (n + 1)).map (a + ·)

theorem mem_tzeroRows {a n b : Nat} : b ∈ tzeroRows a n ↔ a ≤ b ∧ b ≤ a + n := by
  simp only [tzeroRows, List.mem_map, List.mem_range]
  exact ⟨by rintro ⟨i, hi, rfl⟩; omega, fun h => ⟨b - a, by omega, by omega⟩⟩

/-- TZERO as a beat of the open tile, or of one that it opens. -/
def State.zeroBeat (s : State) (a n : Nat) : State :=
  (((s.openTile false).addBeat (.tzero a n)).modEng (·.zeroRows (tzeroRows a n))).modTile
    (fun t => { t with init := t.init ++ tzeroRows a n })

theorem State.accA_zeroBeat (s : State) (a n b : Nat) :
    (s.zeroBeat a n).eng.accA b = if a ≤ b ∧ b ≤ a + n then zeroRow else s.eng.accA b := by
  obtain ⟨_, _, _, hopen⟩ := s.eng_openTile false
  obtain ⟨_, hbeat⟩ := (s.openTile false).eng_addBeat (.tzero a n)
  have hkept : ((s.openTile false).addBeat (.tzero a n)).eng.accA b = s.eng.accA b := by
    rw [hbeat, hopen]
    rfl
  calc (s.zeroBeat a n).eng.accA b
      = (((s.openTile false).addBeat (.tzero a n)).eng.zeroRows (tzeroRows a n)).accA b := by
        rw [State.zeroBeat, State.eng_modTile, State.eng_modEng]
        rfl
    _ = _ := by rw [Engine.accA_zeroRows, hkept, if_congr mem_tzeroRows rfl rfl]

theorem tzero_zeroes {s : State} {a : Fin 128} {n : Fin 32} (hmx : s.cl.mx = true) (hw : s.beatWait = .go)
    (hopens : s.tile.isSome = true ∨ s.eng.active.tileOk = true) (hfits : s.beatFits (.tzero a.val n.val) = .go) :
    Does s (.tzero a n) (s.zeroBeat a.val n.val) :=
  beat_does hmx (execTzero.eq_def a n s) (by rw [hw, hfits, State.opens, (Bool.or_eq_true _ _).mpr hopens]; rfl)

/-! ### TCLOSE (R92, R227, R240) -/

/-- A tile as its TCLOSE leaves it: with the pair of signatures of its engine, or, with no DRAIN, the pair of all ones. -/
def Tile.sealed (t : Tile) (e : Engine) (serial : Nat) : Tile :=
  let sig (x : Dword) : Dword := if t.drains then x else BitVec.allOnes 64
  { t with siga := sig e.active.siga, sigs := sig e.active.sigs, serial := serial }

/-- The open tile closed, and the engine released. -/
def State.closeTile (s : State) (t : Tile) : State :=
  s.modEng (fun e => { e with owner := none, tile := none, closed := if s.cc.split then [] else e.closed ++ [t.sealed e s.iss.serial] })

theorem State.eng_closeTile (s : State) (t : Tile) : (s.closeTile t).eng =
    { s.eng with owner := none, tile := none, closed := if s.cc.split then [] else s.eng.closed ++ [t.sealed s.eng s.iss.serial] } :=
  s.eng_modEng _

section
variable {s : State} (hmx : s.cl.mx = true)
include hmx

theorem tclose_without_tile (hw : s.beatWait = .go) (ht : s.tile = none) :
    Does s .tclose (s.modEng (fun e => if e.owner = some s.iss.ctx then { e with owner := none } else e)) :=
  beat_does hmx (execTclose.eq_def s) (by rw [hw, ht]; rfl) (by simp only [ht])

variable {t : Tile} (hret : s.engRetired = false) (ht : s.tile = some t)

omit hmx in
include hret ht in
theorem State.beatWait_of_tile : s.beatWait = .go := by
  have howner : s.eng.owner = some s.iss.ctx := by
    by_contra h
    simp [State.tile, h] at ht
  simp [State.beatWait, hret, howner]

include hret ht

theorem tclose_closes (hroom : s.eng.closed.length < 3) : Does s .tclose (s.closeTile t) :=
  beat_does hmx (execTclose.eq_def s) (by simp [State.beatWait_of_tile hret ht, ht, hroom]) (by simp only [ht]; rfl)

theorem tclose_waits (hfull : 3 ≤ s.eng.closed.length) : Holds s .tclose :=
  beat_holds hmx (execTclose.eq_def s) (by simp [State.beatWait_of_tile hret ht, ht, Nat.not_lt.2 hfull])

end

/-! ### All of it -/

/-- Settles O31: every beat passes the same two tests first, its launch's use of the engine and the engine's owner; then each of TSWAP,
TZERO and TCLOSE by whether a tile is open and whether a set may open one. -/
theorem matrixBeats : Obligations.MatrixBeats := by
  refine ⟨fun s w off n a h => ⟨fun hmx i hi => (s.isBeat_all w off n a h i hi).traps hmx, fun hmx x ho hx i hi =>
    (s.isBeat_all w off n a h i hi).holds hmx (State.beatWait_of_other ho hx)⟩, fun s a n t hmx => ⟨fun hw ht hok => ?_,
    fun hw ht => tswap_in_tile hmx hw ht, fun hw ht => tswap_reserved hmx hw ht, fun hw ht => tzero_reserved hmx hw ht,
    fun hw hopens hfits => ⟨_, tzero_zeroes hmx hw hopens hfits, s.accA_zeroBeat a.val n.val⟩, tclose_without_tile hmx,
    fun hret ht hroom => ⟨_, tclose_closes hmx hret ht hroom, ?_⟩, tclose_waits hmx⟩⟩
  · exact ⟨_, tswap_swaps hmx hw ht hok, s.eng_swapSets⟩
  · rw [State.eng_closeTile]
    refine ⟨rfl, rfl, fun hsplit => ⟨t.sealed s.eng s.iss.serial, ?_, rfl, rfl, rfl, rfl⟩⟩
    simp [hsplit]

end Sys2Proof.Machine
end

section
/-! PROOFS. The fetch unit and the results of a core: lines and entries that arrive, split bundles, parking, results that land,
publications and the end of a freeze (R94, R102, R104, R135, R136, R139, R144, R150, R220). -/

namespace Sys2Proof.Machine

/-! ### What halting a context does (R137, R409) -/

theorem Core.modEng_ctxs (k : Core) (h : Nat) (f : Engine → Engine) : (k.modEng h f).ctxs = k.ctxs := by
  unfold Core.modEng
  split <;> rfl

section
variable (s : State)

/-- A part of a core that a change keeps is as before on every core. -/
theorem State.core_modCore_keeps {β : Type} (g : Core → β) {f : Core → Core} (hf : ∀ k, g (f k) = g k) (c d : Nat) :
    g ((s.modCore c f).core d) = g (s.core d) := by
  by_cases h : d = c
  · rw [h, State.core_modCore_self, hf]
  · rw [State.core_modCore_ne _ _ h]

/-- A change of the primary of a half changes nothing else of any core. -/
theorem State.yieldPrimary_keeps {β : Type} (g : Core → β) (hg : ∀ k p q, g { k with prim0 := p, prim1 := q } = g k) (c x d : Nat) :
    g ((s.yieldPrimary c x).core d) = g (s.core d) := by
  unfold State.yieldPrimary
  extract_lets h
  by_cases hp : (s.core c).primary h = x
  · rw [if_pos hp]
    refine s.core_modCore_keeps g (fun k => ?_) c d
    by_cases hh : h = 1
    · rw [if_pos hh]
      exact hg k k.prim0 _
    · rw [if_neg hh]
      exact hg k _ k.prim1
  · rw [if_neg hp]

theorem State.yieldPrimary_ctx (c x d y : Nat) : (s.yieldPrimary c x).ctx d y = s.ctx d y :=
  s.yieldPrimary_keeps (fun k => tget k.ctxs y {}) (fun _ _ _ => rfl) c x d

theorem State.haltTrapped_status (c x : Nat) : ((s.haltTrapped c x).ctx c x).status = .halted := by
  unfold State.haltTrapped
  extract_lets ended halted abandoned counted
  have hctx : counted.ctx c x = halted.ctx c x := halted.ctx_modCore_keeps (fun k => k.modEng_ctxs ..) ..
  rw [State.yieldPrimary_ctx, hctx, State.ctx_modCtx_self]

theorem State.cancelGin_ctx (d gin c x : Nat) : (s.cancelGin d gin).ctx c x = s.ctx c x := rfl

theorem State.programError_status (c x : Nat) (t : Trap) (pos : Nat) : ((s.programError c x t pos).ctx c x).status = .halted := by
  unfold State.programError
  extract_lets gin recorded
  rw [State.cancelGin_ctx]
  exact recorded.haltTrapped_status c x

end

/-! ### Lines and entries that arrive (R102, R104) -/

section
variable (s : State)

theorem State.refetch_core (c : Nat) : (s.refetch c).core c =
    { s.core c with ctxs := (s.core c).ctxs.map (fun p => (p.1, { p.2 with fetchWait := false })) } :=
  s.core_modCore_self ..

/-- A line joins the index cache of a core, in place of another where that is full. -/
def State.fillIndex (s : State) (c a : Nat) : State :=
  if (s.core c).icache.length < 256 then s.modCore c (fun k => { k with icache := k.icache ++ [a] })
  else (s.choose 256).2.modCore c (fun k => { k with icache := k.icache.eraseIdx (s.choose 256).1 ++ [a] })

theorem State.fillIndex_icache (c a : Nat) : a ∈ ((s.fillIndex c a).core c).icache
    ∧ ((s.core c).icache.length ≤ 256 → ((s.fillIndex c a).core c).icache.length ≤ 256) := by
  unfold State.fillIndex
  split_ifs with hroom
  · rw [State.core_modCore_self]
    exact ⟨by simp, fun _ => by simpa using hroom⟩
  · rw [State.core_modCore_self]
    have hn : (s.choose 256).1 < 256 := Nat.mod_lt _ (by decide)
    refine ⟨by simp, fun hlen => ?_⟩
    have hfull : (s.core c).icache.length = 256 := by omega
    change (((s.core c).icache.eraseIdx (s.choose 256).1) ++ [a]).length ≤ 256
    rw [List.length_append, List.length_eraseIdx_of_lt (by rwa [hfull]), hfull]
    rfl

theorem indexLineFill_holds : ∃ t, exec .indexLineFill s = .next t ∧ s.arg.id ∈ (t.core s.arg.core).icache
    ∧ ((s.core s.arg.core).icache.length ≤ 256 → (t.core s.arg.core).icache.length ≤ 256) := by
  have hcache : ((s.refetch s.arg.core).core s.arg.core).icache = (s.core s.arg.core).icache := by rw [State.refetch_core]
  by_cases hin : (s.core s.arg.core).icache.contains s.arg.id = true
  · refine ⟨s.refetch s.arg.core, if_pos hin, ?_⟩
    rw [hcache]
    exact ⟨List.contains_iff_mem.1 hin, id⟩
  · obtain ⟨hmem, hlen⟩ := (s.refetch s.arg.core).fillIndex_icache s.arg.core s.arg.id
    refine ⟨_, ?_, hmem, hcache ▸ hlen⟩
    change execIndexLineFill s = _
    rw [State.fillIndex, hcache]
    exact (if_neg hin).trans (apply_ite ..).symm

/-- An entry of a core's dictionary store as the image of a region has it, and its error gone. -/
def State.rereadEntry (s : State) (c e : Nat) (r : Region) : State :=
  s.modCore c (fun k => { k with
    dict := tset k.dict e (BitVec.ofNat 384 (mread s.mem ((s.launch (r.users.headD 0)).dictAt + 48 * (e - r.first)) 48)),
    dictErr := k.dictErr.filter (fun d => d.1 != e) })

theorem State.refetch_regions (c : Nat) : ((s.refetch c).core c).regions = (s.core c).regions := by rw [State.refetch_core]

theorem dictionaryReread_rewrites {r : Region} (hr : (s.core s.arg.core).regions.find?
      (fun r => r.first ≤ s.arg.id && s.arg.id < r.first + r.count) = some r) :
    exec .dictionaryReread s =
      let u := (s.refetch s.arg.core).rereadEntry s.arg.core s.arg.id r
      .next (u.post (u.recOf s.arg.core s.arg.ctx
        { cls := 3, cause := 0x1E, sub := 1, pos := (u.ctx s.arg.core s.arg.ctx).r.pc.toNat })) := by
  change execDictionaryReread s = _
  simp only [execDictionaryReread, s.refetch_regions, hr]
  rfl

theorem State.post_core (r : Rec) (c : Nat) : (s.post r).core c = s.core c := by
  obtain ⟨_, _, h⟩ := s.post_onlyRecords r
  rw [h]
  rfl

theorem dictionaryReread_entry {r : Region} (hr : (s.core s.arg.core).regions.find?
      (fun r => r.first ≤ s.arg.id && s.arg.id < r.first + r.count) = some r) :
    ∃ t, exec .dictionaryReread s = .next t ∧ tget (t.core s.arg.core).dict s.arg.id 0#384
      = BitVec.ofNat 384 (mread s.mem ((s.launch (r.users.headD 0)).dictAt + 48 * (s.arg.id - r.first)) 48) := by
  refine ⟨_, dictionaryReread_rewrites s hr, ?_⟩
  rw [State.post_core, State.rereadEntry, State.core_modCore_self]
  exact tget_tset_self ..

/-- A filter that keeps the errors of other entries leaves none of this one. -/
theorem fst_ne_of_mem_filter {α : Type} {e : Nat} {l : List (Nat × α)} : ∀ d ∈ l.filter (fun d => d.1 != e), d.1 ≠ e :=
  fun _ hd => by simpa using (List.mem_filter.1 hd).2

theorem dictionaryReread_rights : ∃ t, exec .dictionaryReread s = .next t ∧ ∀ d ∈ (t.core s.arg.core).dictErr, d.1 ≠ s.arg.id := by
  cases hr : (s.core s.arg.core).regions.find? (fun r => r.first ≤ s.arg.id && s.arg.id < r.first + r.count) with
  | none =>
    refine ⟨(s.refetch s.arg.core).modCore s.arg.core (fun k => { k with dictErr := k.dictErr.filter (fun d => d.1 != s.arg.id) }),
      show execDictionaryReread s = _ from ?_, ?_⟩
    · simp only [execDictionaryReread, s.refetch_regions, hr]
    · rw [State.core_modCore_self]
      exact fst_ne_of_mem_filter
  | some r =>
    refine ⟨_, dictionaryReread_rewrites s hr, ?_⟩
    rw [State.post_core, State.rereadEntry, State.core_modCore_self]
    exact fst_ne_of_mem_filter

end

/-! ### Steps of a context (R94, R135, R136, R139, R220) -/

section
variable {s : State}

theorem Regs.flight_write (r : Regs) (w : RegWrite) : (r.write w).flight = r.flight := by
  unfold Regs.write
  split
  · split_ifs <;> rfl
  · rfl
  · split_ifs <;> rfl

theorem splitBundleSecondCycle_joins : ∃ t, exec .splitBundleSecondCycle s = .next t ∧ (t.ctx s.arg.core s.arg.ctx).split = []
    ∧ (t.ctx s.arg.core s.arg.ctx).splitOn = false
    ∧ (t.ctx s.arg.core s.arg.ctx).r.flight = (s.ctx s.arg.core s.arg.ctx).r.flight
      ++ ((s.ctx s.arg.core s.arg.ctx).split.filter (fun f => 1 < f.dist)).map (fun f => { f with dist := f.dist - 1 }) := by
  refine ⟨_, execSplitBundleSecondCycle.eq_def s, ?_⟩
  rw [State.ctx_modCtx_self]
  refine ⟨rfl, rfl, ?_⟩
  have hwrites (r : Regs) (l : List InFlight) : (l.foldl (fun r f => r.write f.w) r).flight = r.flight :=
    foldl_keeps Regs.flight (fun r f => r.flight_write f.w) l r
  simp only [hwrites]

theorem contextPark_parks (h : (s.ctx s.arg.core s.arg.ctx).status = .waiting) :
    ∃ t, exec .contextPark s = .next t ∧ (t.ctx s.arg.core s.arg.ctx).status = .parked := by
  refine ⟨_, show execContextPark s = _ from if_pos h, ?_⟩
  rw [State.yieldPrimary_ctx, State.ctx_modCtx_self]

theorem contextPark_keeps (h : (s.ctx s.arg.core s.arg.ctx).status ≠ .waiting) : exec .contextPark s = .next s :=
  show execContextPark s = _ from if_neg h

theorem contextUnpark_readies (h : (s.ctx s.arg.core s.arg.ctx).status = .parked) : ∃ t, exec .contextUnpark s = .next t
    ∧ t.ctx s.arg.core s.arg.ctx = { s.ctx s.arg.core s.arg.ctx with status := .ready, waitClk := 0 } := by
  refine ⟨_, execContextUnpark.eq_def s, ?_⟩
  rw [State.ctx_modCtx_self, if_pos h]

/-- A step of context x counts for the engine: its owner is x or, with none, x used it last (R216). -/
def Engine.serves (e : Engine) (x : Nat) : Bool := e.owner.getD (e.lastUser.getD x) = x

/-- An engine after a step of a context. -/
def Engine.stepFor (e : Engine) (x : Nat) (ilk : Bool) : Engine :=
  let e := e.step x !ilk
  if e.serves x then e.stepBanks else e

/-- The results of a context are a step nearer. -/
def State.landed (s : State) (c x : Nat) : State := s.modCtx c x (fun k => { k with r := k.r.stepFlight })

/-- The engine that serves a context makes its step. -/
def State.stepEng (s : State) (c x : Nat) (ilk : Bool) : State :=
  s.modCore c (fun k => k.modEng (if k.split then x / 4 else 0) (·.stepFor x ilk))

theorem State.stepEng_ctx (c x : Nat) (ilk : Bool) : (s.stepEng c x ilk).ctx c x = s.ctx c x :=
  s.ctx_modCore_keeps (fun k => k.modEng_ctxs ..) ..

theorem State.landed_eng (c x y : Nat) : ((s.landed c x).core c).eng ((s.landed c x).half c y) = (s.core c).eng (s.half c y) := by
  rw [State.half, State.landed, State.core_modCtx_self]
  rfl

/-- The matrix sequence fault of a step that brings a new format to the active bank (R220). -/
def State.sequenceFault (s : State) (c x : Nat) : State :=
  let e := (s.core c).eng (s.half c x)
  if e.serves x && e.newFormat then
    s.programError c x { cause := 0x0D, slot := 5, info := e.active.tileId } (s.ctx c x).r.pc.toNat
  else s

theorem resultLand_eq : exec .resultLand s = .next (((s.landed s.arg.core s.arg.ctx).sequenceFault s.arg.core s.arg.ctx).stepEng
    s.arg.core s.arg.ctx (s.ctx s.arg.core s.arg.ctx).r.ilk) := rfl

theorem resultLand_steps (h : ((s.core s.arg.core).eng (s.half s.arg.core s.arg.ctx)).newFormat = false) :
    ∃ t, exec .resultLand s = .next t
      ∧ t.ctx s.arg.core s.arg.ctx = { s.ctx s.arg.core s.arg.ctx with r := (s.ctx s.arg.core s.arg.ctx).r.stepFlight } := by
  refine ⟨_, resultLand_eq, ?_⟩
  rw [State.stepEng_ctx, State.sequenceFault, State.landed_eng, h, Bool.and_false, if_neg (by decide), State.landed,
    State.ctx_modCtx_self]

theorem resultLand_new_format (ho : ((s.core s.arg.core).eng (s.half s.arg.core s.arg.ctx)).owner = some s.arg.ctx)
    (h : ((s.core s.arg.core).eng (s.half s.arg.core s.arg.ctx)).newFormat = true) :
    ∃ t, exec .resultLand s = .next t ∧ (t.ctx s.arg.core s.arg.ctx).status = .halted := by
  have hserves : ((s.core s.arg.core).eng (s.half s.arg.core s.arg.ctx)).serves s.arg.ctx = true := by simp [Engine.serves, ho]
  refine ⟨_, resultLand_eq, ?_⟩
  rw [State.stepEng_ctx, State.sequenceFault, State.landed_eng, hserves, h, Bool.and_self, if_pos rfl]
  exact State.programError_status ..

theorem engineProducerPublish_publishes {h id n : Nat} (hn : s.arg.n = h)
    (hr : (s.ctx s.arg.core s.arg.ctx).resv = [(h, id, n, true)]) : ∃ t, exec .engineProducerPublish s = .next t
      ∧ (t.ctx s.arg.core s.arg.ctx).resv = []
      ∧ (t.ctx s.arg.core s.arg.ctx).r = (s.ctx s.arg.core s.arg.ctx).r.publish h := by
  refine ⟨_, execEngineProducerPublish.eq_def s, ?_⟩
  rw [State.publish, hr, List.foldl_cons, List.foldl_nil, State.publishOne, hr, hn]
  simp [State.ctx_modCore_keeps, hr]

/-! ### The end of a freeze (R150) -/

theorem State.modSp_freeze (c : Nat) (f : Spad → Spad) (d : Nat) : ((s.modSp c f).core d).freeze = (s.core d).freeze :=
  s.core_modCore_keeps Core.freeze (by exact fun _ => rfl) c d

theorem State.applyDelta_freeze (c : Nat) (d : Delta) (e : Nat) : ((s.applyDelta c d).core e).freeze = (s.core e).freeze := by
  simp only [State.applyDelta, State.stripeXor, State.xorPar, State.setPar, State.modSp_freeze]

theorem State.settleRetired_freeze (c : Nat) (e : Nat) : ((s.settleRetired c).core e).freeze = (s.core e).freeze := by
  unfold State.settleRetired
  extract_lets now settled
  rw [State.modSp_freeze]
  refine foldl_keeps (fun t : State => (t.core e).freeze) (fun t b => ?_) _ s
  simp only [State.modSp_freeze]
  exact foldl_keeps (fun t : State => (t.core e).freeze) (fun t d => t.applyDelta_freeze c d e) _ t

theorem correctionFreezeEnd_ends (h : (s.core s.arg.core).freeze ≤ s.pcyc) :
    ∃ t, exec .correctionFreezeEnd s = .next t ∧ (t.core s.arg.core).freeze = 0 := by
  refine ⟨_, congrArg Host.Outcome.next (if_pos h), ?_⟩
  rw [State.settleRetired_freeze, State.core_modCore_self]

theorem correctionFreezeEnd_waits (h : s.pcyc < (s.core s.arg.core).freeze) :
    ∃ t, exec .correctionFreezeEnd s = .next t ∧ (t.core s.arg.core).freeze = (s.core s.arg.core).freeze :=
  ⟨s, congrArg Host.Outcome.next (if_neg (Nat.not_le.2 h)), rfl⟩

end

/-! ### All of it -/

/-- Settles O43: each step by what it finds, a line held or not, a region, a status or a full engine, and by what it writes there. -/
theorem fetchEvents : Obligations.FetchEvents := fun s =>
  ⟨indexLineFill_holds s, dictionaryReread_rights s, fun _ hr => dictionaryReread_entry s hr, splitBundleSecondCycle_joins,
    contextPark_parks, contextPark_keeps, contextUnpark_readies, resultLand_steps, resultLand_new_format,
    fun _ _ _ hn _ hr => engineProducerPublish_publishes hn hr, correctionFreezeEnd_ends, correctionFreezeEnd_waits⟩

end Sys2Proof.Machine
end

section
/-! PROOFS. Power windows and grants, the permit audit, the completion of a launch and the removal of fault records (R95, R97, R412,
R425, R427, R428, R433). -/

namespace Sys2Proof.Machine

/-! ### Power windows and grants (R95, R97, R433) -/

/-- A half's power at the start of a window. -/
def Power.renewed (p : Power) : Power := { grant := p.next.getD p.grant, next := none, spent := 0 }

/-- A core's power at the start of a window. -/
def Core.renewed (k : Core) : Core := { k with pow0 := k.pow0.renewed, pow1 := k.pow1.renewed }

/-- Every core's power at the start of a window. -/
def State.renewPower (s : State) : State := { s with cores := s.cores.map (fun k => (k.1, k.2.renewed)) }

section
variable (s : State)

theorem powerWindow_renews : exec .powerWindow s = .next s.renewPower := rfl

theorem State.renewPower_core (c : Nat) : s.renewPower.core c = (s.core c).renewed := tget_map s.cores Core.renewed rfl c

theorem State.renewPower_listed : ∀ p ∈ s.cores, (s.renewPower.cores.find? (fun q => q.1 = p.1)).isSome = true := fun _ hp =>
  List.find?_isSome.2 ⟨_, List.mem_map_of_mem hp, decide_eq_true rfl⟩

theorem State.renewPower_unspent : ∀ p ∈ s.renewPower.cores,
    p.2.pow0.spent = 0 ∧ p.2.pow1.spent = 0 ∧ p.2.pow0.next = none ∧ p.2.pow1.next = none := fun _ hp => by
  obtain ⟨k, _, rfl⟩ := List.mem_map.1 hp
  exact ⟨rfl, rfl, rfl, rfl⟩

/-- A die whose sensor has read a temperature, and whose throttle has moved by one step for it. -/
def Die.sensed (k : Die) (t : Nat) : Die := { k with temp := t, thr := if k.tlim ≤ t then min 4 (k.thr + 1) else k.thr - 1 }

variable {s}

theorem grantRecompute_of_request (hflag : s.arg.flag = false) : exec .grantRecompute s = .next (s.computeGrants s.arg.n) := by
  change execGrantRecompute s = _
  simp only [execGrantRecompute, hflag, Bool.not_false, if_true]

theorem grantRecompute_senses (hflag : s.arg.flag = true) :
    ∃ u : State, exec .grantRecompute s = .next (u.computeGrants s.arg.n)
      ∧ ((s.die s.arg.n).tlim ≤ (u.die s.arg.n).temp → (u.die s.arg.n).thr = min 4 ((s.die s.arg.n).thr + 1))
      ∧ ((u.die s.arg.n).temp < (s.die s.arg.n).tlim → (u.die s.arg.n).thr = (s.die s.arg.n).thr - 1) := by
  refine ⟨(s.choose 256).2.modDie s.arg.n (·.sensed (s.choose 256).1), ?_, ?_⟩
  · change execGrantRecompute s = _
    simp only [execGrantRecompute, hflag, Bool.not_true, Bool.false_eq_true, if_false]
    rfl
  · rw [State.die_modDie_self]
    exact ⟨fun h => if_pos h, fun h => if_neg (Nat.not_le.2 h)⟩

/-! ### The permit audit (R425) -/

@[simp] theorem State.die_sched (due route : Nat) (i : Instr) (a : Arg) (d : Nat) : (s.sched_ due route i a).die d = s.die d := rfl

theorem permitAudit_begins : ∃ t, exec .permitAudit s = .next t ∧ (t.die s.arg.n).audit = some (s.pcyc + 2048)
    ∧ ∃ e ∈ t.sched, e.ev = .permitAuditEnd ∧ e.due = s.pcyc + 2048 ∧ e.arg.n = s.arg.n := by
  refine ⟨_, execPermitAudit.eq_def s, by simp, ?_⟩
  rw [State.sched_route_zero]
  exact ⟨_, List.mem_append_right _ (List.mem_singleton_self _), rfl, rfl, rfl⟩

theorem permitAuditEnd_restores : ∃ t, exec .permitAuditEnd s = .next t ∧ (t.die s.arg.n).audit = none
    ∧ (t.die s.arg.n).permits = [] := by
  refine ⟨_, execPermitAuditEnd.eq_def s, ?_⟩
  rw [State.die_modDie_self]
  exact ⟨rfl, rfl⟩

/-! ### Fault records (R412) -/

theorem faultRecordRemove_removes {w : BitVec 512} {rest : List (BitVec 512)} (h : s.fq.ring = w :: rest) :
    ∃ t, exec .faultRecordRemove s = .next t ∧ t.fq.host = s.fq.host ++ [w] ∧ (s.fq.heldRecs = [] → t.fq.ring = rest)
      ∧ ∀ r l, s.fq.heldRecs = r :: l → t.fq.ring = rest ++ [r] ∧ t.fq.heldRecs = l := by
  cases hheld : s.fq.heldRecs with
  | nil =>
    refine ⟨{ s with fq := { s.fq with ring := rest, heldRecs := [], host := s.fq.host ++ [w], lastOut := s.pcyc } },
      show execFaultRecordRemove s = _ from ?_, rfl, fun _ => rfl, fun _ _ hne => absurd hne.symm (List.cons_ne_nil _ _)⟩
    simp only [execFaultRecordRemove, h, hheld]
  | cons r l =>
    refine ⟨{ s with fq := { s.fq with ring := rest ++ [r], heldRecs := l, host := s.fq.host ++ [w], lastOut := s.pcyc } },
      show execFaultRecordRemove s = _ from ?_, rfl, fun hne => absurd hne (List.cons_ne_nil _ _), fun _ _ heq => ?_⟩
    · simp only [execFaultRecordRemove, h, hheld]
    · obtain ⟨rfl, rfl⟩ := List.cons.inj heq
      exact ⟨rfl, rfl⟩

end

/-! ### What leaves the distributor alone: lines and pins that go (R273, R284, R318, R319) -/

namespace State
variable (s : State)

@[simp] theorem toPort_dist (p : Packet) : (s.toPort p).dist = s.dist := by
  unfold toPort
  split_ifs <;> rfl

@[simp] theorem ask_dist (r : Req) : (s.ask r).dist = s.dist := by
  unfold ask
  extract_lets lent q asked known dir
  split_ifs
  · exact asked.toPort_dist _
  · rfl
  · rfl

@[simp] theorem writeBack_dist (who : Agent) (launch task sendNo : Nat) (e : Lrt) (va data be : Nat) :
    (s.writeBack who launch task sendNo e va data be).dist = s.dist := by
  unfold writeBack
  rw [ask_dist]
  split <;> rfl

@[simp] theorem fillL2_dist (c : Nat) (l : CLine) : (s.fillL2 c l).dist = s.dist := by
  simp only [fillL2]
  split
  · split_ifs
    · rfl
    · exact writeBack_dist ..
  · rfl

theorem toSlice_dist (c : Nat) (l : CLine) : (s.toSlice c l).dist = s.dist := fillL2_dist ..

theorem l1ToSlice_dist (c : Nat) (p : CLine → Bool) : (s.l1ToSlice c p).dist = s.dist := by
  unfold l1ToSlice
  refine foldl_keeps dist (fun t l => ?_) _ s
  exact toSlice_dist ..

theorem writeBackRanges_dist (c launch : Nat) (rs : List (Nat × Nat × Nat)) : (s.writeBackRanges c launch rs).dist = s.dist := by
  unfold writeBackRanges sliceToHome
  refine (foldl_keeps dist (fun t l => ?_) _ _).trans (s.l1ToSlice_dist ..)
  exact writeBack_dist ..

/-- t is s but for the slices, the lines that their homes keep and what moves next. -/
def OnlySlices (s t : State) : Prop := ∃ clus lines agenda, t = { s with clus := clus, lines := lines, agenda := agenda }

theorem OnlySlices.refl : s.OnlySlices s := ⟨_, _, _, rfl⟩

variable {s} in
theorem OnlySlices.trans {t u : State} (h : s.OnlySlices t) (k : t.OnlySlices u) : s.OnlySlices u := by
  obtain ⟨_, _, _, rfl⟩ := h
  obtain ⟨_, _, _, rfl⟩ := k
  exact ⟨_, _, _, rfl⟩

theorem OnlySlices.foldl {α : Type} {f : State → α → State} (h : ∀ (t : State) (a : α), t.OnlySlices (f t a)) (l : List α) :
    s.OnlySlices (l.foldl f s) :=
  List.foldlRecOn (motive := s.OnlySlices) l f (.refl s) fun _ ht a _ => ht.trans (h _ a)

theorem OnlySlices.inOrder {f : State → State} (h : ∀ t : State, t.OnlySlices (f t)) : s.OnlySlices (s.inOrder f) := by
  obtain ⟨_, _, _, hf⟩ := h { s with agenda := [] }
  unfold State.inOrder
  rw [hf]
  exact ⟨_, _, _, rfl⟩

theorem releasePinned_onlySlices (k : Nat) : s.OnlySlices (s.releasePinned k) := by
  unfold releasePinned
  refine OnlySlices.inOrder s fun t => ?_
  extract_lets released
  have hreleased : t.OnlySlices released := by
    refine OnlySlices.foldl t (fun u id => ?_) _
    split
    · split_ifs
      · exact .refl u
      · exact ⟨_, _, _, rfl⟩
    · exact ⟨_, _, _, rfl⟩
  split_ifs
  · exact hreleased
  · exact hreleased.trans ⟨_, _, _, rfl⟩

theorem unpinLine_onlySlices (k asid va launch : Nat) : s.OnlySlices (s.unpinLine k asid va launch) := by
  unfold unpinLine
  split
  · exact .refl s
  · extract_lets m unpinned homed
    have hunpinned : s.OnlySlices unpinned := ⟨_, _, _, rfl⟩
    have hhomed : unpinned.OnlySlices homed := by
      simp only [homed]
      split
      · exact ⟨_, _, _, rfl⟩
      · exact .refl _
    split_ifs
    · exact hunpinned
    · exact (hunpinned.trans hhomed).trans (homed.releasePinned_onlySlices k)

theorem dropPins_onlySlices (k l : Nat) : s.OnlySlices (s.dropPins k l) := by
  unfold dropPins
  exact .foldl s (fun t (m : CLine) => .foldl t (fun u _ => u.unpinLine_onlySlices k m.asid m.va l) _) _

theorem dropPins_dist (k l : Nat) : (s.dropPins k l).dist = s.dist := by
  obtain ⟨_, _, _, h⟩ := s.dropPins_onlySlices k l
  rw [h]

theorem leaveCore_dist (c l : Nat) : (s.leaveCore c l).dist = s.dist := State.leaveCore_keeps State.dist (fun _ _ _ _ => rfl) s c l

end State

/-! ### The completion of a launch (R427, R428) -/

theorem State.launch?_id {s : State} {n : Nat} {l : Launch} (h : s.launch? n = some l) : l.id = n := by
  simpa using List.find?_some h

theorem State.launch?_of_dist {s t : State} (h : t.dist = s.dist) (n : Nat) : t.launch? n = s.launch? n := by
  rw [State.launch?, h, State.launch?]

/-- A change of a launch that keeps its number. -/
theorem State.launch?_modLaunch {s : State} {n : Nat} {l : Launch} {f : Launch → Launch} (hf : ∀ k, (f k).id = k.id)
    (h : s.launch? n = some l) : (s.modLaunch n f).launch? n = some (f l) := by
  have hid (k : Launch) : (if k.id = n then f k else k).id = k.id := by
    split
    · exact hf k
    · rfl
  rw [State.launch?, State.modLaunch, List.find?_map]
  simp only [Function.comp_def, hid]
  rw [← State.launch?, h, Option.map_some, if_pos (State.launch?_id h)]

section
variable (s : State) (l : Launch)

/-- A launch whose end has come has its status. -/
def State.fixStatus : State :=
  if l.status = none then s.modLaunch l.id (fun k => { k with status := some (if k.ended = k.total then 0 else 2) }) else s

/-- The lines of a launch that hardware does not keep coherent set out for their homes, which is the clock of its completion. -/
def State.closeLaunch : State :=
  if l.closing = true then s
  else l.ran.foldl (fun (u : State) c => u.writeBackRanges c l.id
      (u.bound l.id ((l.lrt.filter (fun e => e.v && e.coh != 0)).map (fun e => (e.base, e.limit)))))
    (s.modLaunch l.id (fun k => { k with closing := true, doneAt := some s.pcyc }))

/-- Pins, banks and barriers of a launch go. -/
def State.clearLaunch : State :=
  let u := l.ran.foldl (fun (s : State) c => s.leaveCore c l.id)
    ((l.ran.map clusOf).eraseDups.foldl (fun (s : State) k => s.dropPins k l.id) s)
  { u with bars := u.bars.filter (fun b => b.launch != l.id) }

theorem State.clearLaunch_dist : (s.clearLaunch l).dist = s.dist :=
  (foldl_keeps State.dist (fun _ _ => State.leaveCore_dist ..) _ _).trans (foldl_keeps State.dist (fun _ _ => State.dropPins_dist ..) _ _)

/-- The record of a launch that is over. -/
def State.recordLaunch : State := s.finishLaunch (s.launch l.id) ((s.launch l.id).status.getD 0) 0

variable {s l}

theorem State.fixStatus_pcyc : (s.fixStatus l).pcyc = s.pcyc := by
  unfold State.fixStatus
  split_ifs <;> rfl

/-- The queue that a launch came from is known of it until it is over. -/
theorem State.fixStatus_launch? (h : s.launch? l.id = some l) : ∃ k, (s.fixStatus l).launch? l.id = some k ∧ k.q = l.q := by
  unfold State.fixStatus
  split_ifs
  · exact ⟨_, State.launch?_modLaunch (by exact fun _ => rfl) h, rfl⟩
  · exact ⟨l, h, rfl⟩

theorem State.closeLaunch_launch? {k : Launch} (h : s.launch? l.id = some k) (hq : k.q = l.q) :
    ∃ k, (s.closeLaunch l).launch? l.id = some k ∧ k.q = l.q := by
  unfold State.closeLaunch
  split_ifs
  · exact ⟨k, h, hq⟩
  · rw [State.launch?_of_dist (foldl_keeps State.dist (fun _ _ => State.writeBackRanges_dist ..) _ _)]
    exact ⟨_, State.launch?_modLaunch (by exact fun _ => rfl) h, hq⟩

theorem State.recordLaunch_records {k : Launch} (h : s.launch? l.id = some k) (hq : k.q = l.q) :
    (∀ m ∈ (s.recordLaunch l).dist.launches, m.id ≠ l.id) ∧ (s.recordLaunch l).bars = s.bars
      ∧ (s.recordLaunch l).agenda.head? = some (.ev .completionRecordWrite { n := l.q }) := by
  have hk : s.launch l.id = k := by rw [State.launch, h, Option.getD_some]
  have hid := State.launch?_id h
  rw [State.recordLaunch, hk]
  refine ⟨fun m hm => ?_, rfl, by rw [← hq]; rfl⟩
  simpa [hid] using (List.mem_filter.1 hm).2

section
variable (hl : s.launch? s.arg.id = some l)
include hl

theorem launchComplete_waits (hdue : s.completeDue l = false) : exec .launchComplete s = .next s := by
  change execLaunchComplete s = _
  simp only [execLaunchComplete, hl, hdue, Bool.not_false, if_true]

variable (hdue : s.completeDue l = true)
include hdue

theorem launchComplete_eq : exec .launchComplete s =
    .next (if !(s.fixStatus l).settled l.id then s.fixStatus l
      else if ((s.fixStatus l).closeLaunch l).closingOut l then (s.fixStatus l).closeLaunch l
      else (((s.fixStatus l).closeLaunch l).clearLaunch l).recordLaunch l) := by
  change execLaunchComplete s = _
  simp only [execLaunchComplete, hl, hdue, Bool.not_true, Bool.false_eq_true, if_false, Option.isNone_iff_eq_none]
  change (if !(s.fixStatus l).settled l.id then Host.Outcome.next (s.fixStatus l)
    else if ((s.fixStatus l).closeLaunch l).closingOut l then .next ((s.fixStatus l).closeLaunch l)
    else .next ((((s.fixStatus l).closeLaunch l).clearLaunch l).recordLaunch l)) = _
  rw [apply_ite Host.Outcome.next, apply_ite Host.Outcome.next]

theorem launchComplete_fixes (hset : (s.fixStatus l).settled l.id = false) : exec .launchComplete s = .next (s.fixStatus l) := by
  rw [launchComplete_eq hl hdue, hset]
  rfl

variable (hset : (s.fixStatus l).settled l.id = true)
include hset

theorem launchComplete_closes (hout : ((s.fixStatus l).closeLaunch l).closingOut l = true) :
    exec .launchComplete s = .next ((s.fixStatus l).closeLaunch l) := by
  rw [launchComplete_eq hl hdue, hset, hout]
  rfl

theorem launchComplete_records (hout : ((s.fixStatus l).closeLaunch l).closingOut l = false) :
    ∃ t, exec .launchComplete s = .next t ∧ (∀ k ∈ t.dist.launches, k.id ≠ l.id) ∧ (∀ b ∈ t.bars, b.launch ≠ l.id)
      ∧ t.agenda.head? = some (.ev .completionRecordWrite { n := l.q }) := by
  refine ⟨(((s.fixStatus l).closeLaunch l).clearLaunch l).recordLaunch l, by rw [launchComplete_eq hl hdue, hset, hout]; rfl, ?_⟩
  obtain ⟨f, hf, hfq⟩ := State.fixStatus_launch? (l := l) (s := s) (by rw [State.launch?_id hl, hl])
  obtain ⟨k, hk, hq⟩ := State.closeLaunch_launch? hf hfq
  rw [← State.launch?_of_dist (State.clearLaunch_dist _ l)] at hk
  obtain ⟨hlaunches, hbars, hagenda⟩ := State.recordLaunch_records hk hq
  refine ⟨hlaunches, hbars ▸ fun b hb => ?_, hagenda⟩
  simpa using (List.mem_filter.1 hb).2

end

end

/-! ### All of it -/

/-- Settles O55: each step by what it finds, and a completion by how far it has come: its status, its lines, then its record. -/
theorem powerAndCompletion : Obligations.PowerAndCompletion := by
  refine fun s => ⟨⟨_, powerWindow_renews s, s.renewPower_listed, s.renewPower_unspent, fun c => by rw [s.renewPower_core]; rfl⟩,
    grantRecompute_of_request, grantRecompute_senses, permitAudit_begins, permitAuditEnd_restores,
    fun l hl => ⟨launchComplete_waits hl, fun hdue => ?_⟩, fun _ _ h => faultRecordRemove_removes h⟩
  intro u rs w
  have hw : w = (s.fixStatus l).closeLaunch l := by
    rw [State.closeLaunch, State.fixStatus_pcyc]
    rfl
  exact ⟨launchComplete_fixes hl hdue, fun hset hout => hw ▸ launchComplete_closes hl hdue hset (hw ▸ hout),
    fun hset hout => launchComplete_records hl hdue hset (hw ▸ hout)⟩

end Sys2Proof.Machine
end

section
/-! PROOFS. Pre-emption requests and saves: PMCTL, requests and debug halts, an expired window, and what a save writes and leaves
(R352, R414, R416 to R419, R423). -/

namespace Sys2Proof.Machine

/-! ### The fields of PMCTL (R417) -/

theorem fld_congr {a b lo n : Nat} (h : ∀ i, lo ≤ i → i < lo + n → a.testBit i = b.testBit i) : fld a lo n = fld b lo n := by
  refine Nat.eq_of_testBit_eq fun i => ?_
  simp only [fld, Nat.testBit_mod_two_pow, Nat.testBit_div_two_pow]
  by_cases hi : i < n
  · rw [h (i + lo) (by omega) (by omega)]
  · simp [hi]

/-- The fields that a PMCTL value writes: context, step and area. -/
def pmFields (v : Nat) : Nat := fld v 0 6 + pmArea v

theorem testBit_pmFields (v i : Nat) : (pmFields v).testBit i = ((i < 6 || (12 ≤ i && i < 64)) && v.testBit i) := by
  have hlow : v % 2 ^ 6 < 2 ^ 12 := (Nat.mod_lt _ (by decide)).trans (by decide)
  have hsplit : pmFields v = 2 ^ 12 * (v / 2 ^ 12 % 2 ^ 52) + v % 2 ^ 6 := by
    simp only [pmFields, pmArea, fld]
    omega
  rw [hsplit, Nat.testBit_two_pow_mul_add _ hlow]
  simp only [Nat.testBit_mod_two_pow, Nat.testBit_div_two_pow]
  by_cases h : i < 12
  · simp [h, Nat.not_le.2 h]
  · have h6 : ¬ i < 6 := by omega
    have h64 : i - 12 < 52 ↔ i < 64 := by omega
    simp [h, h6, h64, Nat.not_lt.1 h]

theorem getLsbD_pmState (i : Nat) : (0x180#64).getLsbD i = (i == 7 || i == 8) := by
  by_cases h : i < 64
  · revert i
    decide
  · have h7 : i ≠ 7 ∧ i ≠ 8 := by omega
    rw [BitVec.getLsbD_of_ge _ _ (Nat.not_lt.1 h)]
    simp [h7]

/-- PMCTL as a write during an operation leaves it: the two state bits stay (R417). -/
def pmNoted (p : Dword) (v : Nat) : Dword := (p &&& 0x180#64) ||| BitVec.ofNat 64 (pmFields v)

theorem getLsbD_pmNoted (p : Dword) (v i : Nat) :
    (pmNoted p v).getLsbD i = ((p.getLsbD i && (i == 7 || i == 8)) || (pmFields v).testBit i) := by
  have h64 : (decide (i < 64) && (pmFields v).testBit i) = (pmFields v).testBit i := by
    rw [testBit_pmFields]
    by_cases h : i < 64
    · simp [h]
    · have h6 : ¬ i < 6 := by omega
      simp [h, h6]
  rw [pmNoted, BitVec.getLsbD_or, BitVec.getLsbD_and, getLsbD_pmState, BitVec.getLsbD_ofNat, h64]

/-- But for the state bits it reads as the value written. -/
theorem testBit_pmNoted (p : Dword) {v i : Nat} (h : i < 6 ∨ 12 ≤ i ∧ i < 64) : (pmNoted p v).toNat.testBit i = v.testBit i := by
  have h7 : i ≠ 7 ∧ i ≠ 8 := by omega
  rw [BitVec.testBit_toNat, getLsbD_pmNoted, testBit_pmFields]
  rcases h with h | h <;> simp [h, h7]

theorem pmCtx_pmNoted (p : Dword) (v : Nat) : pmCtx (pmNoted p v).toNat = pmCtx v :=
  fld_congr fun _ _ hi => testBit_pmNoted p (.inl (by omega))

theorem pmStep_pmNoted (p : Dword) (v : Nat) : pmStep (pmNoted p v).toNat = pmStep v := by
  have h := testBit_pmNoted p (v := v) (i := 5) (.inl (by decide))
  rwa [Nat.testBit_eq_decide_div_mod_eq, Nat.testBit_eq_decide_div_mod_eq] at h

theorem pmArea_pmNoted (p : Dword) (v : Nat) : pmArea (pmNoted p v).toNat = pmArea v := by
  rw [pmArea, fld_congr fun _ hlo hi => testBit_pmNoted p (v := v) (.inr ⟨hlo, by omega⟩), pmArea]

section
variable (s : State)

theorem State.pmNote_core (c v : Nat) : (s.pmNote c v).core c = { s.core c with pmctl := pmNoted (s.core c).pmctl v } :=
  s.core_modCore_self ..

theorem State.pmNote_fields (c v : Nat) : pmCtx ((s.pmNote c v).core c).pmctl.toNat = pmCtx v
    ∧ pmStep ((s.pmNote c v).core c).pmctl.toNat = pmStep v ∧ pmArea ((s.pmNote c v).core c).pmctl.toNat = pmArea v := by
  rw [State.pmNote_core]
  exact ⟨pmCtx_pmNoted .., pmStep_pmNoted .., pmArea_pmNoted ..⟩

theorem State.pmBusy_pmNote {c : Nat} (v : Nat) (h : s.pmBusy c = true) : (s.pmNote c v).pmBusy c = true := by
  rw [State.pmBusy] at h ⊢
  rw [State.pmNote_core, getLsbD_pmNoted, h]
  rfl

theorem State.pmBusy_pmBegin (c v : Nat) (saved : Bool) : (s.pmBegin c v saved).pmBusy c = true := by
  have hfields : fld v 0 6 + pmArea v = pmFields v := rfl
  rw [State.pmBusy, State.pmBegin, State.core_modCore_self, BitVec.getLsbD_ofNat, Nat.testBit_eq_decide_div_mod_eq]
  have hlow : fld v 0 6 < 64 := Nat.mod_lt _ (by decide)
  have harea : pmArea v = fld v 12 52 * 4096 := rfl
  have hcode : Bool.code saved ≤ 1 := by cases saved <;> decide
  simp only [decide_eq_true_eq, Bool.and_eq_true]
  omega

theorem State.pmctl_pmEnd (c : Nat) (saved : Bool) : ((s.pmEnd c saved).core c).pmctl.getLsbD 7 = false
    ∧ ((s.pmEnd c saved).core c).pmctl.getLsbD 8 = saved := by
  rw [State.pmEnd, State.core_modCore_self]
  cases saved <;> simp [Bool.code]

theorem State.pmBusy_pmEnd (c : Nat) (saved : Bool) : (s.pmEnd c saved).pmBusy c = false := (s.pmctl_pmEnd c saved).1

theorem State.pmSaved_pmEnd (c : Nat) (saved : Bool) : (s.pmEnd c saved).pmSaved c = saved := (s.pmctl_pmEnd c saved).2

theorem State.pmBegin_ctx (c v : Nat) (saved : Bool) (d x : Nat) : (s.pmBegin c v saved).ctx d x = s.ctx d x :=
  s.ctx_modCore_keeps (by exact fun _ => rfl) ..

theorem State.pmEnd_ctx (c : Nat) (saved : Bool) (d x : Nat) : (s.pmEnd c saved).ctx d x = s.ctx d x :=
  s.ctx_modCore_keeps (by exact fun _ => rfl) ..

theorem State.pmBusy_modCtx (c x : Nat) (f : Ctx → Ctx) (d : Nat) : (s.modCtx c x f).pmBusy d = s.pmBusy d :=
  s.core_modCore_keeps (fun k => k.pmctl.getLsbD 7) (by exact fun _ => rfl) c d

theorem State.pmSaved_modCtx (c x : Nat) (f : Ctx → Ctx) (d : Nat) : (s.modCtx c x f).pmSaved d = s.pmSaved d :=
  s.core_modCore_keeps (fun k => k.pmctl.getLsbD 8) (by exact fun _ => rfl) c d

/-! ### Requests (R416, R417, R423) -/

variable {s} {c v : Nat}

theorem State.request_busy (debug : Bool) (h : s.pmBusy c = true) : s.request_ c v debug = s.pmNote c v := if_pos h

/-- A request that starts: the context knows its area and the end of its window. -/
def State.requested (s : State) (c v : Nat) (debug : Bool) : State :=
  (s.pmBegin c v false).modCtx c (pmCtx v) (fun k => { k with
    pre := some { area := pmArea v, debug := debug, deadline := s.pcyc + (s.launch (s.ctx c (pmCtx v)).launch).pwin } })

theorem State.request_idle (debug : Bool) (h : s.pmBusy c = false) : s.request_ c v debug =
    if s.ctxOver c (pmCtx v) then (s.pmBegin c v false).pmEnd c false else s.requested c v debug := by
  have hctx := s.pmBegin_ctx c v false c (pmCtx v)
  have hover : (s.pmBegin c v false).ctxOver c (pmCtx v) = s.ctxOver c (pmCtx v) := by simp only [State.ctxOver, hctx]
  unfold State.request_
  simp only [h, hover, hctx, Bool.false_eq_true, if_false]
  rfl

theorem State.requested_ctx (debug : Bool) : (s.requested c v debug).ctx c (pmCtx v) = { s.ctx c (pmCtx v) with
    pre := some { area := pmArea v, debug := debug, deadline := s.pcyc + (s.launch (s.ctx c (pmCtx v)).launch).pwin } } := by
  rw [State.requested, State.ctx_modCtx_self, State.pmBegin_ctx]

theorem State.requested_busy (debug : Bool) : (s.requested c v debug).pmBusy c = true := by
  rw [State.requested, State.pmBusy_modCtx, State.pmBusy_pmBegin]

theorem preemptRequest_eq (h : s.arg.flag = false) : exec .preemptRequest s = .next (s.request_ s.arg.core s.arg.v false) := by
  change execPreemptRequest s = _
  simp only [execPreemptRequest, h, Bool.not_false, if_true]

theorem debugHalt_eq : exec .debugHalt s = .next (s.request_ s.arg.core s.arg.v true) := rfl

theorem preemptRequest_busy (hflag : s.arg.flag = false) (hbusy : s.pmBusy s.arg.core = true) :
    exec .preemptRequest s = .next (s.pmNote s.arg.core s.arg.v) := by
  rw [preemptRequest_eq hflag, State.request_busy _ hbusy]

theorem debugHalt_busy (hbusy : s.pmBusy s.arg.core = true) : exec .debugHalt s = .next (s.pmNote s.arg.core s.arg.v) := by
  rw [debugHalt_eq, State.request_busy _ hbusy]

theorem preemptRequest_starts (hflag : s.arg.flag = false) (hidle : s.pmBusy s.arg.core = false)
    (hover : s.ctxOver s.arg.core (pmCtx s.arg.v) = false) :
    exec .preemptRequest s = .next (s.requested s.arg.core s.arg.v false) := by
  rw [preemptRequest_eq hflag, State.request_idle _ hidle, if_neg (Bool.eq_false_iff.1 hover)]

theorem debugHalt_starts (hidle : s.pmBusy s.arg.core = false) (hover : s.ctxOver s.arg.core (pmCtx s.arg.v) = false) :
    exec .debugHalt s = .next (s.requested s.arg.core s.arg.v true) := by
  rw [debugHalt_eq, State.request_idle _ hidle, if_neg (Bool.eq_false_iff.1 hover)]

theorem preemptRequest_over (hflag : s.arg.flag = false) (hidle : s.pmBusy s.arg.core = false)
    (hover : s.ctxOver s.arg.core (pmCtx s.arg.v) = true) : ∃ t, exec .preemptRequest s = .next t ∧ t.pmBusy s.arg.core = false
      ∧ t.ctx s.arg.core (pmCtx s.arg.v) = s.ctx s.arg.core (pmCtx s.arg.v) := by
  refine ⟨_, preemptRequest_eq hflag, ?_⟩
  rw [State.request_idle _ hidle, hover, if_pos rfl, State.pmEnd_ctx, State.pmBegin_ctx]
  exact ⟨State.pmBusy_pmEnd .., rfl⟩

/-- The management core's own request, for a context whose task it still is. -/
theorem preemptRequest_own (hflag : s.arg.flag = true) (hover : s.ctxOver s.arg.core s.arg.ctx = false)
    (htask : (s.ctx s.arg.core s.arg.ctx).task = s.arg.id) :
    (s.pmBusy s.arg.core = true → exec .preemptRequest s = .next (s.sched_ (s.pcyc + 1) 0 .preemptRequest s.arg))
    ∧ ∀ a, s.pmBusy s.arg.core = false → s.freeArea = some a →
      exec .preemptRequest s = .next (s.request_ s.arg.core (s.arg.ctx + 2 ^ 3 + a) false) := by
  change (_ → execPreemptRequest s = _) ∧ ∀ a, _ → _ → execPreemptRequest s = _
  simp only [execPreemptRequest, hflag, hover, htask, bne_self_eq_false, Bool.not_true, Bool.or_self, Bool.false_eq_true, if_false]
  exact ⟨fun h => by rw [h], fun a h ha => by rw [h, ha]⟩

/-! ### A window that ends (R414, R417) -/

theorem preemptWindowExpiry_rolls_back {p : PreReq} (hp : (s.ctx s.arg.core s.arg.ctx).pre = some p) (hdebug : p.debug = false)
    (hover : s.ctxOver s.arg.core s.arg.ctx = false) (hrun : (s.ctx s.arg.core s.arg.ctx).status ≠ .halted)
    (hdue : p.deadline ≤ s.pcyc) : exec .preemptWindowExpiry s = .next
      ((s.rollback s.arg.core s.arg.ctx (.saving p.area false)).modCtx s.arg.core s.arg.ctx (fun k => { k with pre := none })) := by
  change execPreemptWindowExpiry s = _
  simp only [execPreemptWindowExpiry, hp, hdebug, hover, hrun, Nat.not_lt.2 hdue, decide_false, Bool.or_self, Bool.false_eq_true,
    if_false]

theorem preemptWindowExpiry_waits {p : PreReq} (hp : (s.ctx s.arg.core s.arg.ctx).pre = some p) (hdue : s.pcyc < p.deadline) :
    exec .preemptWindowExpiry s = .next s := by
  change execPreemptWindowExpiry s = _
  simp only [execPreemptWindowExpiry, hp, hdue, decide_true, Bool.or_true, if_true]

/-! ### Saves (R412, R418, R419, R423) -/

/-- t is s but for memory, what the checkpoint unit copies of it, the fault queue and the free choices. -/
def State.OnlySaved (s t : State) : Prop :=
  ∃ mem host ck fq fresh, t = { s with mem := mem, host := host, ck := ck, fq := fq, fresh := fresh }

theorem State.OnlySaved.trans {t u : State} (h : s.OnlySaved t) (k : t.OnlySaved u) : s.OnlySaved u := by
  obtain ⟨_, _, _, _, _, rfl⟩ := h
  obtain ⟨_, _, _, _, _, rfl⟩ := k
  exact ⟨_, _, _, _, _, rfl⟩

theorem State.ckCopy_onlySaved (s : State) (p : Nat) : s.OnlySaved (s.ckCopy p) := by
  unfold State.ckCopy
  split <;> exact ⟨_, _, _, _, _, rfl⟩

theorem State.rawWrite_onlySaved (s : State) (p n v : Nat) : s.OnlySaved (s.rawWrite p n v) := by
  obtain ⟨_, _, h⟩ := s.rawWrite_onlyMems p n v
  exact ⟨_, _, _, _, _, h⟩

theorem State.post_onlySaved (s : State) (r : Rec) : s.OnlySaved (s.post r) := by
  obtain ⟨_, _, h⟩ := s.post_onlyRecords r
  exact ⟨_, _, _, _, _, h⟩

theorem State.writeImage_onlySaved (s : State) (area : Nat) (l : Image) : s.OnlySaved (s.writeImage area l) :=
  List.foldlRecOn (motive := s.OnlySaved) l _ ⟨_, _, _, _, _, rfl⟩ fun t ht _ _ =>
    ht.trans ((t.ckCopy_onlySaved _).trans (State.rawWrite_onlySaved ..))

theorem State.writeImage_fq (s : State) (area : Nat) (l : Image) : (s.writeImage area l).fq = s.fq := by
  refine foldl_keeps State.fq (fun t p => ?_) l s
  obtain ⟨_, _, h⟩ := (t.ckCopy (area + p.1)).rawWrite_onlyMems (area + p.1) p.2.1 p.2.2
  rw [h]
  change (t.ckCopy (area + p.1)).fq = t.fq
  unfold State.ckCopy
  split <;> rfl

theorem State.post_mem (s : State) (r : Rec) : (s.post r).mem = s.mem := congrArg Prod.fst (s.post_mems r)

theorem State.post_heldRecs {s : State} (r : Rec) (hroom : s.fq.ring.length < Config.faultRecords) (hheld : s.fq.heldRecs = []) :
    (s.post r).fq.heldRecs = [] := by
  rw [s.post_room r hroom hheld]
  exact hheld

/-- A context's area written, and the record of it made. -/
def State.recordSave (s : State) (c x area : Nat) (mx debug : Bool) : State :=
  let u := s.writeImage area (s.saveImage c x mx 0)
  u.post (u.recOf c x { cls := 4, cause := 0, sub := if debug then 4 else 1, pos := (s.ctx c x).r.pc.toNat })

theorem State.recordSave_onlySaved (s : State) (c x area : Nat) (mx debug : Bool) : s.OnlySaved (s.recordSave c x area mx debug) := by
  unfold State.recordSave
  extract_lets u
  exact (s.writeImage_onlySaved ..).trans (u.post_onlySaved _)

theorem State.recordSave_mem (s : State) (c x area : Nat) (mx debug : Bool) :
    (s.recordSave c x area mx debug).mem = (s.writeImage area (s.saveImage c x mx 0)).mem := by
  unfold State.recordSave
  extract_lets u
  rw [State.post_mem]

/-- The record of a save finds its place, and no record waits (R412, R418). -/
theorem State.saveDue_records {s : State} {c x : Nat} (hdue : s.saveDue c x = true) :
    s.fq.ring.length < Config.faultRecords ∧ s.fq.heldRecs = [] := by
  unfold State.saveDue at hdue
  extract_lets k k0 instr quiet done_ at hdue
  have hquiet : quiet = true := by
    split at hdue
    · exact (Bool.and_eq_true_iff.1 (Bool.and_eq_true_iff.1 hdue).1).1
    · exact (Bool.and_eq_true_iff.1 (Bool.and_eq_true_iff.1 (Bool.and_eq_true_iff.1 hdue).1).1).1
    · exact absurd hdue (by decide)
  simp only [quiet, Bool.and_eq_true, decide_eq_true_eq, List.isEmpty_iff] at hquiet
  tauto

theorem State.recordSave_heldRecs {s : State} {c x : Nat} (hdue : s.saveDue c x = true) (area : Nat) (mx debug : Bool) :
    (s.recordSave c x area mx debug).fq.heldRecs = [] := by
  obtain ⟨hroom, hheld⟩ := State.saveDue_records hdue
  unfold State.recordSave
  extract_lets u
  have hfq : u.fq = s.fq := s.writeImage_fq ..
  exact State.post_heldRecs _ (by rwa [hfq]) (by rw [hfq, hheld])

theorem preemptSave_not_due (hdue : s.saveDue s.arg.core s.arg.ctx = false) : exec .preemptSave s = .next s := by
  change execPreemptSave s = _
  simp only [execPreemptSave, hdue, Bool.not_false, if_true]

theorem preemptSave_faults {area : Nat} {debug : Bool} (hwhy : (s.ctx s.arg.core s.arg.ctx).why = .saving area debug)
    (hdue : s.saveDue s.arg.core s.arg.ctx = true) (harea : 2 ^ 40 < area + 163840) : exec .preemptSave s = .fault (.noMemory area) := by
  change execPreemptSave s = _
  simp only [execPreemptSave, hdue, hwhy, Bool.not_true, Bool.false_eq_true, if_false]
  exact if_pos harea

/-- What a debug halt has saved stays in its context (R423). -/
def State.debugSaved (s : State) (c x area : Nat) : State :=
  ((s.recordSave c x area false true).pmEnd c true).modCtx c x (fun k => { k with why := .debug area })

theorem State.recordSave_ctx (s : State) (c x area : Nat) (mx debug : Bool) (d y : Nat) :
    (s.recordSave c x area mx debug).ctx d y = s.ctx d y := by
  obtain ⟨_, _, _, _, _, h⟩ := s.recordSave_onlySaved c x area mx debug
  rw [h]
  rfl

theorem State.debugSaved_ctx (s : State) (c x area : Nat) : (s.debugSaved c x area).ctx c x = { s.ctx c x with why := .debug area } := by
  rw [State.debugSaved, State.ctx_modCtx_self, State.pmEnd_ctx, State.recordSave_ctx]

theorem State.debugSaved_pmctl (s : State) (c x area : Nat) : (s.debugSaved c x area).pmBusy c = false
    ∧ (s.debugSaved c x area).pmSaved c = true := by
  rw [State.debugSaved, State.pmBusy_modCtx, State.pmSaved_modCtx]
  exact State.pmctl_pmEnd ..

theorem State.debugSaved_mem (s : State) (c x area : Nat) :
    (s.debugSaved c x area).mem = (s.writeImage area (s.saveImage c x false 0)).mem := by
  rw [State.debugSaved, State.modCtx_mem, State.pmEnd, State.modCore_mem, State.recordSave_mem]

theorem preemptSave_debug {area : Nat} (hwhy : (s.ctx s.arg.core s.arg.ctx).why = .saving area true)
    (hdue : s.saveDue s.arg.core s.arg.ctx = true) (harea : area + 163840 ≤ 2 ^ 40) :
    exec .preemptSave s = .next (s.debugSaved s.arg.core s.arg.ctx area) := by
  have hlimit : ¬ Config.ppaLimit < area + 163840 := Nat.not_lt.2 harea
  change execPreemptSave s = _
  simp only [execPreemptSave, hdue, hwhy, hlimit, Bool.not_true, Bool.false_and, Bool.and_false, Bool.false_eq_true, if_false, if_true]
  rfl

/-- A task saved, as the model keeps it beside its area: its context k, and the core that it was saved on (R420). -/
def Core.saveOf (q : Core) (c x h area : Nat) (k : Ctx) : Save :=
  let e := q.eng h
  { area := area, core := c, task := k.task, launch := k.launch, wid := k.wid, origin := k.origin, serial := k.serial, sendNo := k.sendNo,
    barOn := k.barOn, rels := q.tls.map (fun t => (t.1, t.2.rel)), late := k.comps.head?.bind (fun q => k.lateRegs.map (fun r => (q, r))),
    tile := if e.owner = some x then e.tile else none, rows := e.rows.filter (fun r => r.ctx = x) }

/-- A context k whose area is written, its record made, gives its core up but for the context itself (R418, R421). -/
def State.suspend (s : State) (c x h area : Nat) (mx : Bool) (k : Ctx) : State :=
  let u := s.pmEnd c true
  let t : State := { u with saves := u.saves.filter (fun w => w.area != area) ++ [(u.core c).saveOf c x h area k] }
  t.modCore c (fun q => q.modEng h (fun e => if mx then
    { e with lastUser := none, savedIn := some area, bank0 := e.bank0.landed, bank1 := e.bank1.landed } else e))

section
variable (s : State) (c x h area : Nat) (mx : Bool) (k : Ctx)

theorem State.suspend_fq : (s.suspend c x h area mx k).fq = s.fq := rfl

theorem State.suspend_mem : (s.suspend c x h area mx k).mem = s.mem := rfl

theorem State.suspend_saves : ∃ w ∈ (s.suspend c x h area mx k).saves, w.area = area ∧ w.core = c ∧ w.task = k.task
    ∧ w.launch = k.launch ∧ w.wid = k.wid ∧ w.serial = k.serial :=
  ⟨_, List.mem_append_right _ (List.mem_singleton.2 rfl), rfl, rfl, rfl, rfl, rfl, rfl⟩

theorem State.freeCtx_mem : (s.freeCtx c x).mem = s.mem := congrArg Prod.fst (s.freeCtx_mems c x)

theorem State.freeCtx_saves : (s.freeCtx c x).saves = s.saves := by
  unfold State.freeCtx
  extract_lets l unanswered abandoned cleared
  exact State.leaveCore_keeps State.saves (fun _ _ _ _ => rfl) cleared c l

end

/-- A save that a pre-emption makes, before its context is freed (R418). -/
def State.suspended (s : State) (c x area : Nat) : State :=
  let mx : Bool := ((s.core c).eng (s.half c x)).lastUser = some x
  (s.recordSave c x area mx false).suspend c x (s.half c x) area mx (s.ctx c x)

theorem State.suspended_recordHeld {s : State} {c x : Nat} (hdue : s.saveDue c x = true) (area d y : Nat) :
    (s.suspended c x area).recordHeld d y = false := by
  unfold State.recordHeld State.suspended
  rw [State.suspend_fq, State.recordSave_heldRecs hdue]
  rfl

theorem preemptSave_frees {area : Nat} (hwhy : (s.ctx s.arg.core s.arg.ctx).why = .saving area false)
    (hdue : s.saveDue s.arg.core s.arg.ctx = true) (harea : area + 163840 ≤ 2 ^ 40) (hflag : s.arg.flag = false) :
    exec .preemptSave s = .next ((s.suspended s.arg.core s.arg.ctx area).freeCtx s.arg.core s.arg.ctx) := by
  have hlimit : ¬ Config.ppaLimit < area + 163840 := Nat.not_lt.2 harea
  have hheld := Bool.eq_false_iff.1 (State.suspended_recordHeld hdue area s.arg.core s.arg.ctx)
  change execPreemptSave s = _
  simp only [execPreemptSave, hdue, hwhy, hlimit, hflag, Bool.not_true, Bool.not_false, Bool.true_and, Bool.false_and, Bool.false_eq_true,
    if_false]
  exact congrArg Host.Outcome.next (if_neg hheld)

theorem State.suspended_mem (s : State) (c x area : Nat) : (s.suspended c x area).mem =
    (s.writeImage area (s.saveImage c x (((s.core c).eng (s.half c x)).lastUser = some x) 0)).mem := by
  unfold State.suspended
  rw [State.suspend_mem, State.recordSave_mem]

theorem State.freed_mem (s : State) (c x area : Nat) : ((s.suspended c x area).freeCtx c x).mem =
    (s.writeImage area (s.saveImage c x (((s.core c).eng (s.half c x)).lastUser = some x) 0)).mem := by
  rw [State.freeCtx_mem, State.suspended_mem]

theorem State.freed_save (s : State) (c x area : Nat) : ∃ w ∈ ((s.suspended c x area).freeCtx c x).saves, w.area = area ∧ w.core = c
    ∧ w.task = (s.ctx c x).task ∧ w.launch = (s.ctx c x).launch ∧ w.wid = (s.ctx c x).wid ∧ w.serial = (s.ctx c x).serial := by
  rw [State.freeCtx_saves, State.suspended]
  exact State.suspend_saves ..

theorem State.freeCtx_status (s : State) (c x : Nat) : ((s.freeCtx c x).ctx c x).status = .free := by
  rw [State.freeCtx_ctx]

end

end Sys2Proof.Machine
end

section
/-! PROOFS. The resume of a saved task and of a context that a debug halt has kept, and the move of a launch (R420, R421, R423). -/

namespace Sys2Proof.Machine

section
variable {s : State} {c x v : Nat}

theorem resume_eq (hflag : s.arg.flag = false) : exec .resume s = .next (if s.pmBusy s.arg.core then s.pmNote s.arg.core s.arg.v
    else s.resumeAt s.arg.core (pmCtx s.arg.v) s.arg.v) := by
  change execResume s = _
  simp only [execResume, hflag, Bool.not_false, if_true]

theorem resume_busy (hflag : s.arg.flag = false) (hbusy : s.pmBusy s.arg.core = true) :
    exec .resume s = .next (s.pmNote s.arg.core s.arg.v) := by
  rw [resume_eq hflag, if_pos hbusy]

theorem resume_idle (hflag : s.arg.flag = false) (hidle : s.pmBusy s.arg.core = false) :
    exec .resume s = .next (s.resumeAt s.arg.core (pmCtx s.arg.v) s.arg.v) := by
  rw [resume_eq hflag, if_neg (Bool.eq_false_iff.1 hidle)]

/-! ### What a resume reads before it acts -/

theorem State.pmBegin_starts (s : State) (c v : Nat) (saved : Bool) : ((s.pmBegin c v saved).core c).starts = (s.core c).starts :=
  s.core_modCore_keeps Core.starts (by exact fun _ => rfl) c c

theorem State.pmBegin_areaRead (s : State) (c v : Nat) (saved : Bool) (area off n : Nat) :
    (s.pmBegin c v saved).areaRead area off n = s.areaRead area off n := rfl

theorem State.pmBegin_regsRead (s : State) (c v : Nat) (saved : Bool) (area : Nat) :
    (s.pmBegin c v saved).regsRead_ area = s.regsRead_ area := rfl

theorem State.pmBegin_savedAs (s : State) (c v : Nat) (saved : Bool) (area : Nat) :
    (s.pmBegin c v saved).savedAs c area = s.savedAs c area := rfl

/-- A complete save stands in the area (R267, R419). -/
def State.holdsSave (s : State) (area : Nat) : Bool := area + 163840 ≤ Config.ppaLimit && s.areaRead area 0 4 = saveMagic

theorem State.holdsSave_of_magic {area : Nat} (harea : area + 163840 ≤ 2 ^ 40) (hmagic : mread s.mem area 4 = 0x4C595331) :
    s.holdsSave area = true := by
  have hlimit : area + 163840 ≤ Config.ppaLimit := harea
  have hread : s.areaRead area 0 4 = saveMagic := hmagic
  simp only [State.holdsSave, hlimit, hread, decide_true, Bool.and_self]

theorem State.resumeAt_no_memory (harea : 2 ^ 40 < pmArea v + 163840) :
    s.resumeAt c x v = (s.pmBegin c v (s.pmSaved c)).resumeRefused c x := by
  have hlimit : ¬ pmArea v + 163840 ≤ Config.ppaLimit := Nat.not_le.2 harea
  unfold State.resumeAt
  extract_lets area b k magic free step h
  have hmagic : magic = false := by simp only [magic, area, hlimit, decide_false, Bool.false_and]
  rw [hmagic]
  simp only [Bool.not_false, Bool.or_true, if_true]
  split <;> rfl

theorem resume_no_memory (hflag : s.arg.flag = false) (hidle : s.pmBusy s.arg.core = false) (harea : 2 ^ 40 < pmArea s.arg.v + 163840) :
    exec .resume s = .next ((s.pmBegin s.arg.core s.arg.v (s.pmSaved s.arg.core)).resumeRefused s.arg.core (pmCtx s.arg.v)) := by
  rw [resume_idle hflag hidle, State.resumeAt_no_memory harea]

/-! ### Into a free context (R420) -/

/-- The task that an area holds as it stands in the context it is loaded into. -/
structure State.Resumed (s : State) (c x area : Nat) (t : State) : Prop where
  status : (t.ctx c x).status = .ready
  regs   : (t.ctx c x).r = s.regsRead_ area
  mark   : (t.ctx c x).mark = some (s.regsRead_ area)
  launch : (t.ctx c x).launch = (s.savedAs c area).launch
  task   : (t.ctx c x).task = (s.savedAs c area).task
  wid    : (t.ctx c x).wid = BitVec.ofNat 64 (mread s.mem (area + 24) 8)
  cancel : (t.ctx c x).cancel = (s.launch (s.savedAs c area).launch).cancelled

theorem State.ctx_modEng (s : State) (c h : Nat) (f : Engine → Engine) (d y : Nat) :
    (s.modCore c (fun k => k.modEng h f)).ctx d y = s.ctx d y :=
  s.ctx_modCore_keeps (fun k => k.modEng_ctxs h f) ..

theorem State.resumeAt_free (hfree : (s.ctx c x).status = .free) (hwhy : (s.ctx c x).why = .none)
    (hstarts : (s.core c).starts.any (fun p => p.1 = x) = false) (hmagic : s.holdsSave (pmArea v) = true) :
    s.Resumed c x (pmArea v) (s.resumeAt c x v) ∧ (∀ u ∈ (s.resumeAt c x v).saves, u.area ≠ pmArea v)
      ∧ (s.resumeAt c x v).pmBusy c = false := by
  unfold State.resumeAt
  extract_lets area b k magic free step h _ _ _ _ w l empty r moded half n loaded taken own owned
  have hk : k = s.ctx c x := s.pmBegin_ctx ..
  have hmagic' : magic = true := hmagic
  have hfree' : free = true := by
    simp only [free, hk, hfree, b, State.pmBegin_starts, hstarts, decide_true, Bool.not_false, Bool.and_self]
  rw [hk, hwhy, hmagic', hfree']
  simp only [Bool.not_true, Bool.or_self, Bool.false_eq_true, if_false]
  have hmem : moded.mem = s.mem := by
    simp only [moded]
    split_ifs <;> rfl
  -- what the engine takes from the area changes no context and no save
  have hengine {β : Type} (g : State → β)
      (hg : ∀ (t : State) (h : Nat) (f : Engine → Engine), g (t.modCore c (fun k => k.modEng h f)) = g t) :
      g owned = g taken := by
    simp only [owned, own]
    split_ifs <;> simp only [hg]
  have hctx : (State.regrant (owned.pmEnd c (owned.pmSaved c)) (coreDie c)).ctx c x = n := by
    rw [State.regrant_ctx, State.pmEnd_ctx, hengine (fun t => t.ctx c x) (fun t h f => t.ctx_modEng c h f c x)]
    change loaded.ctx c x = n
    exact moded.ctx_modCtx_self c x _
  have hsaves : (State.regrant (owned.pmEnd c (owned.pmSaved c)) (coreDie c)).saves = loaded.saves.filter (fun u => u.area != area) :=
    hengine State.saves (fun _ _ _ => rfl)
  refine ⟨?_, fun u hu => ?_, State.pmBusy_pmEnd owned ..⟩
  · constructor <;> rw [hctx]
    · rfl
    · rfl
    · rfl
    · rfl
    · rfl
    · change BitVec.ofNat 64 (mread moded.mem (area + 24) 8) = _
      rw [hmem]
    · rfl
  · rw [hsaves] at hu
    simpa using (List.mem_filter.1 hu).2

/-! ### Into the context that a debug halt has kept (R423) -/

theorem State.resumeAt_debug (hwhy : (s.ctx c x).why = .debug (pmArea v)) (hmagic : s.holdsSave (pmArea v) = true) :
    ((s.resumeAt c x v).ctx c x).status = .ready ∧ ((s.resumeAt c x v).ctx c x).why = .none
      ∧ ((s.resumeAt c x v).ctx c x).r = State.catchUp (s.ctx c x).resv (s.regsRead_ (pmArea v))
      ∧ ((s.resumeAt c x v).ctx c x).step = (if pmStep v then some (pmArea v) else none)
      ∧ ((s.resumeAt c x v).ctx c x).wid = BitVec.ofNat 64 (mread s.mem (pmArea v + 24) 8) := by
  unfold State.resumeAt
  extract_lets area b k magic free step h r mine loaded closed
  have hk : k = s.ctx c x := s.pmBegin_ctx ..
  have hmagic' : magic = true := hmagic
  have hctx : ((closed.pmEnd c (closed.pmSaved c)).ctx c x) = loaded.ctx c x := by
    rw [State.pmEnd_ctx]
    simp only [closed]
    split_ifs
    · rfl
    · exact loaded.ctx_modEng ..
  have hr : r = State.catchUp (s.ctx c x).resv (s.regsRead_ area) := by simp only [r, hk, b, State.pmBegin_regsRead]
  rw [hk, hwhy, hmagic']
  simp only [area, bne_self_eq_false, Bool.not_true, Bool.or_self, Bool.false_eq_true, if_false]
  rw [hctx, State.ctx_modCtx_self, ← hr]
  change _ ∧ _ ∧ _ ∧ _ = step ∧ _
  split_ifs <;> exact ⟨rfl, rfl, rfl, rfl, rfl⟩

end

/-! ### The move of a launch (R420) -/

/-- What a move takes along to core d: saves and timelines. -/
def State.moved (d : Nat) (s : State) : List Save × Tab Timeline := (s.saves, (s.core d).tls)

section
variable (s : State)

theorem State.moved_modCore {f : Core → Core} (hf : ∀ k, (f k).tls = k.tls) (c d : Nat) : (s.modCore c f).moved d = s.moved d :=
  congrArg (Prod.mk s.saves) (s.core_modCore_keeps Core.tls hf c d)

theorem State.moved_passBank (c l b d : Nat) : (s.passBank c l b).moved d = s.moved d := by
  unfold State.passBank
  exact s.moved_modCore (by exact fun _ => rfl) ..

theorem State.moved_setStage (c l stage t d : Nat) : (s.setStage c l stage t).moved d = s.moved d :=
  s.moved_modCore (by exact fun _ => rfl) ..

theorem State.moved_modSp (c : Nat) (f : Spad → Spad) (d : Nat) : (s.modSp c f).moved d = s.moved d :=
  s.moved_modCore (by exact fun _ => rfl) ..

theorem State.moved_takeRegion (c : Nat) (l : Launch) (d : Nat) : (s.takeRegion c l).moved d = s.moved d := by
  unfold State.takeRegion
  extract_lets k table
  split
  · exact (State.moved_setStage ..).trans (s.moved_modCore (by exact fun _ => rfl) ..)
  · split
    · rfl
    · exact (State.moved_setStage ..).trans (s.moved_modCore (by exact fun _ => rfl) ..)

theorem State.moved_leaveCore (c l d : Nat) : (s.leaveCore c l).moved d = s.moved d := by
  unfold State.leaveCore
  split_ifs
  · rfl
  extract_lets own here passed gated
  have hpassed : passed.moved d = s.moved d := foldl_keeps (State.moved d) (fun t b => t.moved_passBank c l b d) own s
  have hgated : gated.moved d = passed.moved d := by
    simp only [gated]
    split_ifs
    · exact passed.moved_modSp ..
    · rfl
  exact (gated.moved_modCore (by exact fun _ => rfl) ..).trans (hgated.trans hpassed)

theorem State.moved_noteRan (l c d : Nat) : (s.noteRan l c).moved d = s.moved d := rfl

theorem State.moveTo_moved (c d : Nat) (l : Launch) : (s.moveTo c d l).moved d =
    (s.saves.map (fun w => if w.core = c && w.launch = l.id then { w with core := d } else w), (s.core c).tls) := by
  unfold State.moveTo
  extract_lets own old mine areas saved copied placed staged loaded parity passed left
  have hcopied : copied.moved d =
      (s.saves.map (fun w => if w.core = c && w.launch = l.id then { w with core := d } else w), (s.core c).tls) := by
    rw [State.moved]
    simp only [copied, State.core_modCore_self]
    rfl
  have hplaced : placed.moved d = copied.moved d := by
    simp only [placed]
    split_ifs
    · rfl
    · exact copied.moved_takeRegion ..
  have hstaged : staged.moved d = placed.moved d :=
    (State.moved_modCore _ (by exact fun _ => rfl) ..).trans (placed.moved_setStage ..)
  have hloaded : loaded.moved d = staged.moved d := staged.moved_modSp ..
  have hparity : parity.moved d = loaded.moved d := by
    refine foldl_keeps (State.moved d) (fun t g => ?_) _ loaded
    split_ifs
    · exact t.moved_modSp ..
    · rfl
  have hpassed : passed.moved d = parity.moved d := foldl_keeps (State.moved d) (fun t b => t.moved_passBank c l.id b d) own parity
  have hleft : left.moved d = passed.moved d := (State.moved_noteRan ..).trans (passed.moved_leaveCore c l.id d)
  have hsched (t : State) (a : Nat) : (t.sched_ (t.pcyc + 1) 0 .resume { core := d, v := a, flag := true }).moved d = t.moved d := rfl
  rw [foldl_keeps (State.moved d) hsched areas left, hleft, hpassed, hparity, hloaded, hstaged, hplaced, hcopied]

end

theorem launchMove_moves {s : State} {c d : Nat} {l : Launch} (hc : s.arg.core = c) (hd : s.arg.n = d) (hl : s.launch s.arg.id = l)
    (hflag : s.arg.flag = false) (hctxs : (s.core c).ctxs.any (fun p => p.2.status != .free && p.2.launch = l.id) = false)
    (hstarts : (s.core c).starts.any (fun p => p.2.1 = l.id) = false) (hsaved : s.savedOn c l.id ≠ [])
    (hdone : (s.savedOn c l.id).all (s.savedDone c) = true) (hfits : s.moveFits c l d = true) :
    exec .launchMove s = .next (s.moveTo c d l) := by
  have hempty : (s.savedOn c l.id).isEmpty = false := by simpa using hsaved
  change execLaunchMove s = _
  simp only [execLaunchMove, hc, hd, hl, hflag, hctxs, hstarts, hempty, hdone, List.find?_cons_of_pos hfits, Bool.or_self, Bool.not_false,
    Bool.not_true, Bool.and_false, Bool.false_eq_true, if_false]

theorem State.moveFits_ne {s : State} {c d : Nat} {l : Launch} (h : s.moveFits c l d = true) : d ≠ c :=
  bne_iff_ne.1 (Bool.and_eq_true_iff.1 h).2

theorem State.moveTo_takes_along {s : State} {c d : Nat} {l : Launch} (hfits : s.moveFits c l d = true) :
    (∀ w ∈ (s.moveTo c d l).saves, w.launch = l.id → w.core ≠ c) ∧ ((s.moveTo c d l).core d).tls = (s.core c).tls := by
  obtain ⟨hsaves, htls⟩ := Prod.mk.inj (s.moveTo_moved c d l)
  refine ⟨fun w hw hlaunch => ?_, htls⟩
  rw [hsaves] at hw
  obtain ⟨u, -, rfl⟩ := List.mem_map.1 hw
  by_cases h : (u.core = c && u.launch = l.id) = true
  · rw [if_pos h]
    exact State.moveFits_ne hfits
  · rw [if_neg h] at hlaunch ⊢
    intro hcore
    simp [hcore, hlaunch] at h

end Sys2Proof.Machine
end

section
/-! PROOFS. Containment and spare clusters (R90, R352, R424). -/

namespace Sys2Proof.Machine

namespace State

/-! ### What containment leaves of a core: its log, its epoch and an empty commit buffer -/

/-- From s to t the management registers and the log and epoch of core e stay, and an empty commit buffer stays empty. -/
structure Quiet (e : Nat) (s t : State) : Prop where
  mg    : t.mg = s.mg
  plog  : (t.core e).plog = (s.core e).plog
  epoch : (t.core e).epoch = (s.core e).epoch
  cb    : (s.core e).cb = [] → (t.core e).cb = []

section
variable {e : Nat} {s t u : State}

theorem Quiet.of_same (hcores : t.cores = s.cores) (hmg : t.mg = s.mg) : Quiet e s t := by
  have hcore : t.core e = s.core e := by rw [core, hcores, core]
  exact ⟨hmg, by rw [hcore], by rw [hcore], fun h => by rwa [hcore]⟩

theorem Quiet.refl (s : State) : Quiet e s s := .of_same rfl rfl

theorem Quiet.trans (h : Quiet e s t) (k : Quiet e t u) : Quiet e s u :=
  ⟨k.mg.trans h.mg, k.plog.trans h.plog, k.epoch.trans h.epoch, fun hs => k.cb (h.cb hs)⟩

theorem Quiet.from_same (k : Quiet e t u) (hcores : t.cores = s.cores) (hmg : t.mg = s.mg) : Quiet e s u :=
  (Quiet.of_same hcores hmg).trans k

theorem Quiet.ite {p : Prop} [Decidable p] (h : Quiet e s t) (k : Quiet e s u) : Quiet e s (if p then t else u) := by
  split_ifs
  · exact h
  · exact k

theorem Quiet.foldl {α : Type} {f : State → α → State} (h : ∀ (t : State) (a : α), Quiet e t (f t a)) (l : List α) (s : State) :
    Quiet e s (l.foldl f s) :=
  List.foldlRecOn (motive := Quiet e s) l f (.refl s) fun _ ht a _ => ht.trans (h _ a)

theorem Quiet.modCore (s : State) (c : Nat) {f : Core → Core} (hplog : ∀ k, (f k).plog = k.plog) (hepoch : ∀ k, (f k).epoch = k.epoch)
    (hcb : ∀ k, k.cb = [] → (f k).cb = []) : Quiet e s (s.modCore c f) := by
  refine ⟨rfl, s.core_modCore_keeps Core.plog hplog c e, s.core_modCore_keeps Core.epoch hepoch c e, fun h => ?_⟩
  by_cases hc : e = c
  · subst hc
    rw [core_modCore_self]
    exact hcb _ h
  · rwa [core_modCore_ne _ _ hc]

theorem Quiet.modCtx (s : State) (c x : Nat) (f : Ctx → Ctx) : Quiet e s (s.modCtx c x f) :=
  .modCore s c (by exact fun _ => rfl) (by exact fun _ => rfl) (by exact fun _ => id)

theorem Quiet.modTl (s : State) (c n : Nat) (f : Timeline → Timeline) : Quiet e s (s.modTl c n f) :=
  .modCore s c (by exact fun _ => rfl) (by exact fun _ => rfl) (by exact fun _ => id)

theorem Quiet.modEng (s : State) (c : Nat) (h : Core → Nat) (f : Engine → Engine) :
    Quiet e s (s.modCore c (fun k => k.modEng (h k) f)) := by
  refine .modCore s c ?_ ?_ ?_ <;> intro k <;> unfold Core.modEng <;> split_ifs
  · rfl
  · rfl
  · rfl
  · rfl
  · exact id
  · exact id

theorem Quiet.pmEnd (s : State) (c : Nat) (saved : Bool) : Quiet e s (s.pmEnd c saved) :=
  .modCore s c (by exact fun _ => rfl) (by exact fun _ => rfl) (by exact fun _ => id)

theorem Quiet.modClu (s : State) (k : Nat) (f : Clus → Clus) : Quiet e s (s.modClu k f) := .of_same rfl rfl

theorem Quiet.modDie (s : State) (d : Nat) (f : Die → Die) : Quiet e s (s.modDie d f) := .of_same rfl rfl

theorem Quiet.with_rels (s : State) (l : List RelRun) : Quiet e s { s with rels := l } := .of_same rfl rfl

theorem Quiet.modLine (s : State) (p : Nat) (f : LineInfo → LineInfo) : Quiet e s (s.modLine p f) := .of_same rfl rfl

theorem Quiet.modLq (s : State) (q : Nat) (f : LQueue → LQueue) : Quiet e s (s.modLq q f) := .of_same rfl rfl

theorem Quiet.releasePinned (s : State) (k : Nat) : Quiet e s (s.releasePinned k) := by
  obtain ⟨_, _, _, h⟩ := s.releasePinned_onlySlices k
  rw [h]
  exact .of_same rfl rfl

theorem Quiet.post (s : State) (r : Rec) : Quiet e s (s.post r) := by
  obtain ⟨_, _, h⟩ := s.post_onlyRecords r
  rw [h]
  exact .of_same rfl rfl

/-! ### Commands, entries and arrivals (R424 step 5) -/

theorem Quiet.endCopy (s : State) (r : CopyRun) (sig : Dword) (wts : Nat) : Quiet e s (s.endCopy r sig wts) := by
  unfold State.endCopy
  extract_lets completed counted
  exact (Quiet.modTl ..).trans (t := completed) (.of_same rfl rfl)

theorem Quiet.endSend (s : State) (r : SendRun) : Quiet e s (s.endSend r) := by
  unfold State.endSend
  extract_lets completed counted
  exact (Quiet.modTl ..).trans (t := completed) (.of_same rfl rfl)

theorem Quiet.dropCommands (s : State) (k : Nat) : Quiet e s (s.dropCommands k) := by
  unfold State.dropCommands
  extract_lets mine cs copied gone sent
  have hcopied : Quiet e s copied := by
    refine .foldl (fun t r => ?_) cs s
    split_ifs
    · exact .of_same rfl rfl
    · exact .endCopy ..
  have hsent : Quiet e copied sent := by
    refine .foldl (fun t r => ?_) gone copied
    split_ifs
    · exact .of_same rfl rfl
    · exact .endSend ..
  exact (hcopied.trans hsent).trans (.of_same rfl rfl)

theorem Quiet.dropArrival (s : State) (m : Msg) : Quiet e s (s.dropArrival m) := by
  unfold State.dropArrival
  exact .ite (.of_same rfl rfl) (.of_same rfl rfl)

theorem Quiet.dropEntries (s : State) (c : Nat) : Quiet e s (s.dropEntries c) := by
  unfold State.dropEntries
  extract_lets q back _ listed emptied
  have hback : Quiet e s back := .foldl (fun t n => .modLq t n _) q s
  have hlisted : Quiet e back listed := .of_same rfl rfl
  have hemptied : Quiet e listed emptied := .modCore listed c (by exact fun _ => rfl) (by exact fun _ => rfl) (by exact fun _ _ => rfl)
  exact ((hback.trans hlisted).trans hemptied).trans (.foldl (fun t x => .modCtx t c x _) _ emptied)

theorem dropEntries_cb (s : State) (c : Nat) : ((s.dropEntries c).core c).cb = [] := by
  unfold State.dropEntries
  extract_lets q back _ listed emptied
  have hcb : (emptied.core c).cb = [] := by simp only [emptied, core_modCore_self]
  exact (Quiet.foldl (e := c) (fun t x => .modCtx t c x _) (List.range 8) emptied).cb hcb

/-! ### Packets partly injected, promotions and contexts (R424 steps 1, 3 and 6) -/

theorem Quiet.voidWrites (s : State) (k : Nat) : Quiet e s (s.voidWrites k) := by
  unfold State.voidWrites
  extract_lets held void voided
  have hheld : Quiet e s held := .of_same rfl rfl
  have hvoided : Quiet e held voided := by
    refine .foldl (fun t r => ?_) _ held
    exact .ite (.of_same rfl rfl) (.of_same rfl rfl)
  refine (hheld.trans hvoided).trans (.foldl (fun t m => ?_) _ voided)
  exact .ite (.of_same rfl rfl) (.ite (.from_same (.modCtx ..) rfl rfl) (.of_same rfl rfl))

theorem Quiet.promoReply (s : State) (p : Promo) (status : Nat) : Quiet e s (s.promoReply p status) := .of_same rfl rfl

theorem Quiet.cancelGin (s : State) (d gin : Nat) : Quiet e s (s.cancelGin d gin) := .of_same rfl rfl

theorem Quiet.dropReplies (s : State) (c x : Nat) (of_ : Nat → Bool) : Quiet e s (s.dropReplies c x of_) := .of_same rfl rfl

theorem Quiet.dropHeld (s : State) (c x : Nat) : Quiet e s (s.dropHeld c x) := by
  unfold State.dropHeld
  extract_lets held gone back kept
  have hback : Quiet e s back := by
    refine .foldl (fun t n => ?_) held s
    split <;> exact .of_same rfl rfl
  have hkept : Quiet e back kept := .modCore back c (by exact fun _ => rfl) (by exact fun _ => rfl)
    fun k hk => by simp only [hk, List.filter_nil]
  exact (hback.trans hkept).trans (.modCtx ..)

theorem Quiet.endRequest (s : State) (c x : Nat) : Quiet e s (s.endRequest c x) := by
  unfold State.endRequest
  extract_lets k
  split_ifs
  · exact (Quiet.modCtx ..).trans (.pmEnd ..)
  · exact .refl s

theorem Quiet.yieldPrimary (s : State) (c x : Nat) : Quiet e s (s.yieldPrimary c x) := by
  unfold State.yieldPrimary
  extract_lets h
  split_ifs
  · exact .modCore s c (by exact fun _ => rfl) (by exact fun _ => rfl) (by exact fun _ => id)
  · exact .modCore s c (by exact fun _ => rfl) (by exact fun _ => rfl) (by exact fun _ => id)
  · exact .refl s

theorem Quiet.haltTrapped (s : State) (c x : Nat) : Quiet e s (s.haltTrapped c x) := by
  unfold State.haltTrapped
  extract_lets ended halted abandoned counted
  have hended : Quiet e s ended := (Quiet.dropHeld ..).trans (.endRequest ..)
  have hhalted : Quiet e ended halted := .modCtx ..
  have habandoned : Quiet e halted abandoned := .modEng halted c _ _
  have hcounted : Quiet e abandoned counted := .of_same rfl rfl
  exact (((hended.trans hhalted).trans habandoned).trans hcounted).trans (.yieldPrimary counted c x)

theorem Quiet.halts (s : State) (c : Nat) (l : Tab Ctx) :
    Quiet e s (l.foldl (fun (t : State) p => (t.dropReplies c p.1).haltTrapped c p.1) s) := by
  refine .foldl (fun t p => ?_) l s
  exact (Quiet.dropReplies t c p.1 (fun _ => true)).trans (.haltTrapped (t.dropReplies c p.1) c p.1)

/-! ### The containment of a cluster (R424) -/

theorem core_foldl_modCore_of_notMem {l : List Nat} (he : e ∉ l) (f : Core → Core) (s : State) :
    (l.foldl (fun (t : State) c => t.modCore c f) s).core e = s.core e :=
  List.foldlRecOn (motive := fun u : State => u.core e = s.core e) l _ rfl fun u hu c hc => by
    rw [core_modCore_ne _ _ (ne_of_mem_of_not_mem hc he).symm, hu]

theorem core_foldl_modCore {l : List Nat} (hl : l.Nodup) (he : e ∈ l) (f : Core → Core) (s : State) :
    (l.foldl (fun (t : State) c => t.modCore c f) s).core e = f (s.core e) := by
  induction l generalizing s with
  | nil => exact absurd he List.not_mem_nil
  | cons c l ih =>
    obtain ⟨hc, hl⟩ := List.nodup_cons.1 hl
    rw [List.foldl_cons]
    rcases List.mem_cons.1 he with rfl | he
    · rw [core_foldl_modCore_of_notMem hc, core_modCore_self]
    · rw [ih hl he, core_modCore_ne _ _ (ne_of_mem_of_not_mem he hc)]

theorem mg_foldl_modCore (l : List Nat) (f : Core → Core) (s : State) : (l.foldl (fun (t : State) c => t.modCore c f) s).mg = s.mg :=
  List.foldlRecOn (motive := fun u : State => u.mg = s.mg) l _ rfl fun _ hu _ _ => hu

/-- The cores of a cluster. -/
theorem mem_cluster {k : Nat} : e ∈ (List.range 4).map (4 * k + ·) ↔ clusOf e = k := by
  simp only [List.mem_map, List.mem_range, clusOf]
  constructor
  · rintro ⟨j, hj, rfl⟩
    omega
  · intro h
    exact ⟨e % 4, by omega, by omega⟩

theorem nodup_cluster (k : Nat) : ((List.range 4).map (4 * k + ·)).Nodup :=
  List.nodup_range.map fun _ _ h => Nat.add_left_cancel h

/-- A pass over the cores of a list that empties each one's commit buffer leaves it empty on all of them. -/
theorem cb_foldl_dropEntries {l : List Nat} (he : e ∈ l) (s : State) :
    ((l.foldl (fun (t : State) c => t.dropEntries c) s).core e).cb = [] := by
  induction l generalizing s with
  | nil => exact absurd he List.not_mem_nil
  | cons c l ih =>
    rw [List.foldl_cons]
    rcases List.mem_cons.1 he with rfl | he
    · exact (Quiet.foldl (fun t c => .dropEntries t c) l _).cb (s.dropEntries_cb e)
    · exact ih he _

theorem post_die (s : State) (r : Rec) (d : Nat) : (s.post r).die d = s.die d := by
  obtain ⟨_, _, h⟩ := s.post_onlyRecords r
  rw [h]
  rfl

/-- The four cores of a cluster of a die, as a mask of its cores. -/
theorem getLsbD_cluster {m i : Nat} (hm : m < 12) :
    (BitVec.ofNat 48 (15 * 2 ^ (4 * m))).getLsbD i = decide (4 * m ≤ i ∧ i < 4 * m + 4) := by
  have hfifteen : (15 : Nat) = 2 ^ 4 - 1 := by decide
  rw [BitVec.getLsbD_ofNat, Nat.testBit_mul_two_pow, hfifteen, Nat.testBit_two_pow_sub_one, ← Bool.decide_and, ← Bool.decide_and]
  exact decide_eq_decide.2 (by omega)

theorem getLsbD_own_cluster (e : Nat) : (BitVec.ofNat 48 (15 * 2 ^ (clusOf e % 12 * 4))).getLsbD (e % 48) = true := by
  rw [Nat.mul_comm _ 4, getLsbD_cluster (Nat.mod_lt _ (by decide)), clusOf]
  exact decide_eq_true (by omega)

/-- What the containment of its cluster leaves of core e: the log is empty and its epoch the next, no entry waits, the core is no longer
enabled, and the management registers know that the cluster has failed. -/
structure Contained (e : Nat) (s t : State) : Prop where
  plog   : (t.core e).plog = []
  cb     : (t.core e).cb = []
  epoch  : (t.core e).epoch = ((s.core e).epoch + 1) % 2 ^ 16
  cen    : (t.die (clusOf e / 12)).cen.getLsbD (e % 48) = false
  failed : tget t.mg.factory.failed (clusOf e / 12) 0#12 =
    tget s.mg.factory.failed (clusOf e / 12) 0#12 ||| BitVec.ofNat 12 (2 ^ (clusOf e % 12))

theorem contain_contained (s : State) (e : Nat) : Contained e s (s.contain (clusOf e)) := by
  have hmine := getLsbD_own_cluster e
  unfold State.contain
  generalize hk : clusOf e = k at hmine ⊢
  extract_lets cs d gins _ _ failed voided returned promoted logged unpinned cleared released _ dropped emptied parted arrived forgotten
    halted cancelled disabled
  have he : e ∈ cs := mem_cluster.2 hk
  have hreturned : Quiet e failed returned := (Quiet.voidWrites failed k).trans (.modDie voided d _)
  have hpromoted : Quiet e failed promoted := hreturned.trans (.foldl (fun t p => .promoReply t p 2) _ returned)
  have hlogged : logged.core e = { promoted.core e with plog := [], epoch := ((promoted.core e).epoch + 1) % 2 ^ 16 } :=
    core_foldl_modCore (nodup_cluster k) he _ promoted
  have hlogged_mg : logged.mg = promoted.mg := mg_foldl_modCore cs _ promoted
  have hunpinned : Quiet e logged unpinned := by
    refine .foldl (fun t l => ?_) _ logged
    split
    · exact .ite (.refl t) (.modLine t ..)
    · exact .refl t
  have hcleared : Quiet e unpinned cleared := .modClu unpinned k _
  have hreleased : Quiet e logged released := (hunpinned.trans hcleared).trans (.releasePinned cleared k)
  have hdropped : Quiet e logged dropped := (hreleased.trans (.dropCommands released k)).trans (.with_rels (released.dropCommands k) _)
  have hemptied : Quiet e logged emptied := hdropped.trans (.foldl (fun t c => .dropEntries t c) cs dropped)
  have hcb : (emptied.core e).cb = [] := cb_foldl_dropEntries he dropped
  have hparted : Quiet e emptied parted := .modClu emptied k _
  have harrived : Quiet e emptied arrived := hparted.trans (.foldl (fun t m => .dropArrival t m) _ parted)
  have hforgotten : Quiet e emptied forgotten := harrived.trans (.foldl (fun t c =>
    .modCore t c (by exact fun _ => rfl) (by exact fun _ => rfl) (by exact fun _ => id)) cs arrived)
  have hhalted : Quiet e emptied halted := hforgotten.trans (.foldl (fun t c => .halts t c _) cs forgotten)
  have hcancelled : Quiet e emptied cancelled := hhalted.trans (.foldl (fun t g => .cancelGin t 8 g) gins halted)
  have hdisabled : Quiet e emptied disabled := hcancelled.trans (.modDie cancelled d _)
  have hend := hdisabled.trans (.post disabled { cls := 4, cause := 0, sub := 2, die := d, clus := k % 12 })
  have hlast := hemptied.trans hend
  constructor
  · rw [hlast.plog, hlogged]
  · exact hend.cb hcb
  · rw [hlast.epoch, hlogged, hpromoted.epoch]
    rfl
  · rw [post_die, hk]
    change ((cancelled.modDie d _).die d).cen.getLsbD (e % 48) = false
    rw [die_modDie_self, BitVec.getLsbD_and, BitVec.getLsbD_not, hmine, Bool.not_true, Bool.and_false, Bool.and_false]
  · rw [hlast.mg, hlogged_mg, hpromoted.mg, hk]
    exact tget_tset_self ..

end

end State

section
variable {s : State}

theorem containmentReset_contains (hflag : s.arg.flag = false) : exec .containmentReset s = .next (s.contain s.arg.n) := by
  change execContainmentReset s = _
  simp only [execContainmentReset, hflag, Bool.false_eq_true, if_false]

/-- Every cluster of a die that has failed is contained (R24, R84). -/
def State.containDie (s : State) (d : Nat) : State := (List.range 12).foldl (fun (t : State) i => t.contain (12 * d + i)) s

theorem containmentReset_fails_die (hflag : s.arg.flag = true) : ∃ u : State, exec .containmentReset s = .next u
    ∧ (u.die s.arg.n).dfail = true := by
  refine ⟨(s.containDie s.arg.n).modDie s.arg.n (fun q => { q with dfail := true }), ?_, ?_⟩
  · change execContainmentReset s = _
    simp only [execContainmentReset, hflag, if_true]
    rfl
  · rw [State.die_modDie_self]

theorem State.Contained.failed_ne {s t : State} {e : Nat} (h : State.Contained e s t) :
    tget t.mg.factory.failed (clusOf e / 12) 0#12 ≠ 0#12 := by
  have hlt : clusOf e % 12 < 12 := Nat.mod_lt _ (by decide)
  have hbit : (tget t.mg.factory.failed (clusOf e / 12) 0#12).getLsbD (clusOf e % 12) = true := by
    rw [h.failed, BitVec.getLsbD_or, BitVec.getLsbD_ofNat, Nat.testBit_two_pow_self, decide_eq_true hlt]
    simp
  intro hzero
  rw [hzero] at hbit
  simp at hbit

/-! ### Spare clusters (R90) -/

/-- Spare cluster k of die d takes part. -/
def State.enableSpare (s : State) (d k : Nat) : State :=
  s.modDie d (fun q => { q with
    clen := q.clen ||| BitVec.ofNat 12 (2 ^ k), cen := q.cen ||| BitVec.ofNat 48 (15 * 2 ^ (4 * k)),
    mxen := q.mxen ||| (BitVec.ofNat 48 (15 * 2 ^ (4 * k)) &&& ~~~(tget s.mg.factory.badMx d 0#48)), spare := 0#12 })

theorem spareClusterEnable_enables (hlost : tget s.mg.factory.failed s.arg.n 0#12 ≠ 0#12)
    (hspare : (s.die s.arg.n).spare.getLsbD s.arg.m = true) :
    exec .spareClusterEnable s = .next (s.enableSpare s.arg.n s.arg.m) := by
  change execSpareClusterEnable s = _
  simp only [execSpareClusterEnable, hlost, hspare, decide_false, Bool.not_true, Bool.or_self, Bool.false_eq_true, if_false]
  rfl

theorem State.enableSpare_die (s : State) (d : Nat) {k : Nat} (hk : k < 12) :
    ((s.enableSpare d k).die d).clen = (s.die d).clen ||| BitVec.ofNat 12 (2 ^ k) ∧ ((s.enableSpare d k).die d).spare = 0#12
      ∧ ∀ j < 4, ((s.enableSpare d k).die d).cen.getLsbD (4 * k + j) = true := by
  unfold State.enableSpare
  rw [State.die_modDie_self]
  refine ⟨rfl, rfl, fun j hj => ?_⟩
  rw [BitVec.getLsbD_or, State.getLsbD_cluster hk, decide_eq_true (by omega), Bool.or_true]

theorem spareClusterEnable_keeps (h : tget s.mg.factory.failed s.arg.n 0#12 = 0#12 ∨ (s.die s.arg.n).spare.getLsbD s.arg.m = false) :
    exec .spareClusterEnable s = .next s := by
  change execSpareClusterEnable s = _
  simp only [execSpareClusterEnable]
  rcases h with h | h <;> simp only [h, decide_true, Bool.not_false, Bool.or_true, Bool.true_or, if_true]

end

/-- What a containment that the cluster of core e takes leaves (R424). -/
theorem containmentReset_core (s : State) {e : Nat} (he : clusOf e = s.arg.n) :
    ∃ t, exec .containmentReset { s with arg := { s.arg with flag := false } } = .next t
      ∧ (t.core e).plog = [] ∧ (t.core e).cb = [] ∧ (t.core e).epoch = ((s.core e).epoch + 1) % 2 ^ 16
      ∧ (t.die (s.arg.n / 12)).cen.getLsbD (e % 48) = false ∧ tget t.mg.factory.failed (s.arg.n / 12) 0#12 ≠ 0#12 := by
  rw [← he]
  have hcontained := State.contain_contained { s with arg := { s.arg with flag := false } } e
  refine ⟨_, containmentReset_contains (s := { s with arg := { s.arg with flag := false } }) rfl, ?_⟩
  rw [show ({ s with arg := { s.arg with flag := false } } : State).arg.n = clusOf e from he.symm]
  exact ⟨hcontained.plog, hcontained.cb, hcontained.epoch, hcontained.cen, hcontained.failed_ne⟩

end Sys2Proof.Machine
end

section
/-! PROOFS. Pre-emption, save and resume, moves, containment and spares: the obligation (R90, R352, R414, R417 to R424). -/

namespace Sys2Proof.Machine

/-- Settles O56, clause by clause. A save changes memory, the checkpoint's copies and the fault queue alone (`recordSave_onlySaved`), a
resume's engine part no context, and what a containment does after it has cleared a core's log and entries keeps them so (`Quiet`). -/
theorem preemptionEvents : Obligations.PreemptionEvents := by
  intro s c v y x k
  refine ⟨fun hbusy => ⟨fun hflag => preemptRequest_busy hflag hbusy, debugHalt_busy hbusy, s.pmBusy_pmNote v hbusy, fun w hw => ?_⟩,
    fun hflag hidle hover => preemptRequest_over hflag hidle hover,
    fun hflag hidle hover => ⟨⟨_, preemptRequest_starts hflag hidle hover, State.requested_busy _, State.requested_ctx _⟩,
      _, debugHalt_starts hidle hover, State.requested_busy _, State.requested_ctx _⟩,
    fun hflag hover htask => (preemptRequest_own hflag hover htask).1,
    fun a hflag hover htask => (preemptRequest_own hflag hover htask).2 a,
    fun p hp hdebug hover hrun hdue => ⟨_, preemptWindowExpiry_rolls_back hp hdebug hover hrun hdue, ?_, rfl⟩,
    fun p hp hdue => preemptWindowExpiry_waits hp hdue,
    fun area hwhy hdue harea => ⟨_, preemptSave_debug hwhy hdue harea, ?_⟩,
    fun area hwhy hdue harea hflag => ⟨_, preemptSave_frees hwhy hdue harea hflag,
      State.freeCtx_status .., s.freed_save c x area, s.freed_mem c x area⟩,
    fun area d hwhy hdue harea => preemptSave_faults hwhy hdue harea,
    preemptSave_not_due,
    fun hflag hidle harea hfree hwhy hstarts hmagic => ⟨_, resume_idle hflag hidle, ?_⟩,
    fun a hflag hidle harea hwhy ha hmagic => ⟨_, resume_idle hflag hidle, ?_⟩,
    resume_busy, resume_no_memory,
    fun hflag hctxs hstarts hsaved hdone hfits => ⟨_, launchMove_moves rfl rfl rfl hflag hctxs hstarts hsaved hdone hfits,
      State.moveTo_takes_along hfits⟩,
    containmentReset_contains, containmentReset_fails_die, fun e he _ => containmentReset_core s he,
    fun hlost hspare hm => ⟨_, spareClusterEnable_enables hlost hspare, s.enableSpare_die _ hm⟩,
    spareClusterEnable_keeps⟩
  · obtain ⟨hctx, hstep, harea⟩ := s.pmNote_fields c v
    subst hw
    exact ⟨hctx, hstep, fun _ => harea⟩
  · rw [State.ctx_modCtx_self]
  · obtain ⟨hbusy, hsaved⟩ := s.debugSaved_pmctl c x area
    rw [s.debugSaved_ctx c x area]
    exact ⟨rfl, rfl, rfl, hbusy, hsaved, s.debugSaved_mem c x area⟩
  · obtain ⟨hctx, hsaves, hover⟩ := State.resumeAt_free hfree hwhy hstarts (State.holdsSave_of_magic harea hmagic)
    exact ⟨hctx.status, hctx.regs, hctx.mark, hctx.launch, hctx.task, hctx.wid, hsaves, hctx.cancel, hover⟩
  · subst ha
    exact State.resumeAt_debug hwhy (State.holdsSave_of_magic harea hmagic)

end Sys2Proof.Machine
end

section
/-! PROOFS. Words built from fields, lowest first, and what is read from them: the ground of the encodings (R107 to R112). -/

namespace Sys2Proof

/-- A field of n bits with the rest of the word above it. -/
def field (n x r : Nat) : Nat := x + 2 ^ n * r

variable {n x r lo m : Nat}

theorem field_lt_iff (hx : x < 2 ^ n) (hm : m % 2 ^ n = 0) : field n x r < m ↔ r < m / 2 ^ n := by
  obtain ⟨k, rfl⟩ := Nat.dvd_of_mod_eq_zero hm
  have hpos := Nat.two_pow_pos n
  rw [Nat.mul_div_cancel_left k hpos, field]
  refine ⟨fun h => ?_, fun h => ?_⟩
  · exact Nat.lt_of_mul_lt_mul_left (lt_of_le_of_lt (Nat.le_add_left _ x) h)
  · have := Nat.mul_le_mul_left (2 ^ n) h
    rw [Nat.mul_succ] at this
    omega

@[simp] theorem field_zero (n x : Nat) : field n x 0 = x := by simp [field]

theorem field_mod (hx : x < 2 ^ n) : field n x r % 2 ^ n = x := by
  rw [field, Nat.add_mul_mod_self_left, Nat.mod_eq_of_lt hx]

@[simp] theorem field4_mod (hx : x < 16) : field 4 x r % 16 = x := field_mod (n := 4) hx
@[simp] theorem field8_mod (hx : x < 256) : field 8 x r % 256 = x := field_mod (n := 8) hx
@[simp] theorem field9_mod (hx : x < 512) : field 9 x r % 512 = x := field_mod (n := 9) hx

/-- Bits above the lowest field are bits of the rest. -/
@[simp] theorem fld_field_above (hx : x < 2 ^ n) (h : n ≤ lo) : fld (field n x r) lo m = fld r (lo - n) m := by
  rw [fld, fld, ← pow_mul_pow_sub 2 h, ← Nat.div_div_eq_div_mul, field, Nat.add_mul_div_left _ _ (Nat.two_pow_pos n),
    Nat.div_eq_of_lt hx, Nat.zero_add]

/-- Bits within the lowest field are bits of its value. -/
@[simp] theorem fld_field_within (h : lo + m ≤ n) : fld (field n x r) lo m = fld x lo m := by
  obtain ⟨k, rfl⟩ := Nat.exists_eq_add_of_le h
  rw [fld, fld, field, pow_add, pow_add, mul_assoc, mul_assoc, Nat.add_mul_div_left _ _ (Nat.two_pow_pos lo),
    Nat.add_mul_mod_self_left]

/-- Bits from within the lowest field to within the rest. -/
@[simp] theorem fld_field_across (hx : x < 2 ^ n) (hlo : lo ≤ n) (h : n < lo + m) :
    fld (field n x r) lo m = fld x lo (n - lo) + 2 ^ (n - lo) * fld r 0 (lo + m - n) := by
  obtain ⟨j, rfl⟩ := Nat.exists_eq_add_of_le hlo
  obtain ⟨k, rfl⟩ : ∃ k, m = j + k := ⟨m - j, by omega⟩
  have hj : x / 2 ^ lo < 2 ^ j := Nat.div_lt_of_lt_mul (by rwa [← pow_add])
  rw [show lo + j - lo = j by omega, show lo + (j + k) - (lo + j) = k by omega, fld, fld, fld, field, pow_add, mul_assoc,
    Nat.add_mul_div_left _ _ (Nat.two_pow_pos lo), pow_zero, Nat.div_one, Nat.mod_eq_of_lt hj, pow_add, Nat.mod_mul,
    Nat.add_mul_mod_self_left, Nat.mod_eq_of_lt hj, Nat.add_mul_div_left _ _ (Nat.two_pow_pos j), Nat.div_eq_of_lt hj, Nat.zero_add]

@[simp] theorem fld_all (h : x < 2 ^ m) : fld x 0 m = x := by simp [fld, Nat.mod_eq_of_lt h]

@[simp] theorem fld_high (h : x < 2 ^ lo) : fld x lo m = 0 := by simp [fld, Nat.div_eq_of_lt h]

@[simp] theorem zero_fld (lo m : Nat) : fld 0 lo m = 0 := by simp [fld]

/-! ### The readers of the decoder, by the bits they read -/

@[simp] theorem sr_eq (w lo : Nat) : sr w lo = Fin.ofNat 64 (fld w lo 6) := Fin.ext (by simp [sr, fld])
@[simp] theorem vr_eq (w lo : Nat) : vr w lo = Fin.ofNat 16 (fld w lo 4) := Fin.ext (by simp [vr, fld])
@[simp] theorem kr_eq (w lo : Nat) : kr w lo = Fin.ofNat 8 (fld w lo 3) := Fin.ext (by simp [kr, fld])
theorem bit_eq (w lo : Nat) : bit w lo = decide (fld w lo 1 = 1) := by simp [bit, fld]

 theorem bitVec_eq (k w lo : Nat) : BitVec.ofNat k (w / 2 ^ lo) = BitVec.ofNat k (fld w lo k) := by
  simp [fld, BitVec.ofNat, Fin.ofNat]

theorem fin_eq (k w lo : Nat) : Fin.ofNat (2 ^ k) (w / 2 ^ lo) = Fin.ofNat (2 ^ k) (fld w lo k) := Fin.ext (by simp [fld])
 theorem fin2_eq (w lo : Nat) : Fin.ofNat 2 (w / 2 ^ lo) = Fin.ofNat 2 (fld w lo 1) := fin_eq 1 w lo
 theorem fin4_eq (w lo : Nat) : Fin.ofNat 4 (w / 2 ^ lo) = Fin.ofNat 4 (fld w lo 2) := fin_eq 2 w lo
 theorem fin8_eq (w lo : Nat) : Fin.ofNat 8 (w / 2 ^ lo) = Fin.ofNat 8 (fld w lo 3) := fin_eq 3 w lo
 theorem fin32_eq (w lo : Nat) : Fin.ofNat 32 (w / 2 ^ lo) = Fin.ofNat 32 (fld w lo 5) := fin_eq 5 w lo
 theorem fin64_eq (w lo : Nat) : Fin.ofNat 64 (w / 2 ^ lo) = Fin.ofNat 64 (fld w lo 6) := fin_eq 6 w lo
 theorem fin128_eq (w lo : Nat) : Fin.ofNat 128 (w / 2 ^ lo) = Fin.ofNat 128 (fld w lo 7) := fin_eq 7 w lo

/-! ### The size of what an instruction carries -/

@[simp] theorem toNat_lt {k : Nat} (v : BitVec k) (h : 2 ^ k ≤ n) : v.toNat < n := v.isLt.trans_le h
@[simp] theorem fin_lt {k : Nat} (v : Fin k) (h : k ≤ n) : v.val < n := v.isLt.trans_le h
@[simp] theorem fin_le {k : Nat} (v : Fin k) (h : k ≤ n + 1) : v.val ≤ n := Nat.le_of_lt_succ (fin_lt v h)
@[simp] theorem Bool.code_le (b : Bool) (h : 1 ≤ n) : Bool.code b ≤ n := by cases b <;> simp [Bool.code, h]
@[simp] theorem Bool.code_lt (b : Bool) (h : 2 ≤ n) : Bool.code b < n := by cases b <;> simp [Bool.code] <;> omega
@[simp] theorem Ty.code_lt (t : Ty) (h : 14 ≤ n) : t.code < n := by cases t <;> exact lt_of_lt_of_le (by decide) h
@[simp] theorem Rm.code_lt (r : Rm) (h : 8 ≤ n) : r.code < n := by cases r <;> exact lt_of_lt_of_le (by decide) h
@[simp] theorem Cond.code_lt (c : Cond) (h : 6 ≤ n) : c.code < n := by cases c <;> exact lt_of_lt_of_le (by decide) h
@[simp] theorem Scope.code_lt (c : Scope) (h : 5 ≤ n) : c.code < n := by cases c <;> exact lt_of_lt_of_le (by decide) h
@[simp] theorem Size.code_lt (z : Size) (h : 7 ≤ n) : z.code < n := by cases z <;> exact lt_of_lt_of_le (by decide) h
@[simp] theorem AmoOp.code_lt (o : AmoOp) (h : 9 ≤ n) : o.code < n := by cases o <;> exact lt_of_lt_of_le (by decide) h
@[simp] theorem AcqCmp.code_lt (c : AcqCmp) (h : 6 ≤ n) : c.code < n := by cases c <;> exact lt_of_lt_of_le (by decide) h
@[simp] theorem ModeSel.code_lt (m : ModeSel) (h : 3 ≤ n) : m.code < n := by cases m <;> exact lt_of_lt_of_le (by decide) h
@[simp] theorem hintCode_lt (h : Hint) (hn : 16 ≤ n) : hintCode h < n := by
  cases h with
  | none => exact lt_of_lt_of_le (by decide) hn
  | some d => exact d.isLt.trans_le (by omega)

/-! ### Coded fields are read back -/

@[simp] theorem Bool.code_false : Bool.code false = 0 := rfl
@[simp] theorem Bool.code_eq_one (b : Bool) : Bool.code b = 1 ↔ b = true := by cases b <;> decide
@[simp] theorem code_tyOf (t : Ty) : code (tyOf t.code) = .ok t := by cases t <;> rfl
@[simp] theorem code_rmOf (r : Rm) : code (rmOf r.code) = .ok r := by cases r <;> rfl
@[simp] theorem code_condOf (c : Cond) : code (condOf c.code) = .ok c := by cases c <;> rfl
@[simp] theorem code_scopeOf (c : Scope) : code (scopeOf c.code) = .ok c := by cases c <;> rfl
@[simp] theorem code_sizeOf (z : Size) : code (sizeOf z.code) = .ok z := by cases z <;> rfl
@[simp] theorem code_amoOf (o : AmoOp) : code (amoOf o.code) = .ok o := by cases o <;> rfl
@[simp] theorem code_acqOf (c : AcqCmp) : code (acqOf c.code) = .ok c := by cases c <;> rfl
@[simp] theorem code_modeOf (m : ModeSel) : code (modeOf m.code) = .ok m := by cases m <;> rfl
@[simp] theorem code_finOf {k : Nat} (x : Fin k) : code (finOf k x.val) = .ok x := by simp [code, finOf]
@[simp] theorem code_hintOf (h : Hint) : code (hintOf (hintCode h)) = .ok h := by
  cases h with
  | none => rfl
  | some d => simp [code, hintOf, hintCode]

@[simp] theorem ok_bind {α β : Type} (a : α) (f : α → Except DecodeErr β) : (Except.ok a >>= f) = f a := rfl
@[simp] theorem ok_true (i : Instr) : ok true i = .ok i := rfl

end Sys2Proof
end

section
/-! PROOFS. Decode after encode: the control and scalar instructions (R107, R108, R117). -/

namespace Sys2Proof

variable {op : Nat} {c : Bool}

/-! ### The formats as fields (R108) -/

theorem encRR_eq (op : Nat) (d a b : SReg) : encRR op d a b = field 8 op (field 6 d (field 6 a b)) := by
  simp only [encRR, at_, field]; omega

theorem encRI_eq (op d a imm : Nat) : encRI op d a imm = field 8 op (field 6 d (field 6 a imm)) := by
  simp only [encRI, at_, field]; omega

theorem encRF_eq (op : Nat) (ty : Ty) (d a b : SReg) (c ty2 rm : Nat) (sat : Bool) : encRF op ty d a b c ty2 rm sat =
    field 8 op (field 6 d (field 6 a (field 6 b (field 4 ty.code (field 6 c (field 4 ty2 (field 3 rm (Bool.code sat)))))))) := by
  simp only [encRF, at_, field]; omega

theorem encBR_eq (op cond a b : Nat) (off : BitVec 24) :
    encBR op cond a b off = field 8 op (field 4 cond (field 6 a (field 6 b off.toNat))) := by
  simp only [encBR, at_, field]; omega

theorem encLP_eq (op a : Nat) (b : SReg) (len : BitVec 16) (cimm : Nat) (md sk : Bool) : encLP op a b len cimm md sk =
    field 8 op (field 1 (Bool.code md) (field 1 (Bool.code sk) (field 6 a (field 6 b (field 16 len.toNat cimm))))) := by
  simp only [encLP, at_, field]; omega

theorem sysrd_eq (d r : Nat) : 0x0B + at_ d 8 + at_ r 32 = field 8 0x0B (field 6 d (field 18 0 r)) := by
  simp only [at_, field]; omega

theorem syswr_eq (a r : Nat) : 0x0C + at_ a 14 + at_ r 32 = field 8 0x0C (field 6 0 (field 6 a (field 12 0 r))) := by
  simp only [at_, field]; omega

theorem li_eq (d imm sh : Nat) : 0x41 + at_ d 8 + at_ imm 14 + at_ sh 46 = field 8 0x41 (field 6 d (field 32 imm sh)) := by
  simp only [at_, field]; omega

theorem add_at_eq (lo x r : Nat) : x + at_ r lo = field lo x r := by
  simp only [at_, field, Nat.mul_comm]

/-! ### What each form is read as -/

/-- The word fits a slot of 48 bits and is read as the instruction by the decoder of slot C (c) or S. -/
def ReadsCS (c : Bool) (w : Nat) (i : Instr) : Prop := w < 2 ^ 48 ∧ decodeCS c w = .ok i

theorem reads_rr3 {i : SReg → SReg → SReg → Instr} (hop : op < 256) (hdec : ∀ w, w % 256 = op → decodeCS c w = rr3 w i)
    (d a b : SReg) : ReadsCS c (encRR op d a b) (i d a b) :=
  ⟨by simp [encRR_eq, hop, field_lt_iff], by rw [hdec _ (by simp [encRR_eq, hop])]; simp [rr3, encRR_eq, hop]⟩

theorem reads_rr2 {i : SReg → SReg → Instr} (hop : op < 256) (hdec : ∀ w, w % 256 = op → decodeCS c w = rr2 w i)
    (d a : SReg) : ReadsCS c (encRR op d a 0) (i d a) :=
  ⟨by simp [encRR_eq, hop, field_lt_iff], by rw [hdec _ (by simp [encRR_eq, hop])]; simp [rr2, encRR_eq, hop]⟩

theorem reads_ri {i : SReg → SReg → BitVec 28 → Instr} (hop : op < 256) (hdec : ∀ w, w % 256 = op → decodeCS c w = ri w i)
    (d a : SReg) (imm : BitVec 28) : ReadsCS c (encRI op d a imm.toNat) (i d a imm) :=
  ⟨by simp [encRI_eq, hop, field_lt_iff], by rw [hdec _ (by simp [encRI_eq, hop])]; simp [ri, encRI_eq, hop, ↓bitVec_eq]⟩

theorem reads_riSh {i : SReg → SReg → Fin 64 → Instr} (hop : op < 256) (hdec : ∀ w, w % 256 = op → decodeCS c w = riSh w i)
    (d a : SReg) (n : Fin 64) : ReadsCS c (encRI op d a n) (i d a n) :=
  ⟨by simp [encRI_eq, hop, field_lt_iff], by rw [hdec _ (by simp [encRI_eq, hop])]; simp [riSh, encRI_eq, hop, ↓fin64_eq]⟩

theorem reads_rf3 {i : Ty → SReg → SReg → SReg → Rm → Bool → Instr} (hop : op < 256)
    (hdec : ∀ w, w % 256 = op → decodeCS c w = rf3 w i) (ty : Ty) (d a b : SReg) (rm : Rm) (sat : Bool) :
    ReadsCS c (encRF op ty d a b 0 0 rm.code sat) (i ty d a b rm sat) :=
  ⟨by simp [encRF_eq, hop, field_lt_iff], by rw [hdec _ (by simp [encRF_eq, hop])]; simp [rf3, encRF_eq, hop, bit_eq]⟩

theorem reads_rhi {i : HReg → SReg → BitVec 28 → Instr} (hop : op < 256) (hdec : ∀ w, w % 256 = op → decodeCS c w = rhi w i)
    (h : HReg) (a : SReg) (imm : BitVec 28) : ReadsCS c (encRI op h a imm.toNat) (i h a imm) :=
  ⟨by simp [encRI_eq, hop, field_lt_iff], by rw [hdec _ (by simp [encRI_eq, hop])]; simp [rhi, encRI_eq, hop, ↓bitVec_eq]⟩

/-! ### Every instruction of slots C and S (R117) -/

theorem reads_of_encode_cs {i : Instr} {w : Nat} (hwf : i.wellFormed = true) (he : encode i = some (.cs, w)) (c : Bool) :
    ReadsCS c w i := by
  cases i with
  | nop => cases he; exact ⟨by decide, rfl⟩
  | add d a b | sub d a b | and d a b | or d a b | xor d a b | shl d a b | shr d a b | sra d a b | mul d a b | mulh d a b
  | mulhu d a b | div d a b | divu d a b | rem d a b | remu d a b | min d a b | max d a b | minu d a b | maxu d a b
  | seq d a b | slt d a b | sltu d a b | sel d a b =>
    cases he; exact reads_rr3 (by decide) (fun w h => by rw [decodeCS, h]; rfl) d a b
  | clz d a | ctz d a | popc d a => cases he; exact reads_rr2 (by decide) (fun w h => by rw [decodeCS, h]; rfl) d a
  | addi d a imm | andi d a imm | ori d a imm | xori d a imm =>
    cases he; exact reads_ri (by decide) (fun w h => by rw [decodeCS, h]; rfl) d a imm
  | shli d a n | shri d a n | srai d a n => cases he; exact reads_riSh (by decide) (fun w h => by rw [decodeCS, h]; rfl) d a n
  | fadd ty d a b rm sat | fsub ty d a b rm sat | fmul ty d a b rm sat | fmin ty d a b rm sat | fmax ty d a b rm sat
  | fdiv ty d a b rm sat => cases he; exact reads_rf3 (by decide) (fun w h => by rw [decodeCS, h]; rfl) ty d a b rm sat
  | li d imm sh => cases he; exact ⟨by simp [li_eq, field_lt_iff], by simp [decodeCS, li_eq, ↓bitVec_eq, ↓fin4_eq]⟩
  | bfx d a p w sx =>
    cases he
    have hpw : bitfieldOk p w = true := hwf
    exact ⟨by simp [encRI_eq, add_at_eq, field_lt_iff],
      by simp [decodeCS, encRI_eq, add_at_eq, field_lt_iff, hpw, bit_eq, ↓bitVec_eq, ↓fin64_eq]⟩
  | bfi d a p w =>
    cases he
    have hpw : bitfieldOk p w = true := hwf
    exact ⟨by simp [encRI_eq, add_at_eq, field_lt_iff], by simp [decodeCS, encRI_eq, add_at_eq, field_lt_iff, hpw, ↓bitVec_eq, ↓fin64_eq]⟩
  | ffma ty d a b c rm sat | fcmp ty d a b p | fcvt ty t2 d a rm sat | fsqrt ty d a rm sat =>
    cases he; exact ⟨by simp [encRF_eq, field_lt_iff], by simp [decodeCS, encRF_eq, bit_eq]⟩
  | kmov f => cases f <;> cases he
  | vbcast ty d k z src => cases src <;> cases he
  | _ => cases he

theorem reads_of_encode_c {i : Instr} {w : Nat} (hwf : i.wellFormed = true) (he : encode i = some (.c, w)) :
    ReadsCS true w i := by
  cases i with
  | br off | brc cond a b off | call a off => cases he; exact ⟨by simp [encBR_eq, field_lt_iff], by simp [decodeCS, encBR_eq, ctl, ↓bitVec_eq]⟩
  | ret a | cyc d => cases he; exact ⟨by simp [encRR_eq, field_lt_iff], by simp [decodeCS, encRR_eq, ctl]⟩
  | jmpi a imm | lidx d n | trap x => cases he; exact ⟨by simp [encRI_eq, field_lt_iff], by simp [decodeCS, encRI_eq, ctl, ↓bitVec_eq]⟩
  | fpmode d rm m => cases he; exact ⟨by simp [encRI_eq, add_at_eq, field_lt_iff], by simp [decodeCS, encRI_eq, add_at_eq, ctl]⟩
  | loop a b len md sk =>
    cases he
    have hlen : loopOk b len sk = true := hwf
    exact ⟨by simp [encLP_eq, field_lt_iff], by simp [decodeCS, encLP_eq, ctl, hlen, bit_eq, ↓bitVec_eq]⟩
  | loopi n b len md sk =>
    cases he
    have hlen : loopOk b len sk = true := hwf
    exact ⟨by simp [encLP_eq, field_lt_iff], by simp [decodeCS, encLP_eq, ctl, hlen, bit_eq, ↓bitVec_eq]⟩
  | lexit => cases he; exact ⟨by decide, rfl⟩
  | sysrd d r =>
    cases he
    have hr : validSysreg r.toNat = true := hwf
    exact ⟨by simp [sysrd_eq, field_lt_iff], by simp [decodeCS, sysrd_eq, ctl, hr, ↓bitVec_eq]⟩
  | syswr a r =>
    cases he
    have hr : validSysreg r.toNat = true := hwf
    exact ⟨by simp [syswr_eq, field_lt_iff], by simp [decodeCS, syswr_eq, ctl, hr, ↓bitVec_eq]⟩
  | kmov f => cases f <;> cases he
  | vbcast ty d k z src => cases src <;> cases he
  | _ => cases he

theorem reads_of_encode_s {i : Instr} {w : Nat} (he : encode i = some (.s, w)) : ReadsCS false w i := by
  cases i with
  | hadvf n a imm | hadvc n a imm => cases he; exact reads_rhi (by decide) (fun w h => by rw [decodeCS, h]; rfl) n a imm
  | hset n a | hqry d n sel => cases he; exact ⟨by simp [encRI_eq, field_lt_iff], by simp [decodeCS, encRI_eq, ring, ↓fin8_eq]⟩
  | hwait n a v free =>
    cases he
    exact ⟨by simp [encRI_eq, add_at_eq, field_lt_iff], by simp [decodeCS, encRI_eq, add_at_eq, ring, bit_eq, ↓bitVec_eq]⟩
  | kmov f => cases f <;> cases he
  | vbcast ty d k z src => cases src <;> cases he
  | _ => cases he

end Sys2Proof
end

section
/-! PROOFS. Decode after encode: the matrix beats and the engine instructions (R111, R112, R120, R121). -/

namespace Sys2Proof

theorem encT_eq (op acc h : Nat) (wb : Bool) (wrow off fl : Nat) : encT op acc h wb wrow off fl =
    field 4 op (field 7 acc (field 4 h (field 1 (Bool.code wb) (field 5 wrow (field 5 off fl))))) := by
  simp only [encT, at_, field]; omega

theorem encE_eq (op d a b c sc sub imm : Nat) : encE op d a b c sc sub imm =
    field 8 op (field 6 d (field 6 a (field 6 b (field 6 c (field 3 sc (field 5 sub imm)))))) := by
  simp only [encE, at_, field]; omega

/-- The word with h = 0 and off = 0 is the one of the Tongs form (R234). -/
theorem ring_row_ne {h : HReg} {off : Fin 32} (hne : (h != 0 || off != 0) = true) : h = 0 → ¬ off = 0 := by
  simpa [or_iff_not_imp_left] using hne

theorem decodeT_of_encode {i : Instr} {w : Nat} (hwf : i.wellFormed = true) (he : encode i = some (.t, w)) :
    w < 2 ^ 32 ∧ decodeT w = .ok i := by
  cases i with
  | wload row h off =>
    cases he
    have hne := ring_row_ne hwf
    exact ⟨by simp [encT_eq, field_lt_iff], by simpa [decodeT, encT_eq, bit_eq, ↓fin32_eq] using hne⟩
  | wloadNxt row h off =>
    cases he
    have hne := ring_row_ne hwf
    exact ⟨by simp [encT_eq, field_lt_iff], by simpa [decodeT, encT_eq, bit_eq, ↓fin32_eq] using hne⟩
  | tzero a n =>
    cases he
    have hrows : a.val + n.val ≤ 127 := of_decide_eq_true hwf
    exact ⟨by simp [encT_eq, field_lt_iff], by simp [decodeT, encT_eq, hrows, ↓fin32_eq, ↓fin128_eq]⟩
  | wloadTongs row | wloadNxtTongs row | afeed h off | accum a | accumSet a | drain a | drainClr a =>
    cases he; exact ⟨by simp [encT_eq, field_lt_iff], by simp [decodeT, encT_eq, bit_eq, ↓fin32_eq, ↓fin128_eq]⟩
  | tswap | tclose => cases he; exact ⟨by decide, rfl⟩
  | kmov f => cases f <;> cases he
  | vbcast ty d k z src => cases src <;> cases he
  | _ => cases he

theorem encode_e_lt {i : Instr} {w : Nat} (he : encode i = some (.e, w)) : w < 2 ^ 48 := by
  cases i with
  | cpy d a b c sc eng tl | cpyx d a b c sc eng tl | cpq d eng sel | tlrd d tl sel | tlwait a sc tl | tladv a set tl | fence sc
  | acq n b sc cmp | rel n b sc | acqp d n b sc cmp | bind n a b c | unbind n | bara k | barw k | bar k | mregw sh reg a
  | mregr d sh reg | send a b c sc tl | recv d a c sc q | coll a sc tab tl | cstab a c tab | launch a q | cancel a | bown a
  | brel a | pwrq d a other sel => cases he; simp [encE_eq, add_at_eq, field_lt_iff]
  | wack => cases he; decide
  | kmov f => cases f <;> cases he
  | vbcast ty d k z src => cases src <;> cases he
  | _ => cases he

/-- A descriptor register of CPYX: a multiple of 4 other than s0 (R334). -/
theorem cpyx_reg_ok {d : SReg} (h : (d.val % 4 = 0 && d.val != 0) = true) : fld d.val 0 2 = 0 ∧ (d.val != 0) = true := by
  simpa [fld] using h

theorem decodeE_of_encode {i : Instr} {w : Nat} (hwf : i.wellFormed = true) (he : encode i = some (.e, w)) :
    decodeE w = .ok i := by
  cases i with
  | cpyx d a b c sc eng tl =>
    cases he
    have hd := cpyx_reg_ok hwf
    simp [decodeE, encE_eq, hd, ↓fin2_eq, ↓fin64_eq]
  | cpy d a b c sc eng tl | cpq d eng sel | tlrd d tl sel | tlwait a sc tl | tladv a set tl | fence sc | acq n b sc cmp
  | rel n b sc | acqp d n b sc cmp | bind n a b c | unbind n | bara k | barw k | bar k | send a b c sc tl | recv d a c sc q
  | coll a sc tab tl | cstab a c tab | launch a q | cancel a | bown a | brel a | pwrq d a other sel =>
    cases he; simp [decodeE, encE_eq, bit_eq, ↓fin2_eq, ↓fin32_eq, ↓fin64_eq]
  | mregw sh reg a | mregr d sh reg => cases he; simp [decodeE, encE_eq, add_at_eq, bit_eq]
  | wack => cases he; rfl
  | kmov f => cases f <;> cases he
  | vbcast ty d k z src => cases src <;> cases he
  | _ => cases he

end Sys2Proof
end

section
/-! PROOFS. Decode after encode: the vector instructions (R109, R119, R183, R185, R207). -/

namespace Sys2Proof

theorem encV_eq (op ty d a b c k : Nat) (z : Bool) (rm : Nat) (sat : Bool) (imm : Nat) : encV op ty d a b c k z rm sat imm =
    field 8 op (field 4 ty (field 4 d (field 4 a (field 4 b (field 4 c (field 3 k (field 1 (Bool.code z) (field 3 rm
      (field 1 (Bool.code sat) imm))))))))) := by
  simp only [encV, at_, field]; omega

/-! ### The second operand (R183) -/

/-- The bval field of a second operand. -/
def BSrc.value : BSrc → Nat
  | .vec _ => 0
  | .scal n => n.val
  | .imm v => v.toNat

/-- The bsrc field of a second operand. -/
def BSrc.kind : BSrc → Nat
  | .vec _ => 0
  | .scal _ => 1
  | .imm _ => 2

@[simp] theorem BSrc.bField_lt (b : BSrc) (h : 16 ≤ n) : b.bField < n := by
  cases b <;> simp [BSrc.bField] <;> omega

@[simp] theorem BSrc.value_lt (b : BSrc) (h : 2 ^ 21 ≤ n) : b.value < n := by
  cases b with
  | vec b => exact lt_of_lt_of_le (Nat.two_pow_pos 21) h
  | scal m => exact fin_lt m (le_trans (by decide) h)
  | imm v => exact toNat_lt v h

@[simp] theorem BSrc.kind_lt (b : BSrc) (h : 3 ≤ n) : b.kind < n := by
  cases b <;> simp [BSrc.kind] <;> omega

theorem BSrc.immField_eq (b : BSrc) : b.immField = field 21 b.value (field 5 0 b.kind) := by
  cases b <;> simp [BSrc.immField, BSrc.value, BSrc.kind, at_, field]

theorem BSrc.immField_add (b : BSrc) (p any : Nat) :
    b.immField + at_ p 21 + at_ any 24 = field 21 b.value (field 5 (field 3 p any) b.kind) := by
  rw [b.immField_eq]; simp only [at_, field]; omega

section
variable {op c rm imm : Nat} {sat : Bool}

theorem bsrcOf_encV (b : BSrc) {ty d a k opt : Nat} {z : Bool} (hop : op < 256) (hty : ty < 16) (hd : d < 16) (ha : a < 16)
    (hc : c < 16) (hk : k < 8) (hrm : rm < 8) (hopt : opt < 32) :
    bsrcOf (encV op ty d a b.bField c k z rm sat (field 21 b.value (field 5 opt b.kind))) = .ok b := by
  cases b <;>
    simp [bsrcOf, encV_eq, BSrc.bField, BSrc.value, BSrc.kind, hop, hty, hd, ha, hc, hk, hrm, hopt, ↓bitVec_eq]

theorem bsrcOf_encVO (o : VOp) (b : BSrc) (hop : op < 256) (hc : c < 16) (hrm : rm < 8) :
    bsrcOf (encVO op o b.bField c rm sat b.immField) = .ok b := by
  rw [encVO, b.immField_eq]
  exact bsrcOf_encV b hop (by simp) (by simp) (by simp) hc (by simp) hrm (by decide)

theorem vopOf_encVO (o : VOp) {b : Nat} (hop : op < 256) (hb : b < 16) (hc : c < 16) : vopOf (encVO op o b c rm sat imm) = .ok o := by
  simp [bit_eq, vopOf, encVO, encV_eq, hop, hb, hc]

theorem encVO_mod (o : VOp) (b : Nat) (hop : op < 256) : encVO op o b c rm sat imm % 256 = op := by
  simp [encVO, encV_eq, hop]

theorem encVO_lt (o : VOp) {b : Nat} (hop : op < 256) (hb : b < 16) (hc : c < 16) (hrm : rm < 8) (himm : imm < 2 ^ 28) :
    encVO op o b c rm sat imm < 2 ^ 64 := by
  simp only [Nat.reducePow] at himm
  simp [encVO, encV_eq, hop, hb, hc, hrm, himm, field_lt_iff]

end

/-! ### What each form is read as (R185) -/

/-- The word fits a slot of 64 bits and is read as the instruction by the decoder of slots V0 and V1. -/
def ReadsV (w : Nat) (i : Instr) : Prop := w < 2 ^ 64 ∧ decodeV w = .ok i

section
variable {op : Nat} (hop : op < 256)
include hop

theorem reads_vb {i : VOp → BSrc → Rm → Bool → Instr} (hdec : ∀ w, w % 256 = op → decodeV w = vb w i) (o : VOp) (b : BSrc) (rm : Rm)
    (sat : Bool) : ReadsV (encVO op o b.bField 0 rm.code sat b.immField) (i o b rm sat) := by
  refine ⟨encVO_lt o hop (by simp) (by simp) (by simp) (by simp [BSrc.immField_eq, field_lt_iff]), ?_⟩
  rw [hdec _ (encVO_mod o _ hop), vb, vopOf_encVO o hop (by simp) (by simp), bsrcOf_encVO o b hop (by simp) (by simp)]
  simp [bit_eq, encVO, encV_eq, BSrc.immField_eq, hop]

theorem reads_vbc {i : VOp → BSrc → VReg → Rm → Bool → Instr} (hdec : ∀ w, w % 256 = op → decodeV w = vbc w i) (o : VOp) (b : BSrc)
    (c : VReg) (rm : Rm) (sat : Bool) : ReadsV (encVO op o b.bField c rm.code sat b.immField) (i o b c rm sat) := by
  refine ⟨encVO_lt o hop (by simp) (by simp) (by simp) (by simp [BSrc.immField_eq, field_lt_iff]), ?_⟩
  rw [hdec _ (encVO_mod o _ hop), vbc, vopOf_encVO o hop (by simp) (by simp), bsrcOf_encVO o b hop (by simp) (by simp)]
  simp [bit_eq, encVO, encV_eq, BSrc.immField_eq, hop]

theorem reads_vbs {i : VOp → BSrc → Bool → Instr} (hdec : ∀ w, w % 256 = op → decodeV w = vbs w i) (o : VOp) (b : BSrc) (sat : Bool) :
    ReadsV (encVO op o b.bField 0 0 sat b.immField) (i o b sat) := by
  refine ⟨encVO_lt o hop (by simp) (by simp) (by simp) (by simp [BSrc.immField_eq, field_lt_iff]), ?_⟩
  rw [hdec _ (encVO_mod o _ hop), vbs, vopOf_encVO o hop (by simp) (by simp), bsrcOf_encVO o b hop (by simp) (by simp)]
  simp [bit_eq, encVO, encV_eq, BSrc.immField_eq, hop]

theorem reads_vb0 {i : VOp → BSrc → Instr} (hdec : ∀ w, w % 256 = op → decodeV w = vb0 w i) (o : VOp) (b : BSrc) :
    ReadsV (encVO op o b.bField 0 0 false b.immField) (i o b) := by
  refine ⟨encVO_lt o hop (by simp) (by simp) (by simp) (by simp [BSrc.immField_eq, field_lt_iff]), ?_⟩
  rw [hdec _ (encVO_mod o _ hop), vb0, vopOf_encVO o hop (by simp) (by simp), bsrcOf_encVO o b hop (by simp) (by simp)]
  simp [encVO, encV_eq, BSrc.immField_eq, hop]

theorem reads_va {i : VOp → Rm → Bool → Instr} (hdec : ∀ w, w % 256 = op → decodeV w = va w i) (o : VOp) (rm : Rm) (sat : Bool) :
    ReadsV (encVO op o 0 0 rm.code sat 0) (i o rm sat) := by
  refine ⟨encVO_lt o hop (by simp) (by simp) (by simp) (by simp), ?_⟩
  rw [hdec _ (encVO_mod o _ hop), va, vopOf_encVO o hop (by simp) (by simp)]
  simp [bit_eq, encVO, encV_eq, hop]

theorem reads_vas {i : VOp → Bool → Instr} (hdec : ∀ w, w % 256 = op → decodeV w = vas w i) (o : VOp) (sat : Bool) :
    ReadsV (encVO op o 0 0 0 sat 0) (i o sat) := by
  refine ⟨encVO_lt o hop (by simp) (by simp) (by simp) (by simp), ?_⟩
  rw [hdec _ (encVO_mod o _ hop), vas, vopOf_encVO o hop (by simp) (by simp)]
  simp [bit_eq, encVO, encV_eq, hop]

theorem reads_va0 {i : VOp → Instr} (hdec : ∀ w, w % 256 = op → decodeV w = va0 w i) (o : VOp) :
    ReadsV (encVO op o 0 0 0 false 0) (i o) := by
  refine ⟨encVO_lt o hop (by simp) (by simp) (by simp) (by simp), ?_⟩
  rw [hdec _ (encVO_mod o _ hop), va0, vopOf_encVO o hop (by simp) (by simp)]
  simp [encVO, encV_eq, hop]

theorem reads_vred {i : Ty → VReg → VReg → KReg → Bool → Instr} (hdec : ∀ w, w % 256 = op → decodeV w = vred w i) (ty : Ty) (d a : VReg)
    (k : KReg) (sat : Bool) : ReadsV (encV op ty.code d a 0 0 k false 0 sat 0) (i ty d a k sat) := by
  refine ⟨by simp [encV_eq, hop, field_lt_iff], ?_⟩
  rw [hdec _ (by simp [encV_eq, hop]), vred]
  simp [bit_eq, encV_eq, vopOf, hop]
end

/-! ### Every vector instruction -/

theorem reads_vcmp (ty : Ty) (d : KReg) (a : VReg) (b : BSrc) (k : KReg) (z : Bool) (p : Fin 8) (any : Bool) :
    ReadsV (encV 0x30 ty.code d a b.bField 0 k z 0 false (b.immField + at_ p.val 21 + at_ (Bool.code any) 24)) (.vcmp ty d a b k z p any) := by
  rw [BSrc.immField_add]
  refine ⟨by simp [encV_eq, field_lt_iff], ?_⟩
  rw [decodeV, show encV 0x30 ty.code d a b.bField 0 k z 0 false _ % 256 = 0x30 by simp [encV_eq]]
  have hb : bsrcOf _ = .ok b := bsrcOf_encV (op := 0x30) (ty := ty.code) (d := d) (a := a) (c := 0) (k := k) (z := z) (rm := 0) (sat := false)
    (opt := field 3 p (Bool.code any)) b (by simp) (by simp) (by simp) (by simp) (by simp) (by simp) (by simp) (by simp [field_lt_iff])
  simp only [hb]
  simp [bit_eq, vopOf, encV_eq, field_lt_iff, ↓fin8_eq]

theorem reads_kmov (f : KMov) {w : Nat} (he : encode (.kmov f) = some (.v, w)) : ReadsV w (.kmov f) := by
  cases f <;> cases he <;>
    exact ⟨by simp [encV_eq, add_at_eq, field_lt_iff], by simp [decodeV, kop, encV_eq, add_at_eq, field_lt_iff, ↓fin8_eq]⟩

theorem reads_vbcast (ty : Ty) (d : VReg) (k : KReg) (z : Bool) (src : BcSrc) {w : Nat} (hwf : (Instr.vbcast ty d k z src).wellFormed = true)
    (he : encode (.vbcast ty d k z src) = some (.v, w)) : ReadsV w (.vbcast ty d k z src) := by
  cases src with
  | elem a idx =>
    cases he
    have hidx : idx.toNat < ty.count := of_decide_eq_true hwf
    exact ⟨by simp [encV_eq, field_lt_iff], by simp [bit_eq, decodeV, vopOf, vbcastOf, encV_eq, hidx, ↓bitVec_eq]⟩
  | scal n => cases he; exact ⟨by simp [encV_eq, add_at_eq, field_lt_iff], by simp [bit_eq, decodeV, vopOf, vbcastOf, encV_eq, add_at_eq]⟩
  | imm v =>
    cases he
    exact ⟨by simp [encV_eq, add_at_eq, field_lt_iff], by simp [bit_eq, decodeV, vopOf, vbcastOf, encV_eq, add_at_eq, ↓bitVec_eq]⟩

theorem BlkImm.code_eq (b : BlkImm) : b.code = field 2 b.fmt (field 3 b.j0 (field 3 b.bc b.o.toNat)) := by
  simp only [BlkImm.code, at_, field]; omega

theorem reads_vcvt (o : VOp) (dst : Ty) (p : Fin 8) (rm : Rm) (sat : Bool) (hp : partOk o.ty dst p.val = true) :
    ReadsV (encVO 0x58 o 0 0 rm.code sat (dst.code + at_ p.val 4)) (.vcvt o dst p rm sat) :=
  ⟨by simp [encVO, encV_eq, add_at_eq, field_lt_iff], by simp [bit_eq, decodeV, vopOf, encVO, encV_eq, add_at_eq, hp, ↓fin8_eq]⟩

theorem reads_vcvtsr (o : VOp) (dst : Ty) (p : Fin 8) (sat : Bool) (hp : partOk o.ty dst p.val = true) :
    ReadsV (encVO 0x59 o 0 0 0 sat (dst.code + at_ p.val 4)) (.vcvtsr o dst p sat) :=
  ⟨by simp [encVO, encV_eq, add_at_eq, field_lt_iff], by simp [bit_eq, decodeV, vopOf, encVO, encV_eq, add_at_eq, hp, ↓fin8_eq]⟩

theorem reads_vqblk (ty : Ty) (d a : VReg) (rm : Rm) (sat : Bool) (blk : BlkImm) (hblk : blk.ok ty = true) :
    ReadsV (encV 0x5A ty.code d a 0 0 0 false rm.code sat blk.code) (.vqblk ty d a rm sat blk) :=
  ⟨by simp [encV_eq, BlkImm.code_eq, field_lt_iff],
    by simp [bit_eq, decodeV, blkOf, encV_eq, BlkImm.code_eq, hblk, ↓bitVec_eq, ↓fin4_eq, ↓fin8_eq]⟩

theorem reads_vdqblk (o : VOp) (rm : Rm) (sat : Bool) (blk : BlkImm) (hblk : blk.ok o.ty = true) :
    ReadsV (encVO 0x5B o 0 0 rm.code sat blk.code) (.vdqblk o rm sat blk) :=
  ⟨by simp [encVO, encV_eq, BlkImm.code_eq, field_lt_iff],
    by simp [bit_eq, decodeV, vopOf, blkOf, encVO, encV_eq, BlkImm.code_eq, hblk, ↓bitVec_eq, ↓fin4_eq, ↓fin8_eq]⟩

theorem reads_vimad (o : VOp) (b : BSrc) (c : VReg) (sat : Bool) : ReadsV (encVO 0x23 o b.bField c 0 sat b.immField) (.vimad o b c sat) := by
  refine ⟨encVO_lt o (by decide) (by simp) (by simp) (by simp) (by simp [BSrc.immField_eq, field_lt_iff]), ?_⟩
  rw [decodeV, encVO_mod o _ (by decide)]
  simp only [vopOf_encVO o (op := 0x23) (b := b.bField) (c := c) (by decide) (by simp) (by simp),
    bsrcOf_encVO o b (op := 0x23) (c := c) (rm := 0) (by decide) (by simp) (by simp)]
  simp [bit_eq, encVO, encV_eq, BSrc.immField_eq]

theorem reads_vperm (o : VOp) (b : VReg) (zero : Bool) :
    ReadsV (encVO 0x44 o b 0 0 false (at_ (Bool.code zero) 21)) (.vperm o b zero) := by
  rw [show at_ (Bool.code zero) 21 = field 21 0 (Bool.code zero) by simp [at_, field, Nat.mul_comm]]
  exact ⟨by simp [encVO, encV_eq, field_lt_iff], by simp [bit_eq, decodeV, vopOf, encVO, encV_eq]⟩

theorem reads_vsel (o : VOp) (b : VReg) (c : KReg) : ReadsV (encVO 0x41 o b c 0 false 0) (.vsel o b c) :=
  ⟨by simp [encVO, encV_eq, field_lt_iff], by simp [bit_eq, decodeV, vopOf, encVO, encV_eq]⟩

theorem reads_vrot (o : VOp) (r : BitVec 11) : ReadsV (encVO 0x45 o 0 0 0 false r.toNat) (.vrot o r) :=
  ⟨by simp [encVO, encV_eq, field_lt_iff], by simp [bit_eq, decodeV, vopOf, encVO, encV_eq, ↓bitVec_eq]⟩

theorem reads_vpack (o : VOp) (b : VReg) (sat : Bool) : ReadsV (encVO 0x5C o b 0 0 sat 0) (.vpack o b sat) :=
  ⟨by simp [encVO, encV_eq, field_lt_iff], by simp [bit_eq, decodeV, vopOf, encVO, encV_eq]⟩

theorem reads_vunpk (o : VOp) (p : Bool) : ReadsV (encVO 0x5D o 0 0 0 false (Bool.code p)) (.vunpk o p) :=
  ⟨by simp [encVO, encV_eq, field_lt_iff], by simp [bit_eq, decodeV, vopOf, encVO, encV_eq]⟩

theorem reads_vrsum (ty : Ty) (d a : VReg) (k : KReg) (rm : Rm) (sat : Bool) :
    ReadsV (encV 0x50 ty.code d a 0 0 k false rm.code sat 0) (.vrsum ty d a k rm sat) :=
  ⟨by simp [encV_eq, field_lt_iff], by simp [bit_eq, decodeV, vopOf, encV_eq]⟩

theorem reads_vclass (ty : Ty) (d : KReg) (a : VReg) (k : KReg) (z : Bool) (set : BitVec 9) (any : Bool) :
    ReadsV (encV 0x31 ty.code d a 0 0 k z 0 false (set.toNat + at_ (Bool.code any) 9)) (.vclass ty d a k z set any) :=
  ⟨by simp [encV_eq, add_at_eq, field_lt_iff], by simp [bit_eq, decodeV, vopOf, encV_eq, add_at_eq, ↓bitVec_eq]⟩

theorem reads_viota (ty : Ty) (d : VReg) (k : KReg) (z : Bool) (base : BitVec 16) (stride : BitVec 12) :
    ReadsV (encV 0x43 ty.code d 0 0 0 k z 0 false (base.toNat + at_ stride.toNat 16)) (.viota ty d k z base stride) :=
  ⟨by simp [encV_eq, add_at_eq, field_lt_iff], by simp [bit_eq, decodeV, vopOf, encV_eq, add_at_eq, ↓bitVec_eq]⟩

theorem reads_vextr (ty : Ty) (n : SReg) (a : VReg) (i : SReg) (off : BitVec 11) :
    ReadsV (encV 0x46 ty.code 0 a 0 0 0 false 0 false (n.val + at_ i.val 6 + at_ off.toNat 12)) (.vextr ty n a i off) :=
  ⟨by simp [encV_eq, add_at_eq, field_lt_iff], by simp [decodeV, encV_eq, add_at_eq, field_lt_iff, ↓bitVec_eq]⟩

theorem reads_vins (ty : Ty) (d : VReg) (n i : SReg) (off : BitVec 11) :
    ReadsV (encV 0x47 ty.code d 0 0 0 0 false 0 false (n.val + at_ i.val 6 + at_ off.toNat 12)) (.vins ty d n i off) :=
  ⟨by simp [encV_eq, add_at_eq, field_lt_iff], by simp [decodeV, encV_eq, add_at_eq, field_lt_iff, ↓bitVec_eq]⟩

theorem reads_of_encode_v {i : Instr} {w : Nat} (hwf : i.wellFormed = true) (he : encode i = some (.v, w)) : ReadsV w i := by
  cases i with
  | vadd o b rm sat | vsub o b rm sat | vmul o b rm sat | vdiv o b rm sat | vscalb o b rm sat =>
    cases he; exact reads_vb (by decide) (fun w h => by rw [decodeV, h]; rfl) o b rm sat
  | vfma o b c rm sat | vfms o b c rm sat | vfnma o b c rm sat =>
    cases he; exact reads_vbc (by decide) (fun w h => by rw [decodeV, h]; rfl) o b c rm sat
  | vmin o b sat | vmax o b sat | viadd o b sat | visub o b sat | vimul o b sat | vshl o b sat =>
    cases he; exact reads_vbs (by decide) (fun w h => by rw [decodeV, h]; rfl) o b sat
  | vimin o b | vimax o b | vand o b | vor o b | vxor o b | vshr o b | vsra o b =>
    cases he; exact reads_vb0 (by decide) (fun w h => by rw [decodeV, h]; rfl) o b
  | vsqrt o rm sat | vrcp o rm sat | vrsq o rm sat | vexp2 o rm sat | vlog2 o rm sat =>
    cases he; exact reads_va (by decide) (fun w h => by rw [decodeV, h]; rfl) o rm sat
  | vabs o sat | vneg o sat | viabs o sat => cases he; exact reads_vas (by decide) (fun w h => by rw [decodeV, h]; rfl) o sat
  | vpopc o | vmov o => cases he; exact reads_va0 (by decide) (fun w h => by rw [decodeV, h]; rfl) o
  | vrmax ty d a k sat | vrmin ty d a k sat | virsum ty d a k sat =>
    cases he; exact reads_vred (by decide) (fun w h => by rw [decodeV, h]; rfl) ty d a k sat
  | vcmp ty d a b k z p any => cases he; exact reads_vcmp ty d a b k z p any
  | kmov f => exact reads_kmov f he
  | vbcast ty d k z src => exact reads_vbcast ty d k z src hwf he
  | vcvt o dst p rm sat => cases he; exact reads_vcvt o dst p rm sat hwf
  | vcvtsr o dst p sat => cases he; exact reads_vcvtsr o dst p sat hwf
  | vqblk ty d a rm sat blk => cases he; exact reads_vqblk ty d a rm sat blk hwf
  | vdqblk o rm sat blk => cases he; exact reads_vdqblk o rm sat blk hwf
  | kand d a b | kor d a b | kxor d a b | knot d a | kpopc n a =>
    cases he; exact ⟨by simp [encV_eq, field_lt_iff], by simp [decodeV, kop, encV_eq]⟩
  | vimad o b c sat => cases he; exact reads_vimad o b c sat
  | vclass ty d a k z set any => cases he; exact reads_vclass ty d a k z set any
  | viota ty d k z base stride => cases he; exact reads_viota ty d k z base stride
  | vextr ty n a i off => cases he; exact reads_vextr ty n a i off
  | vins ty d n i off => cases he; exact reads_vins ty d n i off
  | vrsum ty d a k rm sat => cases he; exact reads_vrsum ty d a k rm sat
  | vsel o b c => cases he; exact reads_vsel o b c
  | vperm o b zero => cases he; exact reads_vperm o b zero
  | vrot o r => cases he; exact reads_vrot o r
  | vpack o b sat => cases he; exact reads_vpack o b sat
  | vunpk o p => cases he; exact reads_vunpk o p
  | _ => cases he

end Sys2Proof
end

section
/-! PROOFS. Decode after encode: the memory instructions (R110, R118, R289, R301). -/

namespace Sys2Proof

theorem encM_eq (op d a b k hint sc imm : Nat) : encM op d a b k hint sc imm =
    field 9 op (field 6 d (field 6 a (field 6 b (field 3 k (field 4 hint (field 3 sc imm)))))) := by
  simp only [encM, at_, field]; omega

theorem Place.code_eq (p : Place) (off : BitVec 13) :
    p.code off = field 13 off.toNat (field 1 (Bool.code p.half) (field 2 p.core (field 4 p.clus p.die))) := by
  simp only [Place.code, at_, field]; omega

theorem mvst_imm_eq (off set clus die : Nat) :
    off + at_ set 12 + at_ clus 16 + at_ die 20 = field 12 off (field 4 set (field 4 clus die)) := by
  simp only [at_, field]; omega

/-- The word fits a slot of 64 bits and is read as the instruction by the decoder of slot M. -/
def ReadsM (w : Nat) (i : Instr) : Prop := w < 2 ^ 64 ∧ decodeM w = .ok i

section
variable {op : Nat} (hop : op < 512)
include hop

theorem encM_mod (d a b k hint sc imm : Nat) : encM op d a b k hint sc imm % 512 = op := by
  simp [encM_eq, hop]

/-! ### What each form is read as -/

theorem reads_mSc {i : SReg → SReg → Size → BitVec 24 → Instr} (hdec : ∀ w, w % 512 = op → decodeM w = mSc w i) (d a : SReg) (sz : Size)
    (imm : BitVec 24) : ReadsM (encM op d a 0 sz.code 15 0 imm.toNat) (i d a sz imm) := by
  refine ⟨by simp [encM_eq, hop, field_lt_iff], ?_⟩
  rw [hdec _ (encM_mod hop ..)]
  simp [mSc, noHint, noSc, mimm, encM_eq, hop, ↓bitVec_eq]

theorem reads_mVs {i : VReg → SReg → KReg → BitVec 24 → Instr} (hdec : ∀ w, w % 512 = op → decodeM w = mVs w i) (d : VReg) (a : SReg)
    (k : KReg) (imm : BitVec 24) : ReadsM (encM op d a 0 k 15 0 imm.toNat) (i d a k imm) := by
  refine ⟨by simp [encM_eq, hop, field_lt_iff], ?_⟩
  rw [hdec _ (encM_mod hop ..)]
  simp [mVs, noHint, noSc, mimm, encM_eq, hop, ↓bitVec_eq]

theorem reads_mVss {i : VReg → SReg → SReg → KReg → BitVec 24 → Instr} (hdec : ∀ w, w % 512 = op → decodeM w = mVss w i) (d : VReg)
    (a b : SReg) (k : KReg) (imm : BitVec 24) : ReadsM (encM op d a b k 15 0 imm.toNat) (i d a b k imm) := by
  refine ⟨by simp [encM_eq, hop, field_lt_iff], ?_⟩
  rw [hdec _ (encM_mod hop ..)]
  simp [mVss, noHint, noSc, mimm, encM_eq, hop, ↓bitVec_eq]

theorem reads_mVsg {i : VReg → SReg → VReg → KReg → BitVec 24 → Instr} (hdec : ∀ w, w % 512 = op → decodeM w = mVsg w i) (d : VReg)
    (a : SReg) (b : VReg) (k : KReg) (imm : BitVec 24) : ReadsM (encM op d a b k 15 0 imm.toNat) (i d a b k imm) := by
  refine ⟨by simp [encM_eq, hop, field_lt_iff], ?_⟩
  rw [hdec _ (encM_mod hop ..)]
  simp [mVsg, noHint, noSc, mimm, encM_eq, hop, ↓bitVec_eq]

theorem reads_mVh {i : VReg → HReg → KReg → BitVec 10 → Instr} (hdec : ∀ w, w % 512 = op → decodeM w = mVh w i) (d : VReg) (h : HReg)
    (k : KReg) (off : BitVec 10) : ReadsM (encM op d h 0 k 15 0 off.toNat) (i d h k off) := by
  refine ⟨by simp [encM_eq, hop, field_lt_iff], ?_⟩
  rw [hdec _ (encM_mod hop ..)]
  simp [mVh, noHint, noSc, encM_eq, hop, ↓bitVec_eq]

theorem reads_mTag {i : SReg → SReg → Scope → BitVec 24 → Instr} (hdec : ∀ w, w % 512 = op → decodeM w = mTag w i) (d a : SReg)
    (sc : Scope) (imm : BitVec 24) : ReadsM (encM op d a 0 0 15 sc.code imm.toNat) (i d a sc imm) := by
  refine ⟨by simp [encM_eq, hop, field_lt_iff], ?_⟩
  rw [hdec _ (encM_mod hop ..)]
  simp [mTag, noHint, mimm, encM_eq, hop, ↓bitVec_eq]

theorem reads_mG {i : SReg → SReg → Size → Hint → BitVec 24 → Instr} (hdec : ∀ w, w % 512 = op → decodeM w = mG w i) (d a : SReg)
    (sz : Size) (h : Hint) (imm : BitVec 24) : ReadsM (encM op d a 0 sz.code (hintCode h) 0 imm.toNat) (i d a sz h imm) := by
  refine ⟨by simp [encM_eq, hop, field_lt_iff], ?_⟩
  rw [hdec _ (encM_mod hop ..)]
  simp [mG, noSc, mimm, encM_eq, hop, ↓bitVec_eq]

theorem reads_mVg {i : VReg → SReg → KReg → Hint → BitVec 24 → Instr} (hdec : ∀ w, w % 512 = op → decodeM w = mVg w i) (d : VReg)
    (a : SReg) (k : KReg) (h : Hint) (imm : BitVec 24) : ReadsM (encM op d a 0 k (hintCode h) 0 imm.toNat) (i d a k h imm) := by
  refine ⟨by simp [encM_eq, hop, field_lt_iff], ?_⟩
  rw [hdec _ (encM_mod hop ..)]
  simp [mVg, noSc, mimm, encM_eq, hop, ↓bitVec_eq]

theorem reads_mVgg {i : VReg → SReg → VReg → KReg → Hint → BitVec 24 → Instr} (hdec : ∀ w, w % 512 = op → decodeM w = mVgg w i)
    (d : VReg) (a : SReg) (b : VReg) (k : KReg) (h : Hint) (imm : BitVec 24) :
    ReadsM (encM op d a b k (hintCode h) 0 imm.toNat) (i d a b k h imm) := by
  refine ⟨by simp [encM_eq, hop, field_lt_iff], ?_⟩
  rw [hdec _ (encM_mod hop ..)]
  simp [mVgg, noSc, mimm, encM_eq, hop, ↓bitVec_eq]

theorem reads_mPin {i : SReg → SReg → Hint → BitVec 24 → Instr} (hdec : ∀ w, w % 512 = op → decodeM w = mPin w i) (a b : SReg) (h : Hint)
    (imm : BitVec 24) : ReadsM (encM op 0 a b 0 (hintCode h) 0 imm.toNat) (i a b h imm) := by
  refine ⟨by simp [encM_eq, hop, field_lt_iff], ?_⟩
  rw [hdec _ (encM_mod hop ..)]
  simp [mPin, noSc, mimm, encM_eq, hop, ↓bitVec_eq]

theorem reads_mWb {i : SReg → SReg → Hint → Scope → BitVec 24 → Instr} (hdec : ∀ w, w % 512 = op → decodeM w = mWb w i) (a b : SReg)
    (h : Hint) (sc : Scope) (imm : BitVec 24) : ReadsM (encM op 0 a b 0 (hintCode h) sc.code imm.toNat) (i a b h sc imm) := by
  refine ⟨by simp [encM_eq, hop, field_lt_iff], ?_⟩
  rw [hdec _ (encM_mod hop ..)]
  simp [mWb, mimm, encM_eq, hop, ↓bitVec_eq]
end

theorem reads_of_encode_m {i : Instr} {w : Nat} (he : encode i = some (.m, w)) : ReadsM w i := by
  cases i with
  | sld d a sz imm | sst d a sz imm => cases he; exact reads_mSc (by decide) (fun w h => by rw [decodeM, h]; rfl) d a sz imm
  | vsld d a k imm | vsst d a k imm => cases he; exact reads_mVs (by decide) (fun w h => by rw [decodeM, h]; rfl) d a k imm
  | vslds d a b k imm | vssts d a b k imm => cases he; exact reads_mVss (by decide) (fun w h => by rw [decodeM, h]; rfl) d a b k imm
  | vsgath d a b k imm | vsscat d a b k imm => cases he; exact reads_mVsg (by decide) (fun w h => by rw [decodeM, h]; rfl) d a b k imm
  | vhld d n k off | vhst d n k off => cases he; exact reads_mVh (by decide) (fun w h => by rw [decodeM, h]; rfl) d n k off
  | ldf d a sc imm | ldfe d a sc imm | ste d a sc imm | stf d a sc imm =>
    cases he; exact reads_mTag (by decide) (fun w h => by rw [decodeM, h]; rfl) d a sc imm
  | gld d a sz n imm | gst d a sz n imm => cases he; exact reads_mG (by decide) (fun w h => by rw [decodeM, h]; rfl) d a sz n imm
  | vgld d a k n imm | vgst d a k n imm => cases he; exact reads_mVg (by decide) (fun w h => by rw [decodeM, h]; rfl) d a k n imm
  | vggath d a b k n imm | vgscat d a b k n imm =>
    cases he; exact reads_mVgg (by decide) (fun w h => by rw [decodeM, h]; rfl) d a b k n imm
  | pin a b n imm | unpin a b n imm => cases he; exact reads_mPin (by decide) (fun w h => by rw [decodeM, h]; rfl) a b n imm
  | gwb a b n sc imm | ginv a b n sc imm => cases he; exact reads_mWb (by decide) (fun w h => by rw [decodeM, h]; rfl) a b n sc imm
  | tagrd d a imm | tagwr d a imm =>
    cases he; exact ⟨by simp [encM_eq, field_lt_iff], by simp [decodeM, noHint, noSc, mimm, encM_eq, ↓bitVec_eq]⟩
  | amo d a b sz n sc op | cas d a b sz n sc | red d a sz n op | fred d a n ty | samo d a b sz sc op =>
    cases he; exact ⟨by simp [encM_eq, field_lt_iff], by simp [decodeM, noHint, noSc, encM_eq]⟩
  | gpf a l2 n imm => cases he; exact ⟨by simp [encM_eq, field_lt_iff], by simp [bit_eq, decodeM, noSc, mimm, encM_eq, ↓bitVec_eq]⟩
  | rsst d a sz pl off | rvst d a k pl off | rste d a sc pl off =>
    cases he
    exact ⟨by simp [encM_eq, Place.code_eq, field_lt_iff],
      by simp [bit_eq, decodeM, noHint, noSc, placeOf, encM_eq, Place.code_eq, ↓bitVec_eq, ↓fin4_eq]⟩
  | mvst d a k die clus set off =>
    cases he
    exact ⟨by simp [encM_eq, mvst_imm_eq, field_lt_iff],
      by simp [bit_eq, decodeM, noHint, noSc, placeOf, encM_eq, mvst_imm_eq, ↓bitVec_eq, ↓fin4_eq]⟩
  | kmov f => cases f <;> cases he
  | vbcast ty d k z src => cases src <;> cases he
  | _ => cases he

end Sys2Proof
end

section
/-! PROOFS. Decode undoes encode: the obligations (R107 to R112, R117 to R121). -/

namespace Sys2Proof

/-- Settles O1: each slot kind by the case split over its instructions. -/
theorem decodeEncodeScalarEngine : Obligations.DecodeEncodeScalarEngine := by
  refine ⟨fun i w hwf => ⟨fun he => ?_, fun he => ?_, fun he => ?_⟩, fun i w hwf => ⟨fun he => ?_, fun he => ?_⟩⟩
  · exact reads_of_encode_c hwf he
  · exact reads_of_encode_s he
  · exact ⟨(reads_of_encode_cs hwf he true).1, (reads_of_encode_cs hwf he true).2, (reads_of_encode_cs hwf he false).2⟩
  · exact decodeT_of_encode hwf he
  · exact ⟨encode_e_lt he, decodeE_of_encode hwf he⟩

/-- Settles O2: both vector slots share a decoder. -/
theorem decodeEncodeVectorMemory : Obligations.DecodeEncodeVectorMemory := by
  refine ⟨fun i w hwf he => ?_, fun i w _ he => reads_of_encode_m he⟩
  obtain ⟨hlt, hdec⟩ := reads_of_encode_v hwf he
  exact ⟨hlt, hdec, hdec⟩

end Sys2Proof
end

section
/-! PROOFS. Words of the spec, and the decoding of a whole bundle (R106, R107, R116, R123). -/

namespace Sys2Proof

/-! ### The slots of a bundle in order (R123) -/

theorem decodeSlots_mem {b : Nat} {ns : List Nat} {l : List (Nat × Instr)} (h : decodeSlots b ns = .ok l) (n : Nat) (i : Instr) :
    (n, i) ∈ l ↔ n ∈ ns ∧ decodeSlot n (slotWord b n) = .ok i := by
  induction ns generalizing l with
  | nil => cases h; simp
  | cons k ns ih =>
    simp only [decodeSlots] at h
    cases hk : decodeSlot k (slotWord b k) with
    | error e => simp [hk] at h
    | ok j =>
      cases hns : decodeSlots b ns with
      | error e => simp [hk, hns] at h
      | ok l' =>
        simp only [hk, hns, Except.ok.injEq] at h
        subst h
        simp only [List.mem_cons, ih hns, Prod.mk.injEq, or_and_right]
        refine or_congr ⟨?_, ?_⟩ Iff.rfl
        · rintro ⟨rfl, rfl⟩; exact ⟨rfl, hk⟩
        · rintro ⟨rfl, hi⟩; exact ⟨rfl, by simpa [hk, eq_comm] using hi⟩

theorem decodeSlots_numbers {b : Nat} {ns : List Nat} {l : List (Nat × Instr)} (h : decodeSlots b ns = .ok l) : l.map Prod.fst = ns := by
  induction ns generalizing l with
  | nil => cases h; rfl
  | cons k ns ih =>
    simp only [decodeSlots] at h
    cases hk : decodeSlot k (slotWord b k) with
    | error e => simp [hk] at h
    | ok j =>
      cases hns : decodeSlots b ns with
      | error e => simp [hk, hns] at h
      | ok l' =>
        simp only [hk, hns, Except.ok.injEq] at h
        subst h
        simp [ih hns]

theorem decodeSlots_ok {b : Nat} {ns : List Nat} (h : ∀ n ∈ ns, ∃ i, decodeSlot n (slotWord b n) = .ok i) : ∃ l, decodeSlots b ns = .ok l := by
  induction ns with
  | nil => exact ⟨[], rfl⟩
  | cons n ns ih =>
    obtain ⟨i, hi⟩ := h n (by simp)
    obtain ⟨l, hl⟩ := ih fun m hm => h m (by simp [hm])
    exact ⟨(n, i) :: l, by simp [decodeSlots, hi, hl]⟩

/-- The first slot that fails decides. -/
theorem decodeSlots_error {b n : Nat} {e : DecodeErr} {pre post : List Nat} (h : ∀ m ∈ pre, ∃ i, decodeSlot m (slotWord b m) = .ok i)
    (hn : decodeSlot n (slotWord b n) = .error e) : decodeSlots b (pre ++ n :: post) = .error (e, n) := by
  induction pre with
  | nil => simp [decodeSlots, hn]
  | cons m pre ih =>
    obtain ⟨i, hi⟩ := h m (by simp)
    simp [decodeSlots, hi, ih fun k hk => h k (by simp [hk])]

/-! ### Destinations named twice (R116) -/

/-- The two slots name no destination in common but s0 and k0. -/
def Apart (p q : Nat × Instr) : Prop := ∀ r ∈ p.2.dests, r ∈ q.2.dests → r.isNull = true

theorem apart_symm : Std.Symm Apart := ⟨fun _ _ h r hq hp => h r hp hq⟩

theorem destClash_cons (n : Nat) (i : Instr) (l : List (Nat × Instr)) (seen : List RegRef) :
    destClash ((n, i) :: l) seen = if ∃ r ∈ i.dests, r.isNull = false ∧ r ∈ seen then some n
      else destClash l (i.dests.filter (fun r => !r.isNull) ++ seen) := by
  simp [destClash]

theorem apart_of_destClash_none {l : List (Nat × Instr)} {seen : List RegRef} (h : destClash l seen = none) :
    l.Pairwise Apart ∧ ∀ p ∈ l, ∀ r ∈ p.2.dests, r ∈ seen → r.isNull = true := by
  induction l generalizing seen with
  | nil => simp
  | cons p l ih =>
    obtain ⟨n, i⟩ := p
    rw [destClash_cons] at h
    split_ifs at h with hclash
    obtain ⟨hpair, hseen⟩ := ih h
    have hi : ∀ r ∈ i.dests, r ∈ seen → r.isNull = true := fun r hr hs =>
      Bool.eq_true_of_not_eq_false fun hn => hclash ⟨r, hr, hn, hs⟩
    have happart : ∀ q ∈ l, Apart (n, i) q := fun q hq r hr hrq =>
      Bool.eq_true_of_not_eq_false fun hn => by simp [hseen q hq r hrq (by simp [hr, hn])] at hn
    refine ⟨List.pairwise_cons.2 ⟨happart, hpair⟩, fun q hq r hr hs => ?_⟩
    rcases List.mem_cons.1 hq with rfl | hq
    · exact hi r hr hs
    · exact hseen q hq r hr (by simp [hs])

/-- The first slot, in slot-number order, that names a destination of an earlier one or of those seen. -/
theorem destClash_eq_some {l : List (Nat × Instr)} {seen : List RegRef} {n : Nat} {j : Instr} {r : RegRef}
    (hord : l.Pairwise (fun p q => p.1 < q.1)) (hj : (n, j) ∈ l) (hr : r ∈ j.dests) (hnull : r.isNull = false)
    (hclash : r ∈ seen ∨ ∃ p ∈ l, p.1 < n ∧ r ∈ p.2.dests)
    (hseen : ∀ q ∈ l, q.1 < n → ∀ t ∈ q.2.dests, t ∈ seen → t.isNull = true)
    (hfirst : ∀ p ∈ l, ∀ q ∈ l, p.1 < q.1 → q.1 < n → Apart p q) : destClash l seen = some n := by
  induction l generalizing seen with
  | nil => simp at hj
  | cons p l ih =>
    obtain ⟨k, i⟩ := p
    obtain ⟨hk, hord⟩ := List.pairwise_cons.1 hord
    rw [destClash_cons]
    rcases List.mem_cons.1 hj with hj | hj
    · obtain ⟨rfl, rfl⟩ := Prod.mk.inj hj
      rcases hclash with hs | ⟨p, hp, hlt, -⟩
      · rw [if_pos ⟨r, hr, hnull, hs⟩]
      · rcases List.mem_cons.1 hp with rfl | hp
        · exact absurd hlt (lt_irrefl _)
        · exact absurd (hk p hp) hlt.not_gt
    · have hlt : k < n := hk _ hj
      rw [if_neg]
      · refine ih hord hj ?_ ?_ fun p hp q hq => hfirst p (by simp [hp]) q (by simp [hq])
        · rcases hclash with hs | ⟨p, hp, hpn, hrp⟩
          · simp [hs]
          · rcases List.mem_cons.1 hp with rfl | hp
            · simp [show r ∈ i.dests from hrp, hnull]
            · exact .inr ⟨p, hp, hpn, hrp⟩
        · intro q hq hqn t ht hts
          simp only [List.mem_append, List.mem_filter] at hts
          rcases hts with ⟨hti, -⟩ | hts
          · exact hfirst (k, i) (by simp) q (by simp [hq]) (hk q hq) hqn t hti ht
          · exact hseen q (by simp [hq]) hqn t ht hts
      · rintro ⟨t, ht, hn, hs⟩
        simp [hseen (k, i) (by simp) hlt t ht hs] at hn

/-! ### The bundle (R106, R116, R123) -/

/-- The numbers of the seven slots. -/
def slotNumbers : List Nat := [0, 1, 2, 3, 4, 5, 6]

theorem mem_slotNumbers (n : Nat) : n ∈ slotNumbers ↔ n < 7 := by simp [slotNumbers]; omega

theorem decodeBundle_reserved {b : Bundle} (h : fld b.toNat 4 12 ≠ 0) : decodeBundle b = .error (.reservedField, 7) := by
  simp [decodeBundle, h]

theorem decodeBundle_slot_error {b : Bundle} {e : DecodeErr} {n : Nat} (h : fld b.toNat 4 12 = 0)
    (hs : decodeSlots b.toNat slotNumbers = .error (e, n)) : decodeBundle b = .error (e, n) := by
  rw [slotNumbers] at hs
  simp [decodeBundle, h, hs]

theorem decodeBundle_slots {b : Bundle} {l : List (Nat × Instr)} (h : fld b.toNat 4 12 = 0)
    (hs : decodeSlots b.toNat slotNumbers = .ok l) : decodeBundle b =
      match destClash (l.filter (fun p => p.2 != .nop)) [] with
      | some n => .error (.reservedField, n)
      | none => .ok (⟨bit b.toNat 0, bit b.toNat 1, bit b.toNat 2, bit b.toNat 3⟩, l.filter (fun p => p.2 != .nop)) := by
  rw [slotNumbers] at hs
  simp only [decodeBundle, h, hs, bne_self_eq_false, Bool.false_eq_true, if_false] <;> rfl

theorem slots_ordered {b : Nat} {l : List (Nat × Instr)} (hs : decodeSlots b slotNumbers = .ok l) : l.Pairwise (fun p q => p.1 < q.1) := by
  have h : (l.map Prod.fst).Pairwise (· < ·) := by
    rw [decodeSlots_numbers hs]; decide
  exact List.pairwise_map.1 h

theorem mem_used {b : Nat} {l : List (Nat × Instr)} (hs : decodeSlots b slotNumbers = .ok l) (n : Nat) (i : Instr) :
    (n, i) ∈ l.filter (fun p => p.2 != .nop) ↔ n < 7 ∧ i ≠ .nop ∧ decodeSlot n (slotWord b n) = .ok i := by
  rw [List.mem_filter, decodeSlots_mem hs, mem_slotNumbers, bne_iff_ne]
  tauto

theorem decodeBundle_ok {b : Bundle} {f : Flags} {l : List (Nat × Instr)} (h : decodeBundle b = .ok (f, l)) :
    fld b.toNat 4 12 = 0 ∧ f = ⟨bit b.toNat 0, bit b.toNat 1, bit b.toNat 2, bit b.toNat 3⟩
      ∧ (∀ n i, (n, i) ∈ l ↔ n < 7 ∧ i ≠ .nop ∧ decodeSlot n (slotWord b.toNat n) = .ok i)
      ∧ ∀ m n i j r, (m, i) ∈ l → (n, j) ∈ l → m ≠ n → r ∈ i.dests → r ∈ j.dests → r.isNull = true := by
  have hres : fld b.toNat 4 12 = 0 := by
    by_contra hne
    simp [decodeBundle_reserved hne] at h
  cases hs : decodeSlots b.toNat slotNumbers with
  | error e => simp [decodeBundle_slot_error hres (e := e.1) (n := e.2) hs] at h
  | ok l' =>
    rw [decodeBundle_slots hres hs] at h
    cases hd : destClash (l'.filter (fun p => p.2 != .nop)) [] with
    | some n => simp [hd] at h
    | none =>
      simp only [hd, Except.ok.injEq, Prod.mk.injEq] at h
      obtain ⟨rfl, rfl⟩ := h
      refine ⟨hres, rfl, mem_used hs, fun m n i j r hm hn hne hi hj => ?_⟩
      have := apart_symm
      have hapart : Apart (m, i) (n, j) :=
        (apart_of_destClash_none hd).1.forall hm hn fun he => hne (Prod.mk.inj he).1
      exact hapart r hi hj

theorem decodeBundle_first_error {b : Bundle} {n : Nat} {e : DecodeErr} (h : fld b.toNat 4 12 = 0) (hn : n < 7)
    (hpre : ∀ m < n, ∃ i, decodeSlot m (slotWord b.toNat m) = .ok i) (he : decodeSlot n (slotWord b.toNat n) = .error e) :
    decodeBundle b = .error (e, n) := by
  refine decodeBundle_slot_error h ?_
  have hsplit : slotNumbers = List.range n ++ n :: (List.range (6 - n)).map (n + 1 + ·) := by
    interval_cases n <;> rfl
  rw [hsplit]
  exact decodeSlots_error (fun m hm => hpre m (List.mem_range.1 hm)) he

theorem decodeBundle_clash {b : Bundle} {m n : Nat} {i j : Instr} {r : RegRef} (h : fld b.toNat 4 12 = 0)
    (hall : ∀ k < 7, ∃ g, decodeSlot k (slotWord b.toNat k) = .ok g) (hmn : m < n) (hn : n < 7)
    (hi : decodeSlot m (slotWord b.toNat m) = .ok i) (hj : decodeSlot n (slotWord b.toNat n) = .ok j) (hri : r ∈ i.dests)
    (hrj : r ∈ j.dests) (hnull : r.isNull = false)
    (hfirst : ∀ m' n' i' j' r', m' < n' → n' < n → decodeSlot m' (slotWord b.toNat m') = .ok i' →
      decodeSlot n' (slotWord b.toNat n') = .ok j' → r' ∈ i'.dests → r' ∈ j'.dests → r'.isNull = true) :
    decodeBundle b = .error (.reservedField, n) := by
  obtain ⟨l, hs⟩ := decodeSlots_ok fun k hk => hall k ((mem_slotNumbers k).1 hk)
  have hused : ∀ {k g}, k < 7 → decodeSlot k (slotWord b.toNat k) = .ok g → r ∈ g.dests → (k, g) ∈ l.filter (fun p => p.2 != .nop) :=
    fun hk hg hr => (mem_used hs _ _).2 ⟨hk, by rintro rfl; simp [Instr.dests] at hr, hg⟩
  have hclash : destClash (l.filter (fun p => p.2 != .nop)) [] = some n := by
    refine destClash_eq_some ((slots_ordered hs).filter _) (hused hn hj hrj) hrj hnull
      (.inr ⟨(m, i), hused (hmn.trans hn) hi hri, hmn, hri⟩) (by simp) fun p hp q hq hpq hqn t ht htq => ?_
    exact hfirst p.1 q.1 p.2 q.2 t hpq hqn ((mem_used hs _ _).1 hp).2.2 ((mem_used hs _ _).1 hq).2.2 ht htq
  rw [decodeBundle_slots h hs, hclash]

/-- Settles O3: the words are computed, a bundle is decoded slot by slot. -/
theorem wordsAndBundles : Obligations.WordsAndBundles :=
  ⟨⟨rfl, rfl, rfl, rfl, rfl, rfl, rfl⟩, fun _ =>
    ⟨decodeBundle_reserved, fun _ _ => decodeBundle_ok, fun _ _ h hn hpre he => decodeBundle_first_error h hn hpre he,
      fun _ _ _ _ _ h hall hmn hn hi hj hri hrj hnull hfirst => decodeBundle_clash h hall hmn hn hi hj hri hrj hnull hfirst, rfl⟩⟩

end Sys2Proof
end

section
/-! PROOFS. Constant registers, and the landing of results at their distance (R113, R139). -/

namespace Sys2Proof.Machine

variable (r : Regs)

/-! ### Mask registers (R113, R181) -/

theorem Regs.kreg_write_self {d : KReg} (v en : KWord) (h : d ≠ 0) :
    (r.write (.k d v en)).kreg d = (v &&& en) ||| (r.kreg d &&& ~~~en) := by
  simp [Regs.write, Regs.kreg, h]

theorem Regs.kreg_write_ne {d e : KReg} (v en : KWord) (h : e ≠ d) : (r.write (.k d v en)).kreg e = r.kreg e := by
  have hval : d.val ≠ e.val := fun q => h (Fin.ext q.symm)
  by_cases hd : d = 0
  · subst hd; rfl
  · simp [Regs.write, Regs.kreg, hd, Vector.getElem_set_ne _ _ hval]

/-! ### Results in flight (R139) -/

/-- What is in flight does not matter to a write. -/
theorem Regs.write_flight (l : List InFlight) (w : RegWrite) : ({ r with flight := l } : Regs).write w = { r.write w with flight := l } := by
  cases w with
  | s d x => simp only [Regs.write]; split_ifs <;> rfl
  | v d x en => rfl
  | k d x en => simp only [Regs.write]; split_ifs <;> rfl

variable (w w' : RegWrite) (ld : Bool) (n : Nat) (l : List (Nat × Nat × Nat))

theorem Regs.stepFlight_nearer {d : Nat} (h : 1 < d) :
    ({ r with flight := [⟨d, w, ld, n, l⟩] } : Regs).stepFlight = { r with flight := [⟨d - 1, w, ld, n, l⟩] } := by
  simp [Regs.stepFlight, h, Nat.not_le.2 h]

theorem Regs.stepFlight_lands : ({ r with flight := [⟨1, w, ld, n, l⟩] } : Regs).stepFlight = { r.write w with flight := [] } := by
  simp [Regs.stepFlight, Regs.write_flight]

theorem Regs.stepFlight_lands_both :
    ({ r with flight := [⟨1, w, ld, n, l⟩, ⟨1, w', ld, n, l⟩] } : Regs).stepFlight = { (r.write w).write w' with flight := [] } := by
  simp [Regs.stepFlight, Regs.write_flight]

theorem Regs.stepFlight_before {d : Nat} {r : Regs} (hf : r.flight = [⟨d, w, ld, n, l⟩]) :
    ∀ j < d, Regs.stepFlight^[j] r = { r with flight := [⟨d - j, w, ld, n, l⟩] } := by
  intro j
  induction j with
  | zero => intro _; rw [Function.iterate_zero_apply, Nat.sub_zero, ← hf]
  | succ j ih =>
    intro hj
    rw [Function.iterate_succ_apply', ih (by omega), Regs.stepFlight_nearer r w ld n l (by omega), Nat.sub_sub]

theorem Regs.stepFlight_at {d : Nat} {r : Regs} (hd : 1 ≤ d) (hf : r.flight = [⟨d, w, ld, n, l⟩]) :
    Regs.stepFlight^[d] r = { r.write w with flight := [] } := by
  obtain ⟨k, rfl⟩ := Nat.exists_eq_add_of_le' hd
  rw [Function.iterate_succ_apply', Regs.stepFlight_before w ld n l hf k (by omega), Nat.add_sub_cancel_left]
  exact r.stepFlight_lands w ld n l

/-- Settles O9: the constants by the write's cases, the landing by induction on the steps. -/
theorem registersAndResults : Obligations.RegistersAndResults :=
  ⟨fun r v m en => ⟨r.sreg_zero, r.kreg_zero, r.write_s_zero v, r.write_k_zero m en, fun _ hd => r.sreg_write_self v hd,
      fun _ _ he => r.sreg_write_ne v he, fun _ hd => r.kreg_write_self m en hd, fun _ _ he => r.kreg_write_ne m en he⟩,
    fun r w ld _ hd n l hf => ⟨Regs.stepFlight_before w ld n l hf, Regs.stepFlight_at w ld n l hd hf,
      fun w' => r.stepFlight_lands_both w w' ld n l⟩⟩

end Sys2Proof.Machine
end

section
/-! PROOFS. NOP and the header flags (R106, R107, R134, R253, R413, R426). -/

namespace Sys2Proof.Machine

theorem State.SameElsewhere.iss_eq {s t : State} (h : s.SameElsewhere t) : t.iss = s.iss := by rw [h.1]

theorem State.SameElsewhere.trans {s t u : State} (h : s.SameElsewhere t) (k : t.SameElsewhere u) : s.SameElsewhere u := by
  have hiss := h.iss_eq
  obtain ⟨ht, hcores, hown, hctx⟩ := h
  obtain ⟨hu, kcores, kown, kctx⟩ := k
  rw [hiss] at kcores kown kctx
  refine ⟨by rw [hu, ht], fun c hc => (kcores c hc).trans (hcores c hc), by rw [kown, hown], fun x hx => (kctx x hx).trans (hctx x hx)⟩

variable (s : State)

/-! ### What the flags do to the issuing context -/

theorem State.yieldPrimary_iss (c x : Nat) : (s.yieldPrimary c x).iss = s.iss := by
  simp only [State.yieldPrimary]
  split_ifs <;> rfl

theorem State.yieldPrimary_cx (c x : Nat) : (s.yieldPrimary c x).cx = s.cx := by
  rw [State.cx, State.yieldPrimary_ctx, State.yieldPrimary_iss, State.cx]

theorem State.quenchHere_cx : s.quenchHere.cx = { s.cx with quench := some (max s.iss.serial (s.cx.quench.getD 0)) } := s.cx_modCx _

theorem isNone_eq_false {α : Type} {o : Option α} (h : o ≠ none) : o.isNone = false := by
  rw [Option.isNone_eq_false_iff, Option.isSome_iff_ne_none]
  exact h

theorem nop_does : Does s .nop s := perform_acts (act := id) s

theorem quenchPoint_does : Does s .quenchPoint s.quenchHere := perform_acts s

theorem restartMark_does (htile : s.tile = none) (hmark2 : s.cx.mark2 = none) (hmark : s.cx.markAt = none) :
    Does s .restartMark (s.quenchHere.modCx (fun k => { k with markAt := some s.iss.serial })) := fun hi => by
  change execRestartMark s = _
  simp only [execRestartMark, htile, hmark2, hmark]
  exact perform_acts s hi

theorem restartMark_holds (htile : s.tile = none) (h : s.cx.mark2 ≠ none ∨ s.cx.markAt ≠ none) : Holds s .restartMark := fun ht => by
  have hwait : (s.cx.mark2.isNone && s.cx.markAt.isNone) = false := by
    rw [Bool.and_eq_false_iff]
    exact h.imp isNone_eq_false isNone_eq_false
  change execRestartMark s = _
  simp only [execRestartMark, htile, hwait]
  exact perform_hold s ht

/-- The context at a boundary point: one that leads its half passes the lead on (R134). -/
def State.yielded (s : State) : State :=
  let t := s.modCx (fun k => { k with boundary := true })
  if s.cc.lead (s.half s.iss.core s.iss.ctx) = s.iss.ctx then t.yieldPrimary s.iss.core s.iss.ctx else t

theorem State.yielded_cx : s.yielded.cx = { s.cx with boundary := true } := by
  unfold State.yielded
  dsimp only
  split_ifs
  · rw [State.yieldPrimary_cx, State.cx_modCx]
  · rw [State.cx_modCx]

theorem yield_does : Does s .yield s.yielded := perform_acts (act := State.yielded) s

/-- The context halted at the end of its task. -/
def State.taskEnded (s : State) : State :=
  (s.quenchHere.modCx (fun k => { k with status := .halted, why := .ended, r := { k.r with ls := [] } })).yieldPrimary s.iss.core s.iss.ctx

theorem State.taskEnded_cx : s.taskEnded.cx = { s.cx with
    quench := some (max s.iss.serial (s.cx.quench.getD 0)), status := .halted, why := .ended, r := { s.cx.r with ls := [] } } := by
  rw [State.taskEnded, State.yieldPrimary_cx, State.cx_modCx, State.quenchHere_cx]

theorem endOfTask_does (htile : s.tile = none) : Does s .endOfTask s.taskEnded := fun hi => by
  change execEndOfTask s = _
  simp only [execEndOfTask, htile]
  exact perform_acts s hi

/-- A mark is no part of an open tile (R413). -/
theorem restartMark_traps (htile : s.tile ≠ none) : Traps s .restartMark (s.mxTrap 0x0D) := fun ht => by
  change execRestartMark s = _
  simp only [execRestartMark, isNone_eq_false htile]
  exact perform_trap s ht

/-- The last bundle of a task is no part of an open tile (R426). -/
theorem endOfTask_traps (htile : s.tile ≠ none) : Traps s .endOfTask (s.mxTrap 0x0D) := fun ht => by
  change execEndOfTask s = _
  simp only [execEndOfTask, isNone_eq_false htile]
  exact perform_trap s ht

/-- Settles O41, flag by flag. -/
theorem headerFlags : Obligations.HeaderFlags := fun s =>
  ⟨nop_does s, ⟨_, quenchPoint_does s, s.quenchHere_cx, s.sameElsewhere_modCx _⟩,
    fun htile => ⟨restartMark_traps s htile, endOfTask_traps s htile⟩, restartMark_holds s,
    fun htile hmark2 hmark => ⟨_, restartMark_does s htile hmark2 hmark, by rw [State.cx_modCx, State.quenchHere_cx],
      (s.sameElsewhere_modCx _).trans (s.quenchHere.sameElsewhere_modCx _)⟩,
    ⟨_, yield_does s, s.yielded_cx⟩, fun htile => ⟨_, endOfTask_does s htile, s.taskEnded_cx⟩⟩

end Sys2Proof.Machine
end

section
/-! PROOFS. Fetch and decoding of a bundle, and their traps (R101 to R106, R123, R153). -/

namespace Sys2Proof.Machine

/-- The issue latch as the fetch unit sets it for a context of a core. -/
def State.fetching (s : State) (c x pos : Nat) : State := { s with iss := { core := c, ctx := x, serial := (s.ctx c x).serial, pos := pos } }

theorem State.fetching_fetch (s : State) (c x pos : Nat) : (s.fetching c x pos).fetch c x = s.fetch c x := rfl

section
variable {s : State} {b : Bundle} {next : Nat} (hfetch : s.fetch s.arg.core s.arg.ctx = .bundle b next)
include hfetch

theorem bundleDecode_decodes {f : Flags} {l : List (Nat × Instr)} (hd : decodeBundle b = .ok (f, l)) :
    ∃ split, exec .bundleDecode s = .next { s with iss :=
      { core := s.arg.core, ctx := s.arg.ctx, serial := (s.ctx s.arg.core s.arg.ctx).serial,
        pos := (s.ctx s.arg.core s.arg.ctx).r.pc.toNat, next := next, slots := l, fmk := f.fmk, fyd := f.fyd, fqp := f.fqp,
        fnd := f.fnd, split := split, valid := true } } := by
  refine ⟨s.vdup s.arg.core s.arg.ctx && l.any (fun p => p.1 = 3) && l.any (fun p => p.1 = 4), ?_⟩
  have hf := hfetch
  rw [← State.fetching_fetch s _ _ (s.ctx s.arg.core s.arg.ctx).r.pc.toNat] at hf
  change execBundleDecode s = _
  rw [State.fetching] at hf
  simp only [execBundleDecode, hf, hd]
  rfl

theorem bundleDecode_traps {e : DecodeErr} {slot : Nat} (hd : decodeBundle b = .error (e, slot)) :
    exec .bundleDecode s = .next ((s.fetching s.arg.core s.arg.ctx (s.ctx s.arg.core s.arg.ctx).r.pc.toNat).trap
      { cause := causeOf e, slot := slot }) := by
  have hf := hfetch
  rw [← State.fetching_fetch s _ _ (s.ctx s.arg.core s.arg.ctx).r.pc.toNat] at hf
  change execBundleDecode s = _
  rw [State.fetching] at hf
  simp only [execBundleDecode, hf, hd]
  rfl
end

theorem bundleDecode_illegal {s : State} {pos addr : Nat} (hfetch : s.fetch s.arg.core s.arg.ctx = .illegal pos addr) :
    exec .bundleDecode s = .next ((s.fetching s.arg.core s.arg.ctx pos).trap { cause := 0x01, addr := addr }) := by
  have hf := hfetch
  rw [← State.fetching_fetch s _ _ (s.ctx s.arg.core s.arg.ctx).r.pc.toNat] at hf
  change execBundleDecode s = _
  rw [State.fetching] at hf
  simp only [execBundleDecode, hf]
  rfl

/-- A position outside the index stream names no bundle (R101, R153, log 20). -/
theorem State.fetch_outside {s : State} {c x : Nat}
    (h : (s.ctx c x).r.pc < 0 ∨ ((s.launch (s.ctx c x).launch).nidx : Int) ≤ (s.ctx c x).r.pc) : s.fetch c x =
      match (s.ctx c x).r.brFrom with
      | some p => .illegal p ((s.ctx c x).r.pc % 2 ^ 64).toNat
      | none => .illegal (s.ctx c x).r.pc.toNat 0 := by
  have hout : (decide ((s.ctx c x).r.pc < 0) || decide (((s.launch (s.ctx c x).launch).nidx : Int) ≤ (s.ctx c x).r.pc)) = true := by
    simpa using h
  simp only [State.fetch, hout, if_true] <;> rfl

/-- Settles O42: what the fetch unit finds decides the step. -/
theorem fetchAndDecode : Obligations.FetchAndDecode := by
  constructor
  · intro s b next k latch hfetch
    refine ⟨fun f l hd => ?_, fun e slot hd => bundleDecode_traps hfetch hd⟩
    obtain ⟨split, h⟩ := bundleDecode_decodes hfetch hd
    exact ⟨_, h, rfl, rfl, rfl, rfl, rfl, rfl, rfl, rfl, rfl, rfl, rfl⟩
  · intro s k l latch hout
    exact ⟨fun hbr => bundleDecode_illegal (by rw [State.fetch_outside hout, hbr]),
      fun p hbr => bundleDecode_illegal (by rw [State.fetch_outside hout, hbr])⟩

end Sys2Proof.Machine
end

section
/-! PROOFS. The frame of TAGWR fails: an RSTE that waits for the word it empties acts at once, and a vector load of another context
sees what that writes (R248, R299, R304). -/

open Sys2Proof Sys2Proof.Machine

namespace Sys2Proof.Machine

/-- TAGWR that no pending register, check or wait keeps from acting writes its tag (R298, R299). -/
theorem execTagwr_acts {s : State} {d a : SReg} {imm : BitVec 24} (hgo : s.iss.go = false) (hst : s.stalled (.tagwr d a imm) = false)
    (hchk : s.tagCheck a imm = none) (hw : s.waitDrain = .go) :
    execTagwr d a imm s = .next (s.tagWrite (s.spEa a imm).toNat 0#64 false (some ((s.rs d).getLsbD 0))) := by
  simp [execTagwr, perform, hgo, hst, hchk, hw]

/-- An RSTE of core 1 that brings the byte 171 to the word at address 1984 of core 0. -/
def rsteForWord : Msg :=
  { id := 7, core := 1, ctx := 0, task := 0, launch := 1, dest := 0, addr := 1984, data := 171#512, be := 255#64, rste := some .core, here := true }

/-- A VLD of 2,048 bytes from address 0, issued one clock ago: its last chunks, among them the one at 1984, are read four clocks from now
(R245). -/
def rowLoad (s : State) : InFlight :=
  { dist := 6, w := .v 1 0#16384 (BitVec.allOnes 16384), ld := true,
    parts := (List.range 32).map (fun i => (i, 64 * i, s.now 0 + 1 + i / 8)) }

/-- Context 0 of core 0 issues; context 1 has a load in flight that reads the full word at 1984, and an RSTE waits for that word in the
remote tag queue. -/
def loadBehindRste : State :=
  let s : State := { State.reset.withFetchWord 48 0 with agenda := [], iss := { clear := true }, msgs := [rsteForWord] }
  (s.modCtx 0 1 (fun k => { k with r := { k.r with flight := [rowLoad s] } })).modCore 0 (fun k =>
    { k with rtq := [7], sp := { k.sp with full := [1984] } })

/-- The word at address 1984 is turned empty (R298). -/
def wordEmptied : State := loadBehindRste.tagWrite 1984 0#64 false (some false)

theorem tagwr_empties_word : exec (.tagwr 0 0 1984) loadBehindRste = .next wordEmptied := by
  have hea : loadBehindRste.spEa 0 1984 = 1984 := by decide +kernel
  have hbit : (loadBehindRste.rs 0).getLsbD 0 = false := by decide +kernel
  have h := execTagwr_acts (s := loadBehindRste) (d := 0) (a := 0) (imm := 1984) (by decide +kernel) (by decide +kernel) (by decide +kernel)
    (by decide +kernel)
  rw [hea, hbit] at h
  exact h

/-- The load of context 1 had 0 for the bytes of its chunk 31, and has 171 there once the RSTE has acted (R248, R304). -/
theorem load_of_other_context_changes : wordEmptied.ctx 0 1 ≠ loadBehindRste.ctx 0 1 := by
  have hbefore : (loadBehindRste.ctx 0 1).r.flight.map (·.w) = [.v 1 0#16384 (BitVec.allOnes 16384)] := by decide +kernel
  have hafter : (wordEmptied.ctx 0 1).r.flight.map (·.w) = [.v 1 (171#16384 <<< (512 * 31)) (BitVec.allOnes 16384)] := by decide +kernel
  intro h
  rw [h, hbefore] at hafter
  exact absurd hafter (by decide +kernel)

/-- Refutes O59: TAGWR is not among `Instr.writesWord`, yet as it empties a word for which an RSTE waits, the RSTE acts at t + 2, and a
vector load of another context of the core that reads the word later takes the bytes it writes. -/
theorem not_slotInstructionFrame : ¬ Obligations.SlotInstructionFrame := by
  intro h
  obtain ⟨-, -, hframe⟩ := h (.tagwr 0 0 1984) loadBehindRste wordEmptied (by decide) tagwr_empties_word
  obtain ⟨-, -, hsame⟩ := hframe 0 1 (Or.inr (by decide +kernel))
  exact load_of_other_context_changes (hsame rfl)

end Sys2Proof.Machine
end

section
/-! PROOFS. Instructions whose checks and waits are known, and the scalar arithmetic (R140, R146, R165). -/

namespace Sys2Proof.Machine

section
variable {s : State} {i : Instr} {w : Wait} {act : State → State} {t : Trap}

/-! ### What an instruction does whose check and wait are known (R146) -/

theorem perform_does (he : exec i s = perform i none .go act s) : Does s i (act s) := fun hi => by
  rw [he]
  exact perform_acts s hi

theorem perform_holds (he : exec i s = perform i none .hold act s) : Holds s i := fun ht => by
  rw [he]
  exact perform_hold s ht

theorem perform_check_traps (he : exec i s = perform i (some t) w act s) : Traps s i t := fun ht => by
  rw [he]
  exact perform_trap s ht

theorem perform_wait_traps (he : exec i s = perform i none (.trap t) act s) : Traps s i t := fun ht => by
  rw [he]
  simp [perform, ht.1, ht.2]

/-- An instruction with one scalar result is held back by pending registers alone. -/
theorem alu_gives {dist : Nat} {d : SReg} {f : State → Dword} {v : Dword} (he : exec i s = alu i dist d f s) (hv : f s = v := by rfl) :
    GivesS s i dist d v := by
  subst hv
  exact perform_does he

end

/-- Settles O11: each operation is one scalar result at distance 1. -/
theorem scalarArithmetic : Obligations.ScalarArithmetic := fun _ _ _ _ _ _ =>
  ⟨⟨alu_gives (execAdd.eq_def ..), alu_gives (execSub.eq_def ..), alu_gives (execAddi.eq_def ..)⟩,
    ⟨alu_gives (execAnd.eq_def ..), alu_gives (execOr.eq_def ..), alu_gives (execXor.eq_def ..)⟩,
    ⟨alu_gives (execAndi.eq_def ..), alu_gives (execOri.eq_def ..), alu_gives (execXori.eq_def ..)⟩,
    ⟨alu_gives (execShl.eq_def ..), alu_gives (execShr.eq_def ..), alu_gives (execSra.eq_def ..)⟩,
    ⟨alu_gives (execShli.eq_def ..), alu_gives (execShri.eq_def ..), alu_gives (execSrai.eq_def ..)⟩,
    rfl, rfl, rfl, rfl, rfl, rfl, rfl, rfl, rfl, rfl, rfl, rfl, rfl, rfl, rfl⟩

end Sys2Proof.Machine
end

section
/-! PROOFS. Ring handles (R143, R144, R175 to R178). -/

namespace Sys2Proof.Machine

section
variable {s : State} {h : HReg} {a : SReg}

/-! ### The waits of a ring handle (R144) -/

theorem ringWait_go {c : Bool} (hc : c = true) : s.ringWait c = .go := if_pos hc

theorem ringWait_hold {c : Bool} (hc : c = false) (hx : s.exposed = false) : s.ringWait c = .hold := by
  simp [State.ringWait, hc, hx]

theorem ringWait_trap {c : Bool} (hc : c = false) (hx : s.exposed = true) : s.ringWait c = .trap ringTrap := by
  simp [State.ringWait, hc, hx]

/-- An instruction whose ring condition fails waits, and in exposed mode traps. -/
theorem ring_stops {i : Instr} {c : Bool} {act : State → State} (he : exec i s = perform i none (s.ringWait c) act s) (hc : c = false) :
    if s.exposed then Traps s i { cause := 0x09 } else Holds s i := by
  split
  case isTrue hx => exact perform_wait_traps (act := act) (by rw [he, ringWait_trap hc hx]; rfl)
  case isFalse hx => exact perform_holds (act := act) (by rw [he, ringWait_hold hc (Bool.eq_false_of_not_eq_true hx)])

/-! ### HSET (R175) -/

theorem exec_hset_reserved (heng : (s.rh h).eng ≠ 0) : exec (.hset h a) s = perform (.hset h a) none (s.ringWait false)
    (fun s => s.effect (.ringSet h (Ring.ofLow (s.rs a).toNat))) s := by
  change execHset h a s = _
  rw [execHset, decide_eq_false heng]
  cases hx : s.exposed
  · rw [ringWait_hold rfl hx]; rfl
  · rw [ringWait_trap rfl hx]; rfl

theorem exec_hset_unreserved (heng : (s.rh h).eng = 0) : exec (.hset h a) s = perform (.hset h a) none
    (if Ring.valid (s.rs a).toNat then .go else .trap { cause := 0x04 })
    (fun s => s.effect (.ringSet h (Ring.ofLow (s.rs a).toNat))) s := by
  change execHset h a s = _
  rw [execHset, ringWait_go (decide_eq_true heng), Wait.go_and]

/-! ### Numbers of slots (R176, R178) -/

/-- n is a number of slots of a set handle. -/
def Ring.inRange (r : Ring) (n : ℤ) : Bool := r.v && 0 ≤ n && n ≤ r.c

theorem Ring.inRange_eq_true {r : Ring} {n : ℤ} (hv : r.v = true) (h0 : 0 ≤ n) (hn : n ≤ (r.cnt + 1 : ℕ)) : r.inRange n = true := by
  simpa [Ring.inRange, Ring.c, hv, h0] using hn

theorem Ring.inRange_eq_false {r : Ring} {n : ℤ} (h : r.v = false ∨ n < 0 ∨ (r.cnt + 1 : ℕ) < n) : r.inRange n = false := by
  rcases h with hv | h0 | hn
  · simp [Ring.inRange, hv]
  · simp [Ring.inRange, h0]
  · simpa [Ring.inRange, Ring.c] using fun _ _ => hn

/-! ### HADVF and HADVC (R144, R176) -/

section
variable {i : Instr} {n : ℤ} {c : Bool} {act : State → State}
  (he : exec i s = perform i (need ((s.rh h).inRange n) ringTrap) (if n = 0 then .go else s.ringWait c) act s)
include he

theorem advance_traps (hr : (s.rh h).inRange n = false) : Traps s i { cause := 0x09 } :=
  perform_check_traps (t := ringTrap) (by rw [he, hr, need_false])

theorem advance_does (hr : (s.rh h).inRange n = true) (hc : n = 0 ∨ c = true) : Does s i (act s) := by
  have hgo : (if n = 0 then .go else s.ringWait c) = .go := by
    rcases hc with hn | hc
    · exact if_pos hn
    · rw [ringWait_go hc, ite_self]
  exact perform_does (by rw [he, hr, need_true, hgo])

theorem advance_stops (hr : (s.rh h).inRange n = true) (hn : n ≠ 0) (hc : c = false) :
    if s.exposed then Traps s i { cause := 0x09 } else Holds s i :=
  ring_stops (act := act) (by rw [he, hr, need_true, if_neg hn]) hc

end

section
variable (s h a)

theorem exec_hadvf (imm : BitVec 28) : exec (.hadvf h a imm) s = perform (.hadvf h a imm)
    (need ((s.rh h).inRange (s.advance a imm)) ringTrap)
    (if s.advance a imm = 0 then .go else s.ringWait ((s.rh h).eng = 0 && (s.rh h).fill + s.advance a imm ≤ (s.rh h).c))
    (fun s => s.effect (.ring h (s.advance a imm) 0 0)) s := rfl

theorem exec_hadvc (imm : BitVec 28) : exec (.hadvc h a imm) s = perform (.hadvc h a imm)
    (need ((s.rh h).inRange (s.advance a imm)) ringTrap)
    (if s.advance a imm = 0 then .go else s.ringWait (s.advance a imm ≤ (s.rh h).fill))
    (fun s => s.effect (.ring h (-s.advance a imm) (s.advance a imm) 0)) s := rfl

/-! ### HQRY and HWAIT (R177, R178) -/

theorem exec_hwait (n : BitVec 27) (free : Bool) : exec (.hwait h a n free) s = perform (.hwait h a n free)
    (need ((s.rh h).inRange ((s.rs a).toInt + n.toNat)) ringTrap)
    (waitFor (if free then (s.rs a).toInt + n.toNat ≤ (s.rh h).room else (s.rs a).toInt + n.toNat ≤ (s.rh h).fill)) id s := rfl

end

theorem Ring.query_eq (r : Ring) (sel : Fin 8) : r.query sel.val = if r.v = false then 0 else match sel with
    | 0 => r.fill
    | 1 => r.cp
    | 2 => r.eng
    | 3 => r.fp
    | 4 => (r.room % 2 ^ 64).toNat
    | 5 => r.slotAddr r.cp
    | 6 => r.slotAddr r.fp
    | 7 => r.low := by
  cases hv : r.v
  · simp [Ring.query, hv]
  · fin_cases sel <;> simp [Ring.query, hv]

end

/-- Settles O19: each instruction by its check of the number of slots and by its ring condition. -/
theorem ringHandles : Obligations.RingHandles := by
  intro s h d a imm n sel free r k m slots
  refine ⟨fun heng hv => perform_does (by rw [exec_hset_unreserved heng, hv]; rfl),
    fun heng hv => perform_wait_traps (by rw [exec_hset_unreserved heng, hv]; rfl),
    fun heng hx => ?_, fun heng hx => ?_, fun hbad => ?_, fun hv h0 hk => ?_, ?_, fun hbad => ?_, fun hv h0 hm => ?_⟩
  · simpa [hx] using ring_stops (exec_hset_reserved heng) rfl
  · simpa [hx] using ring_stops (exec_hset_reserved heng) rfl
  · have hr : r.inRange k = false := Ring.inRange_eq_false hbad
    exact ⟨advance_traps (exec_hadvf s h a imm) hr, advance_traps (exec_hadvc s h a imm) hr⟩
  · have hr : r.inRange k = true := Ring.inRange_eq_true hv h0 hk
    have hroom : (decide (r.eng = 0) && decide (r.fill + k ≤ r.c)) = true ↔ r.eng = 0 ∧ r.fill + k ≤ slots := by
      rw [Bool.and_eq_true, decide_eq_true_eq, decide_eq_true_eq]
      rfl
    exact ⟨fun hc => advance_does (exec_hadvf s h a imm) hr (hc.imp_right hroom.2),
      fun hne hc => advance_stops (exec_hadvf s h a imm) hr hne (Bool.eq_false_iff.2 (mt hroom.1 hc)),
      fun hc => advance_does (exec_hadvc s h a imm) hr (hc.imp_right decide_eq_true),
      fun hne hc => advance_stops (exec_hadvc s h a imm) hr hne (decide_eq_false hc)⟩
  · have hq : GivesS s (.hqry d h sel) 1 d (BitVec.ofNat 64 (r.query sel.val)) := alu_gives (execHqry.eq_def ..)
    rw [Ring.query_eq, apply_ite (BitVec.ofNat 64)] at hq
    exact hq
  · have hr : r.inRange m = false := Ring.inRange_eq_false hbad
    exact perform_check_traps (t := ringTrap) (by rw [exec_hwait, hr, need_false])
  · have hr : r.inRange m = true := Ring.inRange_eq_true hv h0 hm
    have hwait : (if free then decide (m ≤ r.room) else decide (m ≤ r.fill)) = true ↔
        if free then m ≤ (slots : ℤ) - r.fill - r.eng else m ≤ r.fill := by
      cases free <;> exact decide_eq_true_iff
    exact ⟨fun hc => perform_does (act := id) (by rw [exec_hwait, hr, need_true, hwait.2 hc, waitFor_true]),
      fun hc => perform_holds (act := id) (by rw [exec_hwait, hr, need_true, Bool.eq_false_iff.2 (mt hwait.1 hc), waitFor_false])⟩

end Sys2Proof.Machine
end

section
/-! PROOFS. The sequencer's boundary tests, and the effects of a bundle on the registers (R133, R145, R152, R155, R161, R163, R175,
R372). -/

namespace Sys2Proof.Machine

namespace State

/-! ### The boundary tests (R133) -/

section
variable (s : State) (c x t : Nat) (rd : Nat → Nat → Nat) (e : LoopEntry) (rest : List LoopEntry) {q : Seq}

theorem boundaries_nil (q : Seq) : s.boundaries c x t rd [] q = { q with ls := [] } := rfl

/-- A position that ends no body is no boundary. -/
theorem boundaries_inside (h : q.next ≠ e.stop) : s.boundaries c x t rd (e :: rest) q = { q with ls := e :: rest } := by
  rw [boundaries, if_pos (bne_iff_ne.2 h)]

/-- What the sequencer holds once it has met the end of a body without a skip map. -/
def crossed (q : Seq) : Seq := Seq.read { q with cross := true } s c x t e.map (e.idx + 1) q.words q.words

theorem crossed_next (q : Seq) : (s.crossed c x t e q).next = q.next ∧ (s.crossed c x t e q).cross = true := ⟨rfl, rfl⟩

theorem boundaries_again (h : q.next = e.stop) (hsk : e.sk = false) (hidx : e.idx + 1 < e.cnt) :
    s.boundaries c x t rd (e :: rest) q = { s.crossed c x t e q with ls := { e with idx := e.idx + 1 } :: rest, next := e.start } := by
  rw [boundaries, if_neg (by simpa using h)]
  simp [hsk, hidx, crossed]

theorem boundaries_leaves (h : q.next = e.stop) (hsk : e.sk = false) (hidx : e.cnt ≤ e.idx + 1) :
    s.boundaries c x t rd (e :: rest) q = s.boundaries c x t rd rest (s.crossed c x t e q) := by
  rw [boundaries, if_neg (by simpa using h)]
  simp [hsk, Nat.not_lt.2 hidx, crossed]

/-- With no body that ends at its position a bundle keeps its loop stack. -/
theorem boundaries_none {ls : List LoopEntry} (h : ∀ e rest, ls = e :: rest → q.next ≠ e.stop) :
    s.boundaries c x t rd ls q = { q with ls := ls } := by
  cases ls with
  | nil => exact s.boundaries_nil c x t rd q
  | cons e rest => exact s.boundaries_inside c x t rd e rest (h e rest rfl)

end

/-- A bundle that does not end its task makes the boundary tests at the position it goes to, its branch's target or the one after it,
on the stack that its effects leave. -/
theorem sequencer_tests (t b : State) (h : t.iss.fnd = false) : ∃ rd words, t.sequencer b =
    b.boundaries t.iss.core t.iss.ctx (t.now t.iss.core) rd (stackOf t.iss.effects t.cx.r.ls)
      { ls := stackOf t.iss.effects t.cx.r.ls, next := ((branchOf t.iss.effects).map Prod.fst).getD t.iss.next, words := words } := by
  simp only [sequencer, h, Bool.false_eq_true, if_false]
  cases branchOf t.iss.effects <;> exact ⟨_, _, rfl⟩

end State

/-- Settles O10: the boundary tests by the stack's innermost entry, the effects by what each of them writes. -/
theorem sequencerAndEffects : Obligations.SequencerAndEffects := by
  refine ⟨?_, fun s c x t rd e rest q hend hsk => ⟨fun hidx => ?_, fun hidx hrest => ?_⟩, ?_⟩
  · intro t b hfnd ls next hin
    obtain ⟨rd, words, hseq⟩ := t.sequencer_tests b hfnd
    have hgoes : ((State.branchOf t.iss.effects).map Prod.fst).getD t.iss.next = next := by
      simp only [next]
      cases State.branchOf t.iss.effects <;> rfl
    rw [hseq, hgoes, b.boundaries_none _ _ _ rd hin]
    exact ⟨rfl, rfl, rfl⟩
  · rw [s.boundaries_again c x t rd e rest hend hsk hidx]
    exact ⟨rfl, rfl, rfl⟩
  · have hnext : (s.crossed c x t e q).next = e.stop := hend
    rw [s.boundaries_leaves c x t rd e rest hend hsk hidx, s.boundaries_none c x t rd]
    · exact ⟨hnext, rfl, rfl⟩
    · rintro g l rfl
      rcases hrest with hnil | ⟨_, _, hcons, hne⟩
      · cases hnil
      · cases hcons
        exact hne
  · intro r h fill cp eng g n b rm ilk v
    refine ⟨?_, ?_, ?_, ?_, rfl, rfl, rfl, rfl, fun e => ?_⟩
    · simp [State.applyEffect]
    · simp [State.applyEffect]
    · simp [State.applyEffect, Ring.c]
    · simp [State.applyEffect]
    · cases e <;> exact ⟨rfl, rfl, rfl⟩

end Sys2Proof.Machine
end

section

/-!
PROOFS. What every instruction and event answers (O8). A slot instruction or header flag goes on: its arm of `exec` is
`perform` or one of the shared operations built on it, and each of those answers a next state. An event may fault where there
is no memory, and no branch of one refuses.
-/

namespace Sys2Proof.Machine

/-- An instruction of a slot of a bundle, or one of its header flags. -/
def Issued (i : Instr) : Prop := (encode i).isSome = true ∨ i ∈ [.restartMark, .yield, .quenchPoint, .endOfTask]

theorem not_issued {i : Instr} (hslot : (encode i).isSome = false)
    (hflag : i ∉ [.restartMark, .yield, .quenchPoint, .endOfTask]) :
    ¬ Issued i := by
  simp only [Issued, hslot, Bool.false_eq_true, hflag, or_self, not_false_eq_true]

/-- The outcome is a next state. -/
def GoesOn (o : Out) : Prop := ∃ t, o = .next t

/-- The outcome is no refusal. -/
def Answers (o : Out) : Prop := ∀ r, o ≠ .refused r

@[simp] theorem answers_next (t : State) : Answers (.next t) := fun _ h => nomatch h

@[simp] theorem answers_fault (f : Fault) : Answers (.fault f) := fun _ h => nomatch h

theorem GoesOn.answers {o : Out} : GoesOn o → Answers o := by
  rintro ⟨t, rfl⟩
  exact answers_next t

/-! ### The shared operations of the slots go on -/

section
variable (i : Instr) (s : State)

theorem perform_goesOn (chk : Option Trap) (w : Wait) (act : State → State) : GoesOn (perform i chk w act s) :=
  perform_next s i chk w act

theorem alu_goesOn (dist : Nat) (d : SReg) (f : State → Dword) : GoesOn (alu i dist d f s) := perform_goesOn ..
theorem fpOp_goesOn (ok : Bool) (d : SReg) (f : State → Nat) : GoesOn (fpOp i ok d f s) := perform_goesOn ..
theorem fpVar_goesOn (ty : Ty) (d : SReg) (f : State → Nat) : GoesOn (fpVar i ty d f s) := perform_goesOn ..
theorem vecOp_goesOn (ok : Bool) (dist : Nat) (w : State → RegWrite) :
    GoesOn (vecOp i ok dist w s) := perform_goesOn ..
theorem vecVar_goesOn (ty : Ty) (ok : Bool) (w : State → RegWrite) : GoesOn (vecVar i ty ok w s) := perform_goesOn ..

theorem rangeForm_goesOn (ea n : Nat) (r : Except Trap Lrt) (hint : Hint) (k : GAddr → EntryKind) :
    GoesOn (s.rangeForm i ea n r hint k) :=
  perform_goesOn ..

theorem wloadRing_goesOn (next : Bool) (row : Nat) (h : HReg) (off : Nat) :
    GoesOn (s.wloadRing i next row h off) := by
  unfold State.wloadRing
  exact perform_goesOn ..

theorem wloadTongs_goesOn (next : Bool) (row : Nat) : GoesOn (s.wloadTongs i next row) := by
  unfold State.wloadTongs
  exact perform_goesOn ..

theorem accum_goesOn (a : Nat) (set : Bool) : GoesOn (s.accum i a set) := by
  unfold State.accum
  exact perform_goesOn ..

theorem drainBeat_goesOn (a : Nat) (clr : Bool) : GoesOn (s.drainBeat i a clr) := by
  unfold State.drainBeat
  exact perform_goesOn ..

theorem copyForm_goesOn (x : Bool) (cmd : CopyCmd) : GoesOn (s.copyForm i x cmd) := by
  unfold State.copyForm
  exact perform_goesOn ..

theorem acquire_goesOn (n : BReg) (b : SReg) (cmp : AcqCmp) (act : SyncAns → Lrt → State → State) :
    GoesOn (s.acquire i n b cmp act) := by
  simp only [State.acquire]
  split <;> exact perform_goesOn ..

end

/-! ### The events, chapter by chapter -/

/-- The events of the bundles and results of a context. -/
def issueEvents : List Instr :=
  [.bundleDecode, .indexLineFill, .dictionaryReread, .splitBundleSecondCycle, .contextPark, .contextUnpark,
   .resultLand, .variableResultLand, .engineProducerPublish, .correctionFreezeEnd, .lockstepMismatch,
   .residueMismatch, .rollbackFetchResume, .markEstablished, .taskEnd]

theorem issueEvents_answer (s : State) : ∀ i ∈ issueEvents, Answers (exec i s) := by
  simp only [issueEvents, List.forall_mem_cons]
  refine ⟨?_, ?_, ?_, ?_, ?_, ?_, ?_, ?_, ?_, ?_, ?_, ?_, ?_, ?_, ?_, List.forall_mem_nil _⟩ <;> dsimp only [exec]
  all_goals simp only [execBundleDecode, execIndexLineFill, execDictionaryReread, execSplitBundleSecondCycle, execContextPark,
    execContextUnpark, execResultLand, execVariableResultLand, execEngineProducerPublish, execCorrectionFreezeEnd,
    execLockstepMismatch, execResidueMismatch, execRollbackFetchResume, execMarkEstablished, execTaskEnd]
  all_goals (repeat' split) <;> simp

/-- The events of the scratchpads and their tiles. -/
def spadEvents : List Instr :=
  [.commitDrain, .scratchpadDrainWrite, .parityDeltaApply, .bankSleep, .bankWake, .parityRebuildRow, .tileComparison,
   .hardyDecision]

theorem spadEvents_answer (s : State) : ∀ i ∈ spadEvents, Answers (exec i s) := by
  simp only [spadEvents, List.forall_mem_cons]
  refine ⟨?_, ?_, ?_, ?_, ?_, ?_, ?_, ?_, List.forall_mem_nil _⟩ <;> dsimp only [exec]
  all_goals simp only [execCommitDrain, execScratchpadDrainWrite, execParityDeltaApply, execBankSleep, execBankWake,
    execParityRebuildRow, execTileComparison, execHardyDecision]
  all_goals (repeat' split) <;> simp

/-- The events of homes and the accesses they answer. -/
def homeEvents : List Instr :=
  [.remoteStoreArrival, .rsteArrival, .homeRequest, .translationWalk, .firstTouchAssign, .homeWriteApply,
   .reductionApply, .writeGrantReturn, .refusalArrival, .migrationRerun, .ackArrival, .spillQueueReturn]

theorem homeEvents_answer (s : State) : ∀ i ∈ homeEvents, Answers (exec i s) := by
  simp only [homeEvents, List.forall_mem_cons]
  refine ⟨?_, ?_, ?_, ?_, ?_, ?_, ?_, ?_, ?_, ?_, ?_, ?_, List.forall_mem_nil _⟩ <;> dsimp only [exec]
  all_goals simp only [execRemoteStoreArrival, execRsteArrival, execHomeRequest, execTranslationWalk, execFirstTouchAssign,
    execHomeWriteApply, execReductionApply, execWriteGrantReturn, execRefusalArrival, execMigrationRerun,
    execAckArrival, execSpillQueueReturn]
  all_goals (repeat' split) <;> simp

/-- The events of synchronisation words, barriers and the launch time. -/
def syncEvents : List Instr :=
  [.syncWordWrite, .promotionRequest, .promotionReply, .barrierComplete, .ltTick, .timestampRebase]

theorem syncEvents_answer (s : State) : ∀ i ∈ syncEvents, Answers (exec i s) := by
  simp only [syncEvents, List.forall_mem_cons]
  refine ⟨?_, ?_, ?_, ?_, ?_, ?_, List.forall_mem_nil _⟩ <;> dsimp only [exec]
  all_goals simp only [execSyncWordWrite, execPromotionRequest, execPromotionReply, execBarrierComplete, execLtTick,
    execTimestampRebase]
  all_goals (repeat' split) <;> simp

/-- The events of copies, messages and links. -/
def transferEvents : List Instr :=
  [.copyAccept, .copyStart, .copyPieceRetry, .copyVerify, .copyComplete, .sendDrain, .lrqRoomGrant, .messageAccept,
   .packetReceive, .wavelengthRetrain, .wavelengthRetrainEnd, .wavelengthPark, .linkDown, .linkReturn,
   .routeTableWrite, .routeEntryEffect]

theorem transferEvents_answer (s : State) : ∀ i ∈ transferEvents, Answers (exec i s) := by
  simp only [transferEvents, List.forall_mem_cons]
  refine ⟨?_, ?_, ?_, ?_, ?_, ?_, ?_, ?_, ?_, ?_, ?_, ?_, ?_, ?_, ?_, ?_, List.forall_mem_nil _⟩ <;> dsimp only [exec]
  all_goals simp only [execCopyAccept, execCopyStart, execCopyPieceRetry, execCopyVerify, execCopyComplete, execSendDrain,
    execLrqRoomGrant, execMessageAccept, execPacketReceive, execWavelengthRetrain, execWavelengthRetrainEnd,
    execWavelengthPark, execLinkDown, execLinkReturn, execRouteTableWrite, execRouteEntryEffect]
  all_goals (repeat' split) <;> simp

/-- The events of cancel tokens and collectives. -/
def collectiveEvents : List Instr :=
  [.cancelTokenArrival, .cstabLoad, .collAccept, .collStepStart, .collMessageArrival, .collStepComplete]

theorem collectiveEvents_answer (s : State) : ∀ i ∈ collectiveEvents, Answers (exec i s) := by
  simp only [collectiveEvents, List.forall_mem_cons]
  refine ⟨?_, ?_, ?_, ?_, ?_, ?_, List.forall_mem_nil _⟩ <;> dsimp only [exec]
  all_goals simp only [execCancelTokenArrival, execCstabLoad, execCollAccept, execCollStepStart, execCollMessageArrival,
    execCollStepComplete]
  all_goals (repeat' split) <;> simp

/-- The events of launches, their tasks and their power. -/
def launchEvents : List Instr :=
  [.deviceLaunchWrite, .queueHeadFetch, .queueHeadReread, .launchQueueService, .portionHandout, .placeTask,
   .preloadWrite, .taskStart, .powerWindow, .grantRecompute, .permitAudit, .permitAuditEnd, .launchComplete,
   .completionRecordWrite]

theorem launchEvents_answer (s : State) : ∀ i ∈ launchEvents, Answers (exec i s) := by
  simp only [launchEvents, List.forall_mem_cons]
  refine ⟨?_, ?_, ?_, ?_, ?_, ?_, ?_, ?_, ?_, ?_, ?_, ?_, ?_, ?_, List.forall_mem_nil _⟩ <;> dsimp only [exec]
  all_goals simp only [execDeviceLaunchWrite, execQueueHeadFetch, execQueueHeadReread, execLaunchQueueService,
    execPortionHandout, execPlaceTask, execPreloadWrite, execTaskStart, execPowerWindow, execGrantRecompute,
    execPermitAudit, execPermitAuditEnd, execLaunchComplete, execCompletionRecordWrite]
  all_goals (repeat' split) <;> simp

/-- The events of preemption, containment and checkpoints. -/
def haltEvents : List Instr :=
  [.faultRecordRemove, .preemptRequest, .debugHalt, .resume, .preemptWindowExpiry, .preemptSave, .launchMove,
   .containmentReset, .spareClusterEnable, .pageMove, .checkpointDrainOpen, .checkpointUnitDrained,
   .checkpointDrainClose, .safeTierFault]

theorem haltEvents_answer (s : State) : ∀ i ∈ haltEvents, Answers (exec i s) := by
  simp only [haltEvents, List.forall_mem_cons]
  refine ⟨?_, ?_, ?_, ?_, ?_, ?_, ?_, ?_, ?_, ?_, ?_, ?_, ?_, ?_, List.forall_mem_nil _⟩ <;> dsimp only [exec]
  all_goals simp only [execFaultRecordRemove, execPreemptRequest, execDebugHalt, execResume, execPreemptWindowExpiry,
    execPreemptSave, execLaunchMove, execContainmentReset, execSpareClusterEnable, execPageMove,
    execCheckpointDrainOpen, execCheckpointUnitDrained, execCheckpointDrainClose, execSafeTierFault]
  all_goals (repeat' split) <;> simp

/-- The events of the management registers. -/
def registerEvents : List Instr :=
  [.packagePowerOnReset, .launchQueueEnable, .launchQueueDisable, .launchQueueNotify, .lqcanset, .lqcanclr, .fqres,
   .htinv, .htinvComplete, .completionRingEnable, .lrqClose, .registerWrite, .hostPortMemoryWrite]

theorem registerEvents_answer (s : State) : ∀ i ∈ registerEvents, Answers (exec i s) := by
  simp only [registerEvents, List.forall_mem_cons]
  refine ⟨?_, ?_, ?_, ?_, ?_, ?_, ?_, ?_, ?_, ?_, ?_, ?_, ?_, List.forall_mem_nil _⟩ <;> dsimp only [exec]
  all_goals simp only [execPackagePowerOnReset, execLaunchQueueEnable, execLaunchQueueDisable, execLaunchQueueNotify,
    execLqcanset, execLqcanclr, execFqres, execHtinv, execHtinvComplete, execCompletionRingEnable, execLrqClose,
    execRegisterWrite, execHostPortMemoryWrite]
  all_goals (repeat' split) <;> simp

/-! ### Every arm of `exec` -/

/-- What is issued goes on, and an event answers. -/
theorem exec_outcome (i : Instr) (s : State) : GoesOn (exec i s) ∨ ¬ Issued i ∧ Answers (exec i s) := by
  cases i with
  | vadd | vsub | vmul | vfma | vfms | vfnma | vmin | vmax | vabs | vneg | vscalb | vrcp | vrsq | vexp2 | vlog2 | viadd
  | visub | vimul | vimad | vimin | vimax | vand | vor | vxor | vpopc | viabs | vshl | vshr | vsra | vcmp | vclass
  | kand | kor | kxor | knot | kmov | vmov | vsel | vbcast | viota | vperm | vrot | vins | vrsum | vrmax | vrmin
  | virsum | vcvt | vqblk | vdqblk | vpack | vunpk =>
    dsimp only [exec]
    exact .inl (vecOp_goesOn ..)
  | lidx | sysrd | cyc | add | sub | addi | and | or | xor | andi | ori | xori | shl | shr | sra | shli | shri | srai
  | mul | mulh | mulhu | div | divu | rem | remu | min | max | minu | maxu | seq | slt | sltu | sel | clz | ctz | popc
  | li | bfx | bfi | fcvt | hqry | kpopc | vextr =>
    dsimp only [exec]
    exact .inl (alu_goesOn ..)
  | fadd | fsub | fmul | ffma | fmin | fmax | fcmp =>
    dsimp only [exec]
    exact .inl (fpOp_goesOn ..)
  | fdiv | fsqrt =>
    dsimp only [exec]
    exact .inl (fpVar_goesOn ..)
  | vdiv | vsqrt =>
    dsimp only [exec]
    exact .inl (vecVar_goesOn ..)
  | pin | unpin =>
    dsimp only [exec]
    exact .inl (rangeForm_goesOn ..)
  | wload | wloadNxt =>
    dsimp only [exec]
    exact .inl (wloadRing_goesOn ..)
  | accum | accumSet =>
    dsimp only [exec]
    exact .inl (accum_goesOn ..)
  | drain | drainClr =>
    dsimp only [exec]
    exact .inl (drainBeat_goesOn ..)
  | cpy | cpyx =>
    dsimp only [exec]
    exact .inl (copyForm_goesOn ..)
  | acq | acqp =>
    dsimp only [exec]
    exact .inl (acquire_goesOn ..)
  | gwb | ginv =>
    dsimp only [exec, execGwb, execGinv]
    exact .inl (rangeForm_goesOn ..)
  | wloadTongs | wloadNxtTongs =>
    dsimp only [exec, execWloadTongs, execWloadNxtTongs]
    split
    · exact .inl (wloadTongs_goesOn ..)
    · exact .inl (wloadRing_goesOn ..)
  | brc | call | loop | loopi | syswr | sld | vsld | vsst | vslds | vssts | vsgath | vsscat | ldfe | ste | stf | tagwr
  | samo | tswap | fence | bara | cancel | pwrq | yield | endOfTask | nop | br | ret | jmpi | lexit | trap | hwait | sst
  | ldf | tagrd | cpq | tlrd | bind | unbind | wack | barw | mregw | mregr | coll | cstab | restartMark | quenchPoint
  | tclose =>
    dsimp only [exec]
    exact .inl (perform_goesOn ..)
  | fpmode | vcvtsr | vhld | vhst | rvst | mvst | rste | gld | gst | vgld | vgst | vggath | vgscat | amo | cas | red
  | fred | afeed | tzero | launch | hset | hadvf | hadvc | rsst | tlwait | tladv | rel | send | bown | brel | gpf | bar
  | recv =>
    dsimp only [exec, execFpmode, execVcvtsr, execVhld, execVhst, execRvst, execMvst, execRste, execGld, execGst,
      execVgld, execVgst, execVggath, execVgscat, execAmo, execCas, execRed, execFred, execAfeed, execTzero, execLaunch, execHset, execHadvf,
      execHadvc, execRsst, execTlwait, execTladv, execRel, execSend, execBown, execBrel, execGpf, execBar, execRecv]
    exact .inl (perform_goesOn ..)
  | bundleDecode | indexLineFill | dictionaryReread | splitBundleSecondCycle | contextPark | contextUnpark
  | resultLand | variableResultLand | engineProducerPublish | correctionFreezeEnd | lockstepMismatch | residueMismatch
  | rollbackFetchResume | markEstablished | taskEnd =>
    exact .inr ⟨not_issued rfl (by simp), issueEvents_answer s _ (by simp [issueEvents])⟩
  | commitDrain | scratchpadDrainWrite | parityDeltaApply | bankSleep | bankWake | parityRebuildRow | tileComparison
  | hardyDecision =>
    exact .inr ⟨not_issued rfl (by simp), spadEvents_answer s _ (by simp [spadEvents])⟩
  | remoteStoreArrival | rsteArrival | homeRequest | translationWalk | firstTouchAssign | homeWriteApply
  | reductionApply | writeGrantReturn | refusalArrival | migrationRerun | ackArrival | spillQueueReturn =>
    exact .inr ⟨not_issued rfl (by simp), homeEvents_answer s _ (by simp [homeEvents])⟩
  | syncWordWrite | promotionRequest | promotionReply | barrierComplete | ltTick | timestampRebase =>
    exact .inr ⟨not_issued rfl (by simp), syncEvents_answer s _ (by simp [syncEvents])⟩
  | copyAccept | copyStart | copyPieceRetry | copyVerify | copyComplete | sendDrain | lrqRoomGrant | messageAccept
  | packetReceive | wavelengthRetrain | wavelengthRetrainEnd | wavelengthPark | linkDown | linkReturn
  | routeTableWrite | routeEntryEffect =>
    exact .inr ⟨not_issued rfl (by simp), transferEvents_answer s _ (by simp [transferEvents])⟩
  | cancelTokenArrival | cstabLoad | collAccept | collStepStart | collMessageArrival | collStepComplete =>
    exact .inr ⟨not_issued rfl (by simp), collectiveEvents_answer s _ (by simp [collectiveEvents])⟩
  | deviceLaunchWrite | queueHeadFetch | queueHeadReread | launchQueueService | portionHandout | placeTask
  | preloadWrite | taskStart | powerWindow | grantRecompute | permitAudit | permitAuditEnd | launchComplete
  | completionRecordWrite =>
    exact .inr ⟨not_issued rfl (by simp), launchEvents_answer s _ (by simp [launchEvents])⟩
  | faultRecordRemove | preemptRequest | debugHalt | resume | preemptWindowExpiry | preemptSave | launchMove
  | containmentReset | spareClusterEnable | pageMove | checkpointDrainOpen | checkpointUnitDrained
  | checkpointDrainClose | safeTierFault =>
    exact .inr ⟨not_issued rfl (by simp), haltEvents_answer s _ (by simp [haltEvents])⟩
  | packagePowerOnReset | launchQueueEnable | launchQueueDisable | launchQueueNotify | lqcanset | lqcanclr | fqres
  | htinv | htinvComplete | completionRingEnable | lrqClose | registerWrite | hostPortMemoryWrite =>
    exact .inr ⟨not_issued rfl (by simp), registerEvents_answer s _ (by simp [registerEvents])⟩

/-- Settles O8: the events' answers chapter by chapter, and the shared operations of the slot instructions. -/
theorem everyInstructionAnswers : Obligations.EveryInstructionAnswers := by
  unfold Obligations.EveryInstructionAnswers
  refine ⟨fun i s => ?_, fun i s hi => ?_⟩ <;> rcases exec_outcome i s with hgo | ⟨hev, hans⟩
  · exact hgo.answers
  · exact hans
  · exact hgo
  · exact absurd hi hev

end Sys2Proof.Machine
end

section

/-!
PROOFS. The step that issues a bundle of one slot (O5). The one ready context of the core is tried: its latch as decoding leaves it,
the checks of R146 one by one, then the instruction's effect and what follows it.
-/

namespace Sys2Proof.Machine.State

/-! ### Before the attempt -/

theorem ok_bind_run {α β : Type} (a : α) (f : α → Run β) : ((Except.ok a : Run α) >>= f) = f a := rfl

section
variable (s : State) (c x : Nat)

theorem beforeBundle_of_calm (hcancel : (s.ctx c x).cancelDue = false) (hpre : (s.ctx c x).pre = none) :
    s.beforeBundle c x = s := by
  simp [beforeBundle, preDue, hcancel, hpre]

theorem foldl_beforeBundle_of_calm {l : List Nat}
    (hcalm : ∀ y ∈ l, (s.ctx c y).cancelDue = false ∧ (s.ctx c y).pre = none) :
    l.foldl (fun s y => s.beforeBundle c y) s = s := by
  induction l with
  | nil => rfl
  | cons y l ih =>
    obtain ⟨⟨hcancel, hpre⟩, hl⟩ := List.forall_mem_cons.1 hcalm
    rw [List.foldl_cons, beforeBundle_of_calm s c y hcancel hpre, ih hl]

theorem halfCtxs_of_checked (hsplit : (s.core c).split = false) : s.halfCtxs c 0 = List.range 8 := by
  simp [halfCtxs, hsplit]

theorem choosePrimary_of_ready (hready : (s.ctx c (s.core c).prim0).isReady = true) : s.choosePrimary c 0 = s := by
  simp [choosePrimary, Core.primary, hready]

theorem secondary_eq_none (hsplit : (s.core c).split = false)
    (halone : ∀ y < 8, y ≠ (s.core c).prim0 → (s.ctx c y).isReady = false) : s.secondary c 0 = none := by
  rw [secondary, halfCtxs_of_checked s c hsplit, List.find?_eq_none]
  intro y hy
  by_cases h : y = (s.core c).prim0
  · simp [Core.primary, h]
  · simp [halone y (List.mem_range.1 hy) h]

end

/-! ### The primary noted as its issue opportunity begins -/

/-- A core notes its primary. -/
def noteLead (s : State) (c : Nat) : State := s.modCore c (fun k => { k with lead0 := k.prim0 })

section
variable (s : State) (c : Nat)

theorem noteLead_core : (s.noteLead c).core c = { s.core c with lead0 := (s.core c).prim0 } :=
  core_modCore_self ..

theorem noteLead_ctx (x : Nat) : (s.noteLead c).ctx c x = s.ctx c x := by
  rw [ctx, noteLead_core]
  rfl

theorem noteLead_fetch (x : Nat) : (s.noteLead c).fetch c x = s.fetch c x := by
  simp only [fetch, dictEntry, noteLead_core, noteLead_ctx]
  rfl

theorem noteLead_canTry (x : Nat) : (s.noteLead c).canTry c x = s.canTry c x := by
  simp only [canTry, now, noteLead_core, noteLead_ctx]
  rfl

theorem noteLead_inFlight (x : Nat) : (s.noteLead c).inFlight c x = s.inFlight c x := by
  simp only [inFlight, half, noteLead_core, noteLead_ctx]
  rfl

theorem noteLead_fits (n : Nat) : (s.noteLead c).fits c 0 n = s.fits c 0 n := by
  simp only [fits, noteLead_core]
  rfl

end

/-! ### The table notes whether it holds the bundle -/

section
variable (s : State) (c x : Nat) (held : Bool)

theorem heldByTable_ctx (d y : Nat) : (s.heldByTable c x held).ctx d y = s.ctx d y := by
  refine ctx_modCore_keeps s ?_ c d y
  exact fun _ => rfl

theorem heldByTable_keeps {β : Type} (g : Core → β) (hg : ∀ k sp, g { k with sp := sp } = g k) (d : Nat) :
    g ((s.heldByTable c x held).core d) = g (s.core d) := by
  refine core_modCore_keeps s g ?_ c d
  exact fun k => hg k _

theorem heldByTable_inFlight (d y : Nat) : (s.heldByTable c x held).inFlight d y = s.inFlight d y := by
  have heng (h : Nat) := s.heldByTable_keeps c x held (fun k => k.eng h) (fun _ _ => rfl) d
  have hsplit := s.heldByTable_keeps c x held Core.split (fun _ _ => rfl) d
  simp only [inFlight, half, heng, hsplit, heldByTable_ctx]

end

/-! ### A bundle of one slot decoded -/

/-- The latch as a decoded bundle of one slot without a restart mark leaves it. -/
def oneSlot (s : State) (c x next n : Nat) (i : Instr) (f : Flags) : State :=
  { s with
    arg := { core := c, ctx := x },
    iss := { core := c, ctx := x, serial := (s.ctx c x).serial, pos := (s.ctx c x).r.pc.toNat, next := next, slots := [(n, i)],
             fmk := false, fyd := f.fyd, fqp := f.fqp, fnd := f.fnd, split := false, valid := true } }

theorem bundleDecode_latch {s : State} {b : Bundle} {next : Nat} {f : Flags} {l : List (Nat × Instr)}
    (hfetch : s.fetch s.arg.core s.arg.ctx = .bundle b next) (hdecode : decodeBundle b = .ok (f, l)) :
    exec .bundleDecode s = .next { s with iss :=
      { core := s.arg.core, ctx := s.arg.ctx, serial := (s.ctx s.arg.core s.arg.ctx).serial,
        pos := (s.ctx s.arg.core s.arg.ctx).r.pc.toNat, next := next, slots := l, fmk := f.fmk, fyd := f.fyd, fqp := f.fqp,
        fnd := f.fnd, split := s.vdup s.arg.core s.arg.ctx && l.any (fun p => p.1 = 3) && l.any (fun p => p.1 = 4),
        valid := true } } := by
  rw [← fetching_fetch s _ _ (s.ctx s.arg.core s.arg.ctx).r.pc.toNat, fetching] at hfetch
  change execBundleDecode s = _
  simp only [execBundleDecode, hfetch, hdecode]
  rfl

theorem event_bundleDecode_oneSlot {s : State} {c x next n : Nat} {i : Instr} {f : Flags} {bundle : Bundle}
    (hfetch : s.fetch c x = .bundle bundle next) (hdecode : decodeBundle bundle = .ok (f, [(n, i)])) (hfmk : f.fmk = false) :
    s.event .bundleDecode { core := c, ctx := x } = .ok (s.oneSlot c x next n i f) := by
  have hsplit : (s.vdup c x && [(n, i)].any (fun p => p.1 = 3) && [(n, i)].any (fun p => p.1 = 4)) = false := by
    simp only [List.any_cons, List.any_nil, Bool.or_false, Bool.and_eq_false_iff, decide_eq_false_iff_not]
    omega
  have hexec : exec .bundleDecode { s with arg := { core := c, ctx := x } } = .next (s.oneSlot c x next n i f) := by
    refine (bundleDecode_latch (s := { s with arg := { core := c, ctx := x } }) hfetch hdecode).trans ?_
    erw [hsplit, hfmk]
    rfl
  rw [event, hexec]
  rfl

/-! ### Its checks and its effect -/

/-- State t as instruction i sees the engines: as of the issue of its bundle, of which b is the state before (R116, R378). -/
def seenBy (t b : State) (i : Instr) : State := if seesEngine i then t.withEngines b else t

@[simp] theorem seenBy_iss (t b : State) (i : Instr) : (t.seenBy b i).iss = t.iss := by
  unfold seenBy
  split <;> rfl

theorem trySlots_single {b u : State} {n : Nat} {i : Instr} (hfresh : b.iss.stop = none) (hlate : lateSlot b i = false)
    (hexec : exec i { b.seenBy b i with iss := { b.iss with slot := n } } = .next u) (hgoes : u.iss.stop = none) :
    b.trySlots [(n, i)] b = .ok (u.seenBy b i, []) := by
  have htry : (b.seenBy b i).trySlot n i none = .ok u := by
    rw [trySlot, seenBy_iss, ← hfresh]
    erw [hexec]
    rfl
  rw [seenBy] at htry
  simp only [trySlots, hlate, Bool.false_eq_true, if_false, htry, ok_bind_run, hgoes, seenBy]

theorem swapClash_single (n : Nat) (i : Instr) : swapClash [(n, i)] = false := by
  cases i <;> rfl

/-- State b with no register of its bundle pending, and its bundle not held by the table (R139, R147). -/
def cleared (b : State) : State :=
  { b with iss := { b.iss with clear := true } }.heldByTable b.iss.core b.iss.ctx false

/-- The uses of a bundle of state b, which the table granted the cells, are made in t. -/
def withCells (t b : State) (uses : List Use) (cells : List (Nat × Nat × Nat)) : State :=
  (t.modSp b.iss.core (fun sp => sp.rouseUses (b.now b.iss.core) uses)).modSp b.iss.core (fun sp =>
    cells.foldl (fun sp p => sp.touch p.2.1 p.1)
      { sp with cells := sp.cells ++ cells.map (fun p => { bank := p.1, clk := p.2.1, row := p.2.2, ctx := b.iss.ctx }) })

section
variable {b : State} {n : Nat} {i : Instr} (hslots : b.iss.slots = [(n, i)])
include hslots

/-- The checks of R146 passed, the bundle acts. -/
theorem tryBundle_acts {u v : State} {cells : List (Nat × Nat × Nat)} (hmark : b.iss.fmk = false) (hfresh : b.iss.stop = none)
    (hilk : interlocked b.cx i = false) (hblk : b.cx.blocked i = false)
    (hroom : fixedResults i = 0 ∨ b.inFlight b.iss.core b.iss.ctx + fixedResults i ≤ 64)
    (hlate : lateSlot b.cleared i = false)
    (hexec : exec i { b.cleared.seenBy b.cleared i with iss := { b.cleared.iss with slot := n } } = .next u)
    (hgoes : u.iss.stop = none)
    (hbad : ((u.seenBy b.cleared i).sequencer b.cleared).bad = none)
    (hgrant : (b.cleared.core b.iss.core).sp.grantUses
      (u.iss.uses ++ ((u.seenBy b.cleared i).sequencer b.cleared).uses) [] [] = some cells)
    (hfinish : ((u.seenBy b.cleared i).withCells b.cleared
      (u.iss.uses ++ ((u.seenBy b.cleared i).sequencer b.cleared).uses) cells).finishBundle
        ((u.seenBy b.cleared i).sequencer b.cleared) = .ok v) :
    b.tryBundle = .ok (.acts v b.cleared) := by
  have hheld : ({ b.heldByTable b.iss.core b.iss.ctx false with
      iss := { (b.heldByTable b.iss.core b.iss.ctx false).iss with clear := true } } : State) = b.cleared := rfl
  have hslotsHeld : (b.heldByTable b.iss.core b.iss.ctx false).iss.slots = [(n, i)] := hslots
  have hmarkStop : b.cleared.markStop = .ok [] := by
    have hnone : b.cleared.iss.fmk = false := hmark
    simp only [markStop, hnone, Bool.false_eq_true, if_false]
  have hfits : (decide (0 < fixedResults i)
      && decide (Config.inFlightMax < b.cleared.inFlight b.iss.core b.iss.ctx + fixedResults i)) = false := by
    have hmax : Config.inFlightMax = 64 := rfl
    have hflight : b.cleared.inFlight b.iss.core b.iss.ctx = b.inFlight b.iss.core b.iss.ctx := heldByTable_inFlight ..
    rw [hflight, hmax, Bool.and_eq_false_iff, decide_eq_false_iff_not, decide_eq_false_iff_not]
    omega
  have hslot := trySlots_single (b := b.cleared) hfresh hlate hexec hgoes
  rw [tryBundle]
  simp only [hheld]
  simp only [hslots, hslotsHeld, List.map_cons, List.map_nil, List.any_cons, List.any_nil, hilk, hblk,
    Bool.or_false, Bool.false_eq_true, if_false, List.foldl_cons, List.foldl_nil, Nat.zero_add, hfits, hmarkStop, ok_bind_run,
    hslot, seenBy_iss, List.append_nil, swapClash_single, Bool.false_and, firstStop, List.isEmpty_nil, Bool.not_true, hbad, hgrant]
  exact congrArg (· >>= fun v => (.ok (.acts v b.cleared) : Run Attempt)) hfinish

end

/-! ### The step -/

/-- The one ready context of a core in checked mode issues its bundle alone. -/
theorem issueHalf_alone {s : State} {c : Nat} {v b : State} (hsplit : (s.core c).split = false)
    (hcalm : ∀ y < 8, (s.ctx c y).splitOn = false ∧ (s.ctx c y).cancelDue = false ∧ (s.ctx c y).pre = none)
    (hready : (s.ctx c (s.core c).prim0).isReady = true) (htry : s.canTry c (s.core c).prim0 = true)
    (halone : ∀ y < 8, y ≠ (s.core c).prim0 → (s.ctx c y).isReady = false)
    (hacts : (s.noteLead c).attempt c (s.core c).prim0 = .ok (.acts v b)) (hfits : s.fits c 0 v.bundleCost = true) :
    s.issueHalf c 0 = .ok (v.charge c 0 v.bundleCost) := by
  have hbefore : (List.range 8).foldl (fun s y => s.beforeBundle c y) s = s :=
    foldl_beforeBundle_of_calm _ c fun y hy => (hcalm y (List.mem_range.1 hy)).2
  have hwhole : ((List.range 8).any fun y => (s.ctx c y).splitOn) = false := by
    rw [List.any_eq_false]
    intro y hy
    rw [Bool.not_eq_true]
    exact (hcalm y (List.mem_range.1 hy)).1
  have hhalf : s.halfCtxs c 0 = List.range 8 := halfCtxs_of_checked _ c hsplit
  have hchoose : s.choosePrimary c 0 = s := choosePrimary_of_ready _ c hready
  have hlead : s.modCore c (fun k => if 0 = 1 then { k with lead1 := k.prim1 } else { k with lead0 := k.prim0 }) = s.noteLead c :=
    rfl
  have hprim : ((s.noteLead c).core c).primary 0 = (s.core c).prim0 := by
    rw [noteLead_core]
    rfl
  have hsecond : (s.noteLead c).secondary c 0 = none := by
    apply secondary_eq_none
    · rw [noteLead_core]
      exact hsplit
    · intro y hy hne
      rw [noteLead_core] at hne
      rw [noteLead_ctx]
      exact halone y hy hne
  rw [issueHalf]
  simp only [hhalf, hbefore, hwhole, hchoose, hlead, hprim, hsecond, noteLead_canTry, htry, hacts, ok_bind_run, noteLead_fits,
    hfits, issueBeside, Bool.false_eq_true, if_false, if_true, Bool.not_true]

/-- Settles O5: the context's bundle is decoded, passes its checks and acts, and its power is charged. -/
theorem stepRunsBundle : Obligations.StepRunsBundle := by
  unfold Obligations.StepRunsBundle
  intro s c rest bundle next n i f u v cells x k s0 hagenda hsplit hcalm hready htry halone hfetch hdecode hfmk hilk hblk hroom b
    engines hlate hexec hgoes q hbad hgrant hfinish hfits
  have hctx : s0.ctx c x = k := noteLead_ctx { s with agenda := rest } c x
  have hfetchLead : s0.fetch c x = .bundle bundle next := (noteLead_fetch { s with agenda := rest } c x).trans hfetch
  have hflight : (s0.oneSlot c x next n i f).inFlight c x = s.inFlight c x := noteLead_inFlight { s with agenda := rest } c x
  have hlatch : b = (s0.oneSlot c x next n i f).cleared := by
    simp only [oneSlot, hctx]
    rfl
  clear_value b
  subst hlatch
  have hcx : (s0.oneSlot c x next n i f).cx = k := hctx
  have htried := tryBundle_acts (b := s0.oneSlot c x next n i f) rfl rfl rfl (hcx ▸ hilk) (hcx ▸ hblk) (hflight ▸ hroom)
    hlate hexec hgoes hbad hgrant hfinish
  have hattempt : s0.attempt c x = (s0.oneSlot c x next n i f).tryBundle := by
    rw [attempt, event_bundleDecode_oneSlot hfetchLead hdecode hfmk, ok_bind_run]
    rfl
  have hrun := issueHalf_alone (s := { s with agenda := rest }) hsplit hcalm hready htry halone (hattempt.trans htried) hfits
  rw [step, moveNext, hagenda]
  change (issueHalf _ c 0).out = _
  rw [hrun]
  rfl

end Sys2Proof.Machine.State
end

section

/-!
PROOFS. What a trap and a rollback change and leave (O60): each of their parts changes one context of a core and nothing of any other,
and no scratchpad.
-/

namespace Sys2Proof.Machine

/-! ### Changes of one context -/

/-- t has the scratchpads of s and its contexts but for context x of core c. -/
structure State.Local (s : State) (c x : Nat) (t : State) : Prop where
  sp : ∀ d, (t.core d).sp = (s.core d).sp
  ctx : ∀ d y, d ≠ c ∨ y ≠ x → t.ctx d y = s.ctx d y

namespace State.Local
variable {s t u : State} {c x : Nat}

theorem of_core (h : ∀ d, t.core d = s.core d) : s.Local c x t :=
  ⟨fun d => by rw [h], fun d y _ => by rw [State.ctx, h, State.ctx]⟩

theorem of_cores (h : t.cores = s.cores) : s.Local c x t := of_core fun d => by rw [State.core, h, State.core]

theorem trans (h : s.Local c x t) (h' : t.Local c x u) : s.Local c x u :=
  ⟨fun d => (h'.sp d).trans (h.sp d), fun d y hd => (h'.ctx d y hd).trans (h.ctx d y hd)⟩

theorem modCore (s : State) (c x d : Nat) {f : Core → Core} (hsp : ∀ k, (f k).sp = k.sp := by exact fun _ => rfl)
    (hctxs : ∀ k, (f k).ctxs = k.ctxs := by exact fun _ => rfl) :
    s.Local c x (s.modCore d f) :=
  ⟨s.core_modCore_keeps Core.sp hsp d, fun e y _ => s.ctx_modCore_keeps hctxs d e y⟩

theorem modCtx (s : State) (c x : Nat) (f : Ctx → Ctx) : s.Local c x (s.modCtx c x f) :=
  ⟨s.core_modCore_keeps Core.sp (by exact fun _ => rfl) c, fun _ _ hd => s.ctx_modCtx_ne f hd⟩

end State.Local

/-- What no part of the halt of a context changes: the issue latch, the fault queue, the dated steps and the clock. -/
def State.outer (s : State) : Issue × FaultQ × List Sched × Nat := (s.iss, s.fq, s.sched, s.pcyc)

section
variable (s : State) (c x : Nat)

theorem Core.modEng_cb (k : Core) (h : Nat) (f : Engine → Engine) : (k.modEng h f).cb = k.cb := by
  unfold Core.modEng
  split <;> rfl

theorem State.modCtx_cb (f : Ctx → Ctx) : ((s.modCtx c x f).core c).cb = (s.core c).cb := by
  rw [State.core_modCtx_self]

/-! ### Held entries are dropped (R254, R409) -/

/-- The reservations of the LAUNCHes among the entries go first: of a state, t, that has changed only its queues for launches, the
entries and the context's own reservations go. -/
theorem State.dropHeld_eq : ∃ (t : State) (resv : List (Nat × Nat × Nat × Bool) → List (Nat × Nat × Nat × Bool)),
    t.cores = s.cores ∧ t.outer = s.outer ∧
      s.dropHeld c x = (t.modCore c (fun k => { k with cb := k.cb.filter (fun e => !(e.ctx = x && e.st = .held)) })).modCtx c x
        (fun k => { k with resv := resv k.resv }) := by
  unfold State.dropHeld
  extract_lets held gone back
  refine ⟨back, _, foldl_keeps State.cores (fun t e => ?_) held s, foldl_keeps State.outer (fun t e => ?_) held s, rfl⟩ <;>
  · split <;> rfl

theorem State.dropHeld_local : s.Local c x (s.dropHeld c x) := by
  obtain ⟨t, resv, hcores, -, h⟩ := s.dropHeld_eq c x
  rw [h]
  exact (Local.of_cores hcores).trans ((Local.modCore t c x c).trans (Local.modCtx ..))

theorem State.dropHeld_outer : (s.dropHeld c x).outer = s.outer := by
  obtain ⟨t, resv, -, houter, h⟩ := s.dropHeld_eq c x
  rw [h, ← houter]
  rfl

theorem State.dropHeld_cb :
    ((s.dropHeld c x).core c).cb = (s.core c).cb.filter (fun e => !(e.ctx = x && e.st = .held)) := by
  obtain ⟨t, resv, hcores, -, h⟩ := s.dropHeld_eq c x
  rw [h, State.core_modCtx_self, State.core_modCore_self, State.core, hcores, State.core]

theorem State.dropHeld_ctx : ∃ resv, (s.dropHeld c x).ctx c x = { s.ctx c x with resv := resv } := by
  obtain ⟨t, resv, hcores, -, h⟩ := s.dropHeld_eq c x
  rw [h, State.ctx_modCtx_self, State.ctx_modCore_keeps _ (by exact fun _ => rfl), State.ctx, State.core, hcores]
  exact ⟨_, rfl⟩

/-- Of the entries of a commit buffer from which those that context x held have gone none is held by x, and the others are there. -/
theorem filter_notHeld {l l' : List Entry} (h : l' = l.filter (fun e => !(e.ctx = x && e.st = .held))) :
    (∀ e ∈ l', e.ctx = x → e.st ≠ .held) ∧ ∀ e ∈ l, e.st ≠ .held → e ∈ l' := by
  subst h
  refine ⟨fun e he hx hst => ?_, fun e he hst => List.mem_filter.2 ⟨he, by simp [hst]⟩⟩
  simp [hx, hst] at he

/-! ### The end of a request -/

theorem State.endRequest_local : s.Local c x (s.endRequest c x) := by
  unfold State.endRequest
  extract_lets k
  split_ifs
  · exact (Local.modCtx ..).trans (Local.modCore _ c x c)
  · exact Local.of_cores rfl

theorem State.endRequest_outer : (s.endRequest c x).outer = s.outer := by
  unfold State.endRequest
  extract_lets k
  split_ifs <;> rfl

theorem State.endRequest_cb : ((s.endRequest c x).core c).cb = (s.core c).cb := by
  unfold State.endRequest
  extract_lets k
  split_ifs
  · rw [State.pmEnd, State.core_modCore_self, State.core_modCtx_self]
  · rfl

theorem State.endRequest_regs : ((s.endRequest c x).ctx c x).r = (s.ctx c x).r := by
  unfold State.endRequest
  extract_lets k
  split_ifs
  · rw [State.pmEnd, State.ctx_modCore_keeps _ (by exact fun _ => rfl), State.ctx_modCtx_self]
  · rfl

/-! ### The primary of a half -/

theorem State.yieldPrimary_local (y : Nat) : s.Local c x (s.yieldPrimary c y) :=
  ⟨s.yieldPrimary_keeps Core.sp (fun _ _ _ => rfl) c y, fun d z _ => s.yieldPrimary_ctx c y d z⟩

theorem State.yieldPrimary_outer : (s.yieldPrimary c x).outer = s.outer := by
  unfold State.yieldPrimary
  extract_lets h
  split_ifs <;> rfl

/-! ### The halt of a context (R409) -/

theorem State.modEng_local (y h : Nat) (f : Engine → Engine) : s.Local c x (s.modCore y (fun k => k.modEng h f)) := by
  refine Local.modCore s c x y (fun k => ?_) (fun k => k.modEng_ctxs h f)
  unfold Core.modEng
  split <;> rfl

/-- What the halt changes of its context (R409), of a state whose held entries and request have gone. -/
theorem State.haltTrapped_ctx : (s.haltTrapped c x).ctx c x =
    { ((s.dropHeld c x).endRequest c x).ctx c x with
      status := .halted, why := .trapped, waitClk := 0, split := [], splitOn := false, scan := none } := by
  unfold State.haltTrapped
  extract_lets ended halted abandoned counted
  have hended : ended.ctx c x = ((s.dropHeld c x).endRequest c x).ctx c x := rfl
  clear_value ended
  have hctx : counted.ctx c x = halted.ctx c x := halted.ctx_modCore_keeps (fun k => k.modEng_ctxs ..) ..
  rw [State.yieldPrimary_ctx, hctx, State.ctx_modCtx_self, hended]

theorem State.haltTrapped_regs : ((s.haltTrapped c x).ctx c x).r = (s.ctx c x).r := by
  obtain ⟨resv, h⟩ := s.dropHeld_ctx c x
  rw [State.haltTrapped_ctx]
  change (((s.dropHeld c x).endRequest c x).ctx c x).r = _
  rw [State.endRequest_regs, h]

theorem State.haltTrapped_local : s.Local c x (s.haltTrapped c x) := by
  unfold State.haltTrapped
  extract_lets ended halted abandoned counted
  have hended : s.Local c x ended := (s.dropHeld_local c x).trans (endRequest_local ..)
  have habandoned : ended.Local c x abandoned := (Local.modCtx ..).trans (modEng_local ..)
  have hcounted : abandoned.Local c x counted := .of_cores rfl
  exact ((hended.trans habandoned).trans hcounted).trans (yieldPrimary_local ..)

theorem State.haltTrapped_outer : (s.haltTrapped c x).outer = s.outer := by
  unfold State.haltTrapped
  extract_lets ended halted abandoned counted
  have hcounted : counted.outer = ended.outer := by
    clear_value ended
    rfl
  rw [State.yieldPrimary_outer, hcounted, State.endRequest_outer, State.dropHeld_outer]

theorem State.haltTrapped_cb :
    ((s.haltTrapped c x).core c).cb = (s.core c).cb.filter (fun e => !(e.ctx = x && e.st = .held)) := by
  unfold State.haltTrapped
  extract_lets ended halted abandoned counted
  have hended : (ended.core c).cb = ((s.dropHeld c x).core c).cb := endRequest_cb ..
  clear_value ended
  have hhalted : (halted.core c).cb = (ended.core c).cb := modCtx_cb ..
  have habandoned : (abandoned.core c).cb = (halted.core c).cb := by
    refine halted.core_modCore_keeps Core.cb ?_ c c
    exact fun k => k.modEng_cb ..
  have hcounted : counted.core c = abandoned.core c := rfl
  rw [State.yieldPrimary_keeps _ Core.cb (fun _ _ _ => rfl), hcounted, habandoned, hhalted, hended, State.dropHeld_cb]

/-! ### Traps (R409, R412) -/

variable (t : Trap)

/-- The record of a program error, with its place. -/
def State.errorRec (pos : Nat) : Rec :=
  s.recOf c x
    { cls := t.cls, cause := t.cause, sub := t.sub, slot := t.slot, asid := t.asid, pos := pos, info := t.info, addr := t.addr }

theorem State.post_local (r : Rec) : s.Local c x (s.post r) := .of_core fun d => s.post_core r d

theorem State.post_ctx (r : Rec) (d y : Nat) : (s.post r).ctx d y = s.ctx d y := by
  rw [State.ctx, State.post_core, State.ctx]

theorem State.post_outer (r : Rec) : ∃ fq, (s.post r).outer = (s.iss, fq, s.sched, s.pcyc) := by
  obtain ⟨fq, fresh, h⟩ := s.post_onlyRecords r
  exact ⟨fq, by rw [h]; rfl⟩

theorem State.cancelGin_eq (d gin : Nat) : ∃ due, s.cancelGin d gin =
    { s with fresh := s.fresh + 1, sched := s.sched ++ [⟨due, 0, .cancelTokenArrival, { n := gin }⟩] } :=
  ⟨_, sched_route_zero ..⟩

/-- A program error of a context: its record, its halt (the state h) and the cancel token of its graph (R77, R409). -/
theorem State.programError_eq (pos : Nat) : ∃ (h : State) (due : Nat), h = (s.post (s.errorRec c x t pos)).haltTrapped c x ∧
    s.programError c x t pos = { h with
      fresh := h.fresh + 1,
      sched := h.sched ++ [⟨due, 0, .cancelTokenArrival, { n := (s.launch (s.ctx c x).launch).gin }⟩] } := by
  obtain ⟨due, hcancel⟩ :=
    ((s.post (s.errorRec c x t pos)).haltTrapped c x).cancelGin_eq (coreDie c) (s.launch (s.ctx c x).launch).gin
  exact ⟨_, due, rfl, hcancel⟩

/-- The halt that a trap of class 1 makes: the context waits for the host's word on its record (R409). -/
def State.haltResolve (seq : Nat) : State :=
  ((s.modCtx c x (fun k => { k with status := .halted, why := .resolve seq true })).yieldPrimary c x)

theorem State.haltResolve_ctx (seq : Nat) :
    (s.haltResolve c x seq).ctx c x = { s.ctx c x with status := .halted, why := .resolve seq true } := by
  rw [State.haltResolve, State.yieldPrimary_ctx, State.ctx_modCtx_self]

theorem State.haltResolve_cb (seq : Nat) : ((s.haltResolve c x seq).core c).cb = (s.core c).cb := by
  rw [State.haltResolve, State.yieldPrimary_keeps _ Core.cb (fun _ _ _ => rfl), State.modCtx_cb]

theorem State.haltResolve_local (seq : Nat) : s.Local c x (s.haltResolve c x seq) :=
  (Local.modCtx ..).trans (yieldPrimary_local ..)

theorem State.haltResolve_outer (seq : Nat) : (s.haltResolve c x seq).outer = s.outer :=
  (yieldPrimary_outer ..).trans rfl

section
variable (pos : Nat)

theorem State.programError_local : s.Local c x (s.programError c x t pos) := by
  obtain ⟨h, due, hh, heq⟩ := s.programError_eq c x t pos
  have hlocal : s.Local c x h := hh ▸ (s.post_local c x _).trans (haltTrapped_local ..)
  rw [heq]
  exact hlocal.trans (.of_cores rfl)

theorem State.programError_outer : (s.programError c x t pos).iss = s.iss
    ∧ (s.programError c x t pos).fq = (s.post (s.errorRec c x t pos)).fq := by
  obtain ⟨h, due, hh, heq⟩ := s.programError_eq c x t pos
  obtain ⟨fq, hpost⟩ := s.post_outer (s.errorRec c x t pos)
  have houter : h.outer = (s.post (s.errorRec c x t pos)).outer := hh ▸ haltTrapped_outer ..
  rw [heq]
  exact ⟨congrArg Prod.fst (houter.trans hpost), congrArg (·.2.1) houter⟩

theorem State.programError_ctx : ((s.programError c x t pos).ctx c x).status = .halted
    ∧ ((s.programError c x t pos).ctx c x).why = .trapped ∧ ((s.programError c x t pos).ctx c x).r = (s.ctx c x).r := by
  obtain ⟨h, due, hh, heq⟩ := s.programError_eq c x t pos
  have hctx : h.ctx c x = _ := hh ▸ haltTrapped_ctx ..
  have hregs : (h.ctx c x).r = ((s.post (s.errorRec c x t pos)).ctx c x).r := hh ▸ haltTrapped_regs ..
  rw [heq]
  change (h.ctx c x).status = _ ∧ (h.ctx c x).why = _ ∧ (h.ctx c x).r = _
  rw [hregs, State.post_ctx, hctx]
  exact ⟨rfl, rfl, rfl⟩

theorem State.programError_cb : ((s.programError c x t pos).core c).cb =
    (s.core c).cb.filter (fun e => !(e.ctx = x && e.st = .held)) := by
  obtain ⟨h, due, hh, heq⟩ := s.programError_eq c x t pos
  have hcb := (s.post (s.errorRec c x t pos)).haltTrapped_cb c x
  rw [← hh, State.post_core] at hcb
  rw [heq]
  exact hcb

theorem State.programError_cancels : ∃ e ∈ (s.programError c x t pos).sched,
    e.ev = .cancelTokenArrival ∧ e.arg.n = (s.launch (s.ctx c x).launch).gin := by
  obtain ⟨h, due, -, heq⟩ := s.programError_eq c x t pos
  rw [heq]
  exact ⟨_, List.mem_append_right _ (List.mem_singleton_self _), rfl, rfl⟩

end

/-- A core's own table of a launch's ranges leaves its graph as it is. -/
theorem State.launchOn_gin (l : Nat) : (s.launchOn c l).gin = (s.launch l).gin := by
  unfold State.launchOn
  split <;> rfl

/-! The trap of the issuing bundle. -/

/-- A trap has stopped the issuing bundle. -/
def State.stoppedBy (s : State) (t : Trap) : State := { s with iss := { s.iss with stop := some (.trap t) } }

/-- A trap with the slot it is reported for. -/
def State.placed (s : State) (t : Trap) : Trap := { t with slot := if t.slot = 0 then s.iss.slot else t.slot }

/-- A record of class 1 has been made, and the context of the latch is entered with those that await the host's word. -/
def State.awaitHost (s : State) (r : Rec) : State :=
  { s.post r with fq := { (s.post r).fq with waits := (s.post r).fq.waits ++ [(s.fq.seq.toNat, s.iss.core, s.iss.ctx, none)] } }

theorem State.awaitHost_local (r : Rec) : s.Local c x (s.awaitHost r) := .of_core fun d => s.post_core r d

theorem State.awaitHost_ctx (r : Rec) : (s.awaitHost r).ctx c x = s.ctx c x := s.post_ctx r c x

theorem State.post_waits (r : Rec) : (s.post r).fq.waits = s.fq.waits := by
  unfold State.post
  split_ifs <;> rfl

/-- The halt that follows leaves the latch and the fault queue. -/
theorem State.resolved_outer (r : Rec) (seq : Nat) : ((s.awaitHost r).haltResolve c x seq).iss = s.iss
    ∧ ((s.awaitHost r).haltResolve c x seq).fq = (s.awaitHost r).fq := by
  have houter := (s.awaitHost r).haltResolve_outer c x seq
  obtain ⟨fq, hpost⟩ := s.post_outer r
  have hiss : (s.awaitHost r).iss = s.iss := congrArg Prod.fst hpost
  exact ⟨(congrArg Prod.fst houter).trans hiss, congrArg (·.2.1) houter⟩

theorem State.trap_error (h : t.cls ≠ 1) :
    s.trap t = (s.programError s.iss.core s.iss.ctx (s.placed t) s.iss.pos).stoppedBy (s.placed t) := by
  simp only [State.trap, if_neg h, State.stoppedBy, State.placed]


theorem State.SameMemory.of_mems {s t : State} (hmems : t.mems = s.mems) (hsp : ∀ d, (t.core d).sp = (s.core d).sp) :
    s.SameMemory t := by
  obtain ⟨hmem, hhost⟩ := Prod.mk.inj hmems
  exact ⟨fun a => by rw [hmem], fun a => by rw [hhost], fun c a => by rw [hsp]⟩

theorem State.stoppedBy_fq : (s.stoppedBy t).fq = s.fq := rfl

theorem State.stoppedBy_sched : (s.stoppedBy t).sched = s.sched := rfl

section
variable {s} {u : State} (hiss : u.iss = s.iss)
include hiss

theorem State.stoppedBy_cx : (u.stoppedBy t).cx = u.ctx s.iss.core s.iss.ctx := by
  change u.ctx u.iss.core u.iss.ctx = _
  rw [hiss]

theorem State.stoppedBy_cc : (u.stoppedBy t).cc = u.core s.iss.core := by
  change u.core u.iss.core = _
  rw [hiss]

end

/-- What a trap of any class leaves, of the state u in which its context has halted. -/
theorem State.stoppedBy_leaves {s u : State} (hu : s.trap t = u.stoppedBy (s.placed t)) (hiss : u.iss = s.iss)
    (hlocal : s.Local s.iss.core s.iss.ctx u) (hstatus : (u.ctx s.iss.core s.iss.ctx).status = .halted)
    (hregs : (u.ctx s.iss.core s.iss.ctx).r = s.cx.r) :
    (s.trap t).iss.stop = some (.trap (s.placed t)) ∧ s.SameMemory (s.trap t) ∧ (s.trap t).cx.status = .halted
    ∧ (s.trap t).cx.r = s.cx.r ∧ ∀ c x, (c ≠ s.iss.core ∨ x ≠ s.iss.ctx) → (s.trap t).ctx c x = s.ctx c x := by
  have hmems := s.trap_mems t
  rw [hu] at hmems ⊢
  rw [State.stoppedBy_cx _ hiss]
  exact ⟨rfl, .of_mems hmems hlocal.sp, hstatus, hregs, hlocal.ctx⟩

/-- The record that a trap of class 1 of the issuing bundle makes. -/
def State.resolveRec (s : State) (t : Trap) : Rec :=
  s.recOf s.iss.core s.iss.ctx
    { cls := 1, cause := t.cause, sub := t.sub, slot := (s.placed t).slot, pos := s.iss.pos, info := t.info, addr := t.addr }

section
variable {t} (hcls : t.cls = 1)
include hcls

/-- A trap of class 1: its record, and the halt (the state h) in which the context awaits the host (R409). -/
theorem State.trap_resolve : ∃ h : State, h = (s.awaitHost (s.resolveRec t)).haltResolve s.iss.core s.iss.ctx s.fq.seq.toNat ∧
    s.trap t = h.stoppedBy (s.placed t) := by
  refine ⟨_, rfl, ?_⟩
  simp only [State.trap, if_pos hcls, State.stoppedBy, State.placed, State.awaitHost, State.haltResolve, State.resolveRec]

end

theorem State.trap_leaves : (s.trap t).iss.stop = some (.trap (s.placed t)) ∧ s.SameMemory (s.trap t)
    ∧ (s.trap t).cx.status = .halted ∧ (s.trap t).cx.r = s.cx.r
    ∧ ∀ c x, (c ≠ s.iss.core ∨ x ≠ s.iss.ctx) → (s.trap t).ctx c x = s.ctx c x := by
  by_cases hcls : t.cls = 1
  · obtain ⟨h, hh, htrap⟩ := s.trap_resolve hcls
    have hctx := hh ▸ haltResolve_ctx ..
    have hlocal : s.Local s.iss.core s.iss.ctx h := hh ▸ (s.awaitHost_local ..).trans (haltResolve_local ..)
    exact State.stoppedBy_leaves t htrap (hh ▸ s.resolved_outer ..).1 hlocal (by rw [hctx]) (by rw [hctx, State.awaitHost_ctx]; rfl)
  · obtain ⟨hstatus, -, hregs⟩ := s.programError_ctx s.iss.core s.iss.ctx (s.placed t) s.iss.pos
    exact State.stoppedBy_leaves t (s.trap_error t hcls) (programError_outer ..).1 (programError_local ..) hstatus hregs

/-- The record and the cancel token of a program error of the issuing bundle, and what is left of its held entries (R254, R409, R412). -/
theorem State.trap_error_leaves (hcls : t.cls ≠ 1) : (s.trap t).cx.why = .trapped
    ∧ (s.trap t).cc.cb = s.cc.cb.filter (fun e => !(e.ctx = s.iss.ctx && e.st = .held))
    ∧ (∃ e ∈ (s.trap t).sched, e.ev = .cancelTokenArrival ∧ e.arg.n = s.cl.gin)
    ∧ (s.trap t).fq = (s.post (s.errorRec s.iss.core s.iss.ctx (s.placed t) s.iss.pos)).fq := by
  obtain ⟨hiss, hfq⟩ := s.programError_outer s.iss.core s.iss.ctx (s.placed t) s.iss.pos
  obtain ⟨-, hwhy, -⟩ := s.programError_ctx s.iss.core s.iss.ctx (s.placed t) s.iss.pos
  rw [s.trap_error t hcls, State.stoppedBy_cx _ hiss, State.stoppedBy_cc _ hiss, State.stoppedBy_fq, State.stoppedBy_sched,
    State.cl, State.launchOn_gin]
  exact ⟨hwhy, programError_cb .., programError_cancels .., hfq⟩

/-- A trap of class 1 of the issuing bundle waits for the host (R409). -/
theorem State.trap_resolve_leaves (hcls : t.cls = 1) : (s.trap t).cx.why = .resolve s.fq.seq.toNat true ∧ (s.trap t).cc.cb = s.cc.cb
    ∧ (s.trap t).fq = (s.awaitHost (s.resolveRec t)).fq := by
  obtain ⟨h, hh, htrap⟩ := s.trap_resolve hcls
  obtain ⟨hiss, hfq⟩ := hh ▸ s.resolved_outer ..
  rw [htrap, State.stoppedBy_cx _ hiss, State.stoppedBy_cc _ hiss]
  have hctx := hh ▸ haltResolve_ctx ..
  have hcb := hh ▸ haltResolve_cb ..
  rw [hctx, hcb]
  exact ⟨rfl, congrArg Core.cb (s.post_core ..), hfq⟩

/-! ### The return to the restart mark (R414) -/

/-- What a rollback has changed once it has dropped what it drops: the context's held entries, its open tile and its replies. -/
structure State.Dropped (s : State) (c x : Nat) (t : State) : Prop where
  isLocal : s.Local c x t
  outer : t.outer = s.outer
  ctx : ∃ resv, t.ctx c x = { s.ctx c x with resv := resv }
  cb : (t.core c).cb = (s.core c).cb.filter (fun e => !(e.ctx = x && e.st = .held))

theorem State.dropped_of_engine (h : Nat) (f : Engine → Engine) (of_ : Nat → Bool) :
    s.Dropped c x (((s.dropHeld c x).modCore c (fun k => k.modEng h f)).dropReplies c x of_) where
  isLocal := ((s.dropHeld_local c x).trans (modEng_local ..)).trans (.of_cores rfl)
  outer := by
    rw [← s.dropHeld_outer c x]
    generalize s.dropHeld c x = d
    rfl
  ctx := by
    obtain ⟨resv, hdropped⟩ := s.dropHeld_ctx c x
    refine ⟨resv, Eq.trans ?_ hdropped⟩
    generalize s.dropHeld c x = d
    exact d.ctx_modCore_keeps (fun k => k.modEng_ctxs h f) c c x
  cb := by
    rw [← s.dropHeld_cb c x]
    generalize s.dropHeld c x = d
    exact d.core_modCore_keeps Core.cb (fun k => k.modEng_cb h f) c c

/-- A rollback of a context that owns no opening of the engine and is not being saved: after the drops (the state t) the mark is
taken, the primary changes, and fetch resumes 9 clocks on. -/
theorem State.rollback_eq (hwhy : ∀ a d, (s.ctx c x).why ≠ .saving a d)
    (hopens : ((s.core c).eng (s.half c x)).opens.filter (fun o => o.ctx = x) = []) :
    ∃ (t : State) (f : Ctx → Ctx), s.Dropped c x t
      ∧ (∀ k, (f k).r = k.markRegs ∧ (f k).status = .halted ∧ (f k).why = .rolling
        ∧ (f k).pend = k.pend.filter (fun p => !k.afterMark p.2.1) ∧ (f k).mark2 = none ∧ (f k).mark = k.mark)
      ∧ s.rollback c x .rolling = ((t.modCtx c x f).yieldPrimary c x).sched_ (((t.modCtx c x f).yieldPrimary c x).pcyc + 9) 0
          .rollbackFetchResume { core := c, ctx := x } := by
  unfold State.rollback
  extract_lets why h mine dropped engined quiet own marked yielded
  have hrolling : why = .rolling := by
    cases hk : (s.ctx c x).why with
    | saving a d => exact absurd hk (hwhy a d)
    | _ => simp only [why, hk]
  have hmine : mine = [] := hopens
  rw [if_neg (by simp [hmine]), if_pos hrolling]
  have hquiet : s.Dropped c x quiet := s.dropped_of_engine ..
  clear_value quiet
  refine ⟨quiet, _, hquiet, fun k => ?_, rfl⟩
  exact ⟨rfl, rfl, hrolling, rfl, rfl, rfl⟩

section
variable {s c x}

theorem State.Dropped.mark_kept {t : State} (h : s.Dropped c x t) : (t.ctx c x).markRegs = (s.ctx c x).markRegs
    ∧ (t.ctx c x).mark = (s.ctx c x).mark
    ∧ (t.ctx c x).pend.filter (fun p => !(t.ctx c x).afterMark p.2.1)
      = (s.ctx c x).pend.filter (fun p => !(s.ctx c x).afterMark p.2.1) := by
  obtain ⟨resv, hctx⟩ := h.ctx
  rw [hctx]
  exact ⟨rfl, rfl, rfl⟩

/-- A rollback brings back the mark, drops the held entries, and resumes fetch 8 clocks after the clock of the event (R414). -/
theorem State.rollback_leaves (hwhy : ∀ a d, (s.ctx c x).why ≠ .saving a d)
    (hopens : ((s.core c).eng (s.half c x)).opens.filter (fun o => o.ctx = x) = []) :
    let t := s.rollback c x .rolling
    ((t.ctx c x).r = (s.ctx c x).markRegs ∧ (t.ctx c x).status = .halted ∧ (t.ctx c x).why = .rolling
      ∧ (t.ctx c x).pend = (s.ctx c x).pend.filter (fun p => !(s.ctx c x).afterMark p.2.1) ∧ (t.ctx c x).mark2 = none
      ∧ (t.ctx c x).mark = (s.ctx c x).mark)
    ∧ (t.core c).cb = (s.core c).cb.filter (fun e => !(e.ctx = x && e.st = .held)) ∧ s.Local c x t
    ∧ ∃ e ∈ t.sched, e.ev = .rollbackFetchResume ∧ e.due = s.pcyc + 9 ∧ e.arg.core = c ∧ e.arg.ctx = x := by
  obtain ⟨d, f, hd, hf, h⟩ := s.rollback_eq c x hwhy hopens
  obtain ⟨hregs, hmark, hpend⟩ := hd.mark_kept
  obtain ⟨hfregs, hfstatus, hfwhy, hfpend, hfmark2, hfmark⟩ := hf (d.ctx c x)
  have hlocal : s.Local c x ((d.modCtx c x f).yieldPrimary c x) := (hd.isLocal.trans (.modCtx ..)).trans (yieldPrimary_local ..)
  have hcb : (((d.modCtx c x f).yieldPrimary c x).core c).cb = _ :=
    ((yieldPrimary_keeps _ Core.cb (fun _ _ _ => rfl) ..).trans (d.modCtx_cb c x f)).trans hd.cb
  have hctx : ((d.modCtx c x f).yieldPrimary c x).ctx c x = f (d.ctx c x) :=
    (yieldPrimary_ctx ..).trans (d.ctx_modCtx_self ..)
  have hpcyc : ((d.modCtx c x f).yieldPrimary c x).pcyc = s.pcyc :=
    congrArg (·.2.2.2) ((yieldPrimary_outer (d.modCtx c x f) c x).trans hd.outer)
  intro t
  have ht : t = _ := h.trans (sched_route_zero ..)
  clear_value t
  subst ht
  refine ⟨?_, hcb, hlocal.trans (.of_cores rfl), _, List.mem_append_right _ (List.mem_singleton_self _), rfl, by rw [hpcyc], rfl,
    rfl⟩
  change (((d.modCtx c x f).yieldPrimary c x).ctx c x).r = _ ∧ (((d.modCtx c x f).yieldPrimary c x).ctx c x).status = _
    ∧ (((d.modCtx c x f).yieldPrimary c x).ctx c x).why = _ ∧ (((d.modCtx c x f).yieldPrimary c x).ctx c x).pend = _
    ∧ (((d.modCtx c x f).yieldPrimary c x).ctx c x).mark2 = _ ∧ (((d.modCtx c x f).yieldPrimary c x).ctx c x).mark = _
  rw [hctx]
  exact ⟨hfregs.trans hregs, hfstatus, hfwhy, hfpend.trans hpend, hfmark2, hfmark.trans hmark⟩

end

end

/-- Settles O60: a trap by its class, and a rollback by its parts. -/
theorem trapsAndRollbacks : Obligations.TrapsAndRollbacks := by
  unfold Obligations.TrapsAndRollbacks
  refine ⟨fun s t => ?_, fun s c x hwhy hopens => ?_⟩
  · intro u slot r r1
    obtain ⟨hstop, hmemory, hstatus, hregs, hothers⟩ := s.trap_leaves t
    refine ⟨hstop, hmemory, hstatus, hregs, hothers, fun hcls => ?_, fun hcls hroom hheld => ?_, fun hcls => ?_,
      fun hcls hroom hheld => ?_⟩
    · obtain ⟨hwhy, hcb, hcancel, -⟩ := s.trap_error_leaves t hcls
      obtain ⟨hgone, hkept⟩ := filter_notHeld _ hcb
      exact ⟨hwhy, hgone, hkept, hcancel⟩
    · obtain ⟨-, -, -, hfq⟩ := s.trap_error_leaves t hcls
      change (s.trap t).fq.ring = _ ∧ (s.trap t).fq.seq = _
      rw [hfq, s.post_room _ hroom hheld]
      exact ⟨rfl, rfl⟩
    · obtain ⟨hwhy, hcb, hfq⟩ := s.trap_resolve_leaves t hcls
      refine ⟨hwhy, hcb, (congrArg FaultQ.waits hfq).trans ?_⟩
      exact congrArg (· ++ _) (s.post_waits _)
    · obtain ⟨-, -, hfq⟩ := s.trap_resolve_leaves t hcls
      exact (congrArg FaultQ.ring hfq).trans (State.post_ring hroom hheld)
  · obtain ⟨⟨hregs, hstatus, hhwhy, hpend, hmark2, hmark⟩, hcb, hlocal, hresume⟩ := State.rollback_leaves hwhy hopens
    obtain ⟨hgone, hkept⟩ := filter_notHeld _ hcb
    exact ⟨hregs, hstatus, hhwhy, hpend, hmark2, hmark, hgone, hkept, .of_mems (s.rollback_mems ..) hlocal.sp, hlocal.ctx, hresume,
      s.ctx_modCtx_self ..⟩

end Sys2Proof.Machine
end

section

/-!
PROOFS. The answers of homes as they reach who asked, and what a refused access does to its context (O48).
-/

namespace Sys2Proof.Machine

/-! ### What the parts of an answer leave of the contexts -/

section
variable (s : State)

theorem State.endReq_ctx (id c x : Nat) : (s.endReq id).ctx c x = s.ctx c x := rfl

theorem State.noteAck_ctx (e wts c x : Nat) : (s.noteAck e wts).ctx c x = s.ctx c x := rfl

theorem State.hearthAck_ctx (r : Req) (c x : Nat) : (s.hearthAck r).ctx c x = s.ctx c x := by
  unfold State.hearthAck
  split
  · split_ifs <;> rfl
  · rfl

theorem State.lessPending_ctx (r : Req) (c x : Nat) : (s.lessPending r).ctx c x = s.ctx c x := by
  unfold State.lessPending
  split
  · split_ifs <;> rfl
  · rfl

theorem State.ackTime_ctx (e wts c x : Nat) : (s.ackTime e wts).ctx c x = s.ctx c x := by
  unfold State.ackTime
  exact foldl_keeps (State.ctx · c x) (fun t p => t.raiseLt_ctx ..) _ _

/-- An acknowledgement takes the bytes that it counts for off its context (R310). -/
theorem State.settle_ctx {r : Req} {c x : Nat} (hwho : r.who = .ctx c x) (htask : (s.ctx c x).task = r.task) :
    (s.settle r).ctx c x = { s.ctx c x with pbytes := ((s.ctx c x).pbytes + 2 ^ 48 - State.owed r) % 2 ^ 48 } := by
  simp only [State.settle, hwho, if_pos htask, State.ctx_modCtx_self]

/-- A landed result is in its register, and its pending bit is clear (R141). -/
theorem State.landReg_ctx (c x id : Nat) (w : RegWrite) : ((s.landReg c x id w).ctx c x).r = (s.ctx c x).r.write w
    ∧ ((s.landReg c x id w).ctx c x).pend = (s.ctx c x).pend.filter (fun p => p.1 != id) := by
  rw [State.landReg, State.ctx_modCtx_self]
  exact ⟨rfl, rfl⟩

/-- What a tagged acknowledgement changes of the registers and the pending bits (R283, R448). -/
theorem State.tagged_ctx (c x serial : Nat) (tag : Option Word32) :
    ((s.tagged c x serial tag).ctx c x).pend = (s.ctx c x).pend
    ∧ (∀ d, ((s.tagged c x serial tag).ctx c x).r.sreg d = (s.ctx c x).r.sreg d)
    ∧ ∀ t, tag = some t → ((s.tagged c x serial tag).ctx c x).r.gtag = t
        ∧ ((s.tagged c x serial tag).ctx c x).r.gcnt = (s.ctx c x).r.gcnt + 1#32 := by
  cases tag with
  | none => exact ⟨rfl, fun _ => rfl, fun _ h => nomatch h⟩
  | some t =>
    rw [State.tagged, State.ctx_modCtx_self]
    refine ⟨rfl, fun _ => rfl, fun u hu => ?_⟩
    obtain rfl := Option.some.inj hu
    exact ⟨rfl, rfl⟩

theorem Regs.gcnt_write_s (r : Regs) (d : SReg) (v : Dword) : (r.write (.s d v)).gcnt = r.gcnt := by
  dsimp only [Regs.write]
  split_ifs <;> rfl

/-- Logical time raised to v (R338). -/
theorem State.lt_raiseLt (c x v : Nat) : (s.raiseLt c x v).lt c x = max (s.lt c x) v := by
  have hhalf : (s.raiseLt c x v).half c x = s.half c x := by
    refine s.half_modCore (fun k => ?_) c x
    split <;> rfl
  have hbase : (s.raiseLt c x v).ltBase = s.ltBase := rfl
  rw [State.lt, State.lt, hhalf, hbase, State.raiseLt, State.core_modCore_self]
  split_ifs <;> dsimp only <;> omega

theorem State.lt_modCtx (c x : Nat) (f : Ctx → Ctx) : (s.modCtx c x f).lt c x = s.lt c x := by
  have hcore : (s.modCtx c x f).core c = _ := s.core_modCtx_self c x f
  simp only [State.lt, State.half, hcore]
  rfl

end

/-! ### The answers (R141, R276 to R283, R307 to R312, R338, R344, R370) -/

section
variable {s : State} {r : Req} {c x : Nat} (hreq : s.req? s.arg.id = some r) (hwho : r.who = .ctx c x)
  (hlisten : s.listening r = true) (hflag : s.arg.flag = false)

include hwho hlisten in
theorem State.listening_task : (s.ctx c x).task = r.task ∧ (s.ctx c x).status ≠ .free ∧ r.dead = false := by
  simp only [State.listening, hwho, Bool.and_eq_true, Bool.not_eq_true', decide_eq_true_eq, bne_iff_ne, ne_eq] at hlisten
  obtain ⟨hdead, htask, hstatus⟩ := hlisten
  exact ⟨htask, hstatus, hdead⟩

section
include hreq hwho hlisten hflag

theorem read_lands {g : Nat} (hwant : r.want = .read g) :
    exec .variableResultLand s = .next ((((s.endReq r.id).raiseLt c x r.wts).keepLine c r true).groupGot c x g r) := by
  change execVariableResultLand s = _
  simp only [execVariableResultLand, hflag, hreq, hlisten, hwho, hwant, Bool.false_eq_true, if_false, Bool.not_true]

theorem prefetch_lands {b : Bool} (hwant : r.want = .prefetch b) :
    exec .variableResultLand s = .next (((s.endReq r.id).raiseLt c x r.wts).keepLine c r (!b)) := by
  change execVariableResultLand s = _
  simp only [execVariableResultLand, hflag, hreq, hlisten, hwho, hwant, Bool.false_eq_true, if_false, Bool.not_true]

/-- The value that was read before an atomic operation lands, with the tag of its acknowledgement (R283, R312). -/
def State.atomicLanded (s : State) (r : Req) (c x id : Nat) (d : SReg) (v : Dword) : State :=
  ((((((s.endReq r.id).noteAck c r.wts).raiseLt c x r.wts).hearthAck r).landReg c x id (.s d v)).tagged c x r.serial r.tag).modCtx
    c x (fun k => { k with comps := k.comps.filter (· != .atomic id) })

theorem amo_lands {id v : Nat} {d : SReg} {op : AmoOp} {sz : Size} (hwant : r.want = .amo id d op v sz) :
    exec .variableResultLand s = .next (s.atomicLanded r c x id d (sz.ext r.data)) := by
  change execVariableResultLand s = _
  simp only [execVariableResultLand, hflag, hreq, hlisten, hwho, hwant, Bool.false_eq_true, if_false, Bool.not_true,
    State.atomicLanded]

theorem cas_lands {id w v : Nat} {d : SReg} {sz : Size} (hwant : r.want = .cas id d w v sz) :
    exec .variableResultLand s = .next (s.atomicLanded r c x id d (sz.ext r.data)) := by
  change execVariableResultLand s = _
  simp only [execVariableResultLand, hflag, hreq, hlisten, hwho, hwant, Bool.false_eq_true, if_false, Bool.not_true,
    State.atomicLanded]

/-- A poll's answer reaches its context and raises its logical time (R344). -/
theorem sync_lands (hwant : r.want = .sync) (hsync : (s.ctx c x).syncReq = some r.id) : ∃ t, exec .variableResultLand s = .next t
    ∧ (t.ctx c x).sync = some { va := r.g.va, word := BitVec.ofNat 128 s.arg.v, wts := s.arg.n }
    ∧ t.lt c x = max (s.lt c x) s.arg.n := by
  have hexec : exec .variableResultLand s = .next (
      let ans : SyncAns := { va := r.g.va, word := BitVec.ofNat 128 s.arg.v, wts := s.arg.n }
      if State.away r then ((s.endReq r.id).raiseLt c x s.arg.n).modCtx c x (fun k => { k with sync := some ans, syncReq := none })
      else (s.raiseLt c x s.arg.n).modCtx c x (fun k => { k with sync := some ans })) := by
    change execVariableResultLand s = _
    simp only [execVariableResultLand, hflag, hreq, hlisten, hwho, hwant, hsync, Bool.false_eq_true, if_false, Bool.not_true,
      bne_self_eq_false]
    split_ifs <;> rfl
  refine ⟨_, hexec, ?_, ?_⟩
  · split_ifs <;> rw [State.ctx_modCtx_self]
  · split_ifs
    · rw [State.lt_modCtx, State.lt_raiseLt]
      rfl
    · rw [State.lt_modCtx, State.lt_raiseLt]

end

/-- What an atomic operation leaves: its value in the register, no pending bit, its bundle no longer waiting, and its tag. -/
theorem State.atomicLanded_ctx (s : State) (r : Req) (c x id : Nat) (d : SReg) (v : Dword) :
    let t := s.atomicLanded r c x id d v
    (d ≠ 0 → (t.ctx c x).r.sreg d = v) ∧ (∀ q ∈ (t.ctx c x).pend, q.1 ≠ id) ∧ .atomic id ∉ (t.ctx c x).comps
    ∧ ∀ tag, r.tag = some tag → (t.ctx c x).r.gtag = tag ∧ (t.ctx c x).r.gcnt = (s.ctx c x).r.gcnt + 1#32 := by
  intro t
  let asked := (((s.endReq r.id).noteAck c r.wts).raiseLt c x r.wts).hearthAck r
  have hasked : asked.ctx c x = s.ctx c x := by
    rw [State.hearthAck_ctx, State.raiseLt_ctx, State.noteAck_ctx, State.endReq_ctx]
  have ht : t.ctx c x = { ((asked.landReg c x id (.s d v)).tagged c x r.serial r.tag).ctx c x with
      comps := (((asked.landReg c x id (.s d v)).tagged c x r.serial r.tag).ctx c x).comps.filter (· != .atomic id) } :=
    State.ctx_modCtx_self ..
  clear_value t asked
  obtain ⟨hregs, hpend⟩ := asked.landReg_ctx c x id (.s d v)
  obtain ⟨hpendTagged, hsreg, htag⟩ := (asked.landReg c x id (.s d v)).tagged_ctx c x r.serial r.tag
  rw [hregs, hasked] at hsreg htag
  rw [ht]
  refine ⟨fun hd => (hsreg d).trans (Regs.sreg_write_self _ _ hd), fun q hq => ?_, fun hmem => ?_, fun tag h => ?_⟩
  · rw [hpendTagged, hpend] at hq
    simpa using (List.mem_filter.1 hq).2
  · simpa using (List.mem_filter.1 hmem).2
  · obtain ⟨hgtag, hgcnt⟩ := htag tag h
    exact ⟨hgtag, hgcnt.trans (congrArg (· + 1#32) (Regs.gcnt_write_s ..))⟩

/-! ### Write grants (R280, R370) -/

section
include hreq hwho

theorem grant_returns_entry {i : Nat} (hwant : r.want = .grant i) (hdead : r.dead = false) (hrel : s.rel? i = none) :
    exec .writeGrantReturn s = .next ((s.endReq r.id).modCore c (fun k =>
      { k with cb := k.cb.map (fun f => if f.id = i then { f with grant := .granted (r.p.getD 0) } else f) })) := by
  change execWriteGrantReturn s = _
  have hend : (s.endReq r.id).rel? i = none := hrel
  simp only [execWriteGrantReturn, hreq, hwho, hwant, hend, hdead, Option.isSome_none, Bool.false_eq_true, if_false]

theorem grant_returns_release {i : Nat} {q : RelRun} (hwant : r.want = .grant i) (hrel : s.rel? i = some q) :
    exec .writeGrantReturn s = .next ((s.endReq r.id).modRel i (fun q => { q with phase := 5, p := r.p.getD 0 })) := by
  change execWriteGrantReturn s = _
  have hend : (s.endReq r.id).rel? i = some q := hrel
  simp only [execWriteGrantReturn, hreq, hwho, hwant, hend, Option.isSome_some, if_true]

end

/-! ### Acknowledgements (R276, R283, R310, R338) -/

/-- What every acknowledgement of a context's access does first. -/
def State.acked (s : State) (r : Req) (c x : Nat) : State :=
  (((((((s.endReq r.id).settle r).lessPending r).hearthAck r).noteAck c r.wts).raiseLt c x r.wts).ackTime c r.wts)

theorem State.acked_ctx {s : State} {r : Req} {c x : Nat} (hwho : r.who = .ctx c x) (htask : (s.ctx c x).task = r.task) :
    (s.acked r c x).ctx c x = { s.ctx c x with pbytes := ((s.ctx c x).pbytes + 2 ^ 48 - State.owed r) % 2 ^ 48 } := by
  rw [State.acked, State.ackTime_ctx, State.raiseLt_ctx, State.noteAck_ctx, State.hearthAck_ctx, State.lessPending_ctx]
  exact (s.endReq r.id).settle_ctx hwho htask

section
include hreq hwho hflag

theorem write_acked {v be : Nat} (hwant : r.want = .write v be) (htask : (s.ctx c x).task = r.task) :
    exec .ackArrival s = .next ((s.acked r c x).tagged c x r.serial r.tag) := by
  have hlive : ((s.acked r c x).ctx c x).task = r.task := by
    rw [State.acked_ctx hwho htask]
    exact htask
  rw [State.acked] at hlive ⊢
  change execAckArrival s = _
  simp only [execAckArrival, hflag, hreq, hwho, hwant, hlive, Bool.false_eq_true, if_false, decide_true, if_true]

theorem red_acked {v : Nat} {op : AmoOp} (hwant : r.want = .red op v) : exec .ackArrival s = .next (s.acked r c x) := by
  change execAckArrival s = _
  simp only [execAckArrival, hflag, hreq, hwho, hwant, Bool.false_eq_true, if_false, State.acked]

theorem pin_acked (hwant : r.want = .pin) : exec .ackArrival s = .next ((s.acked r c x).pinFill c r) := by
  change execAckArrival s = _
  simp only [execAckArrival, hflag, hreq, hwho, hwant, Bool.false_eq_true, if_false, State.acked]

end

/-! ### Refusals and failures (R281, R409 to R411) -/

/-- A context goes on with its task: no trap, no failure and no end of it. -/
def Ctx.runs (k : Ctx) : Prop := k.why ≠ .trapped ∧ k.why ≠ .lost ∧ k.why ≠ .done

/-- An access is of the bundle of the established mark, or of one before it, which does not issue again (R413). -/
def Ctx.marked (k : Ctx) (r : Req) : Bool := match k.markSer with | some n => r.serial ≤ n | none => false

theorem Ctx.marked_iff (k : Ctx) (r : Req) : k.marked r = true ↔ ∃ n, k.markSer = some n ∧ r.serial ≤ n := by
  unfold Ctx.marked
  cases k.markSer <;> simp

/-- The context of an access is gone: it runs another task, or its own no more. -/
def Ctx.gone (k : Ctx) (r : Req) : Bool :=
  k.task != r.task || k.status = .free || k.why = .trapped || k.why = .lost || k.why = .done

include hwho hlisten in
theorem State.gone_iff : (s.ctx c x).gone r = true ↔ ¬ (s.ctx c x).runs := by
  obtain ⟨htask, hstatus, -⟩ := State.listening_task hwho hlisten
  simp only [Ctx.gone, Ctx.runs, htask, hstatus, bne_self_eq_false, decide_false, Bool.false_or, Bool.or_eq_true, decide_eq_true_eq]
  tauto

include hwho hlisten in
theorem State.not_gone (hruns : (s.ctx c x).runs) : (s.ctx c x).gone r = false := by
  rw [← Bool.not_eq_true, State.gone_iff hwho hlisten, not_not]
  exact hruns

/-- The access is over: its bytes are off the counter, and its line is no longer write-pending. -/
def State.settledOf (s : State) (r : Req) : State := ((s.endReq r.id).settle r).lessPending r

section
include hreq hwho hlisten

/-- A refused read: of the mark's own bundle it is asked again, or left to the host; any other stops its context. -/
theorem read_refusal {g : Nat} (hwant : r.want = .read g) (hruns : (s.ctx c x).runs) : exec .refusalArrival s = .next (
    if (s.ctx c x).marked r && decide (r.code = 1) then (s.askAgain r Config.migrationClocks).refused c x r
    else if (s.ctx c x).marked r && decide (r.code = 2) then (s.modReq r.id (fun r => { r with served := true })).refused c x r
    else (s.settledOf r).refused c x r) := by
  obtain ⟨-, -, hdead⟩ := State.listening_task hwho hlisten
  have hgone := State.not_gone hwho hlisten hruns
  rw [Ctx.gone] at hgone
  change execRefusalArrival s = _
  simp only [execRefusalArrival, hreq, hwho, hwant, hgone, hdead, Option.isSome_none, Bool.false_and, Bool.false_eq_true,
    if_false, Bool.not_false, Bool.true_and, State.settledOf]
  rfl

theorem read_refused {g : Nat} (hwant : r.want = .read g) (hruns : (s.ctx c x).runs) (hmark : (s.ctx c x).marked r = false) :
    exec .refusalArrival s = .next ((s.settledOf r).refused c x r) := by
  rw [read_refusal hreq hwho hlisten hwant hruns, hmark]
  rfl

theorem read_asked_again {g : Nat} (hwant : r.want = .read g) (hruns : (s.ctx c x).runs) (hmark : (s.ctx c x).marked r = true)
    (hcode : r.code = 1) : exec .refusalArrival s = .next ((s.askAgain r 2048).refused c x r) := by
  rw [read_refusal hreq hwho hlisten hwant hruns, hmark, hcode]
  rfl

theorem poll_or_write_refused (hwant : r.want = .sync ∨ ∃ v be, r.want = .write v be) (hruns : (s.ctx c x).runs) :
    exec .refusalArrival s = .next ((s.settledOf r).refused c x r) := by
  obtain ⟨-, -, hdead⟩ := State.listening_task hwho hlisten
  have hgone := State.not_gone hwho hlisten hruns
  rw [Ctx.gone] at hgone
  change execRefusalArrival s = _
  rcases hwant with hwant | ⟨v, be, hwant⟩ <;>
    simp only [execRefusalArrival, hreq, hwho, hwant, hgone, hdead, Option.isSome_none, Bool.false_and, Bool.false_eq_true,
      if_false, State.settledOf]

theorem write_refused_late {v be : Nat} (hwant : r.want = .write v be) (hruns : ¬ (s.ctx c x).runs) :
    exec .refusalArrival s = .next ((s.settledOf r).lateFault c r) := by
  have hgone := (State.gone_iff hwho hlisten).2 hruns
  rw [Ctx.gone] at hgone
  change execRefusalArrival s = _
  simp only [execRefusalArrival, hreq, hwho, hwant, hgone, Option.isSome_none, Bool.false_and, Bool.false_eq_true,
    if_false, if_true, State.settledOf, Want.released]

end

include hreq hwho in
theorem prefetch_refused {b : Bool} (hwant : r.want = .prefetch b) : exec .refusalArrival s = .next (s.settledOf r) := by
  change execRefusalArrival s = _
  simp only [execRefusalArrival, hreq, hwho, hwant, State.settledOf]

end

/-! ### What a refused read does to its context (R281, R409 to R411) -/

section
variable {s : State} {r : Req} {g : Nat} (c x : Nat) (hwant : r.want = .read g) (hwhy : ∀ a d, (s.ctx c x).why ≠ .saving a d)
include hwant hwhy

/-- A page that migrates: the context goes back to its mark and runs again 2,048 clocks later. -/
theorem State.refused_migrating (hcode : r.code = 1) : s.refused c x r =
    (s.rollback c x .migrating).sched_ (s.pcyc + 2048) 0 .migrationRerun { core := c, ctx := x, id := (s.ctx c x).task } := by
  simp only [State.refused, hwant, hcode]
  rfl

/-- A page that is absent: a record that waits for the host. -/
theorem State.refused_absent (hcode : r.code = 2) :
    let q := s.post (s.recOf c x
      { cls := 1, cause := 0x16, slot := 2, asid := r.g.ent.asid, pos := r.pos, addr := r.g.va + r.g.off })
    s.refused c x r = State.rollback { q with fq := { q.fq with waits := q.fq.waits ++ [(s.fq.seq.toNat, c, x, none)] } } c x
      (.resolve s.fq.seq.toNat false) := by
  simp only [State.refused, hwant, hcode]

/-- The trap of a read that is an error of the program or of the data. -/
def Req.readTrap (r : Req) (cls cause sub : Nat) : Trap :=
  { cls := cls, cause := cause, sub := sub, slot := 2, addr := r.g.va + r.g.off, asid := r.g.ent.asid }

theorem State.refused_error :
    (r.code = 3 → s.refused c x r = s.programError c x (r.readTrap 2 0x12 1) r.pos)
    ∧ (r.code = 4 → s.refused c x r = s.programError c x (r.readTrap 2 0x12 2) r.pos)
    ∧ (r.code = 5 → s.refused c x r = s.programError c x (r.readTrap 3 0x1E 0) r.pos)
    ∧ (r.code = 6 → s.refused c x r = s.programError c x (r.readTrap 3 0x1E 2) r.pos) := by
  refine ⟨?_, ?_, ?_, ?_⟩ <;>
  · intro hcode
    simp only [State.refused, hwant, hcode, Req.readTrap]

end

/-- Settles O48: the answers one by one, and the refusals by the access and by their code. -/
theorem answersOfHomes : Obligations.AnswersOfHomes := by
  unfold Obligations.AnswersOfHomes
  constructor
  · intro s r c x hreq hwho hlisten k e ack settled runs marked hflag
    obtain ⟨htask, -, hdead⟩ := State.listening_task hwho hlisten
    have hmarked : k.marked r = true ↔ marked := k.marked_iff r
    refine ⟨fun _ h => read_lands hreq hwho hlisten hflag h, fun _ h => prefetch_lands hreq hwho hlisten hflag h,
      fun i d op v sz h => ⟨_, amo_lands hreq hwho hlisten hflag h, s.atomicLanded_ctx ..⟩, fun i d w v sz h => ?_,
      fun h hsync => sync_lands hreq hwho hlisten hflag h hsync, fun _ h => grant_returns_entry hreq hwho h hdead,
      fun _ _ h => grant_returns_release hreq hwho h, fun _ _ h => write_acked hreq hwho hflag h htask, fun op v h => ?_,
      fun h => pin_acked hreq hwho hflag h, fun _ h hruns hmark => ?_,
      fun _ h hruns hmark => read_asked_again hreq hwho hlisten h hruns (hmarked.2 hmark),
      fun h => poll_or_write_refused hreq hwho hlisten (.inl h),
      fun v be h => poll_or_write_refused hreq hwho hlisten (.inr ⟨v, be, h⟩),
      fun _ _ h => write_refused_late hreq hwho hlisten h, fun _ h => prefetch_refused hreq hwho h⟩
    · obtain ⟨hreg, hpend, -, -⟩ := s.atomicLanded_ctx r c x i d (sz.ext r.data)
      exact ⟨_, cas_lands hreq hwho hlisten hflag h, hreg, hpend⟩
    · refine ⟨_, red_acked hreq hwho hflag h, ?_⟩
      rw [State.acked_ctx hwho htask, State.owed, h]
    · exact read_refused hreq hwho hlisten h hruns (Bool.eq_false_iff.2 fun hm => hmark (hmarked.1 hm))
  · intro s c x r g hwant hwhy
    exact ⟨State.refused_migrating c x hwant hwhy, State.refused_absent c x hwant hwhy, State.refused_error c x hwant hwhy⟩

end Sys2Proof.Machine
end

section

/-!
PROOFS. The events of a scratchpad (O45): draining, the granted accesses and parity, and the power of its banks.
-/

namespace Sys2Proof.Machine

/-! ### A write under byte enables -/

/-- Byte k of a write of n bytes is taken where it is enabled. -/
theorem mget_mwriteBe_inside (n : Nat) {m : Memory} {a k : Nat} (v be : Nat) (h : Memory.wf m = true) (hk : k < n) :
    mget (mwriteBe m a n v be) (a + k) = if be.testBit k then BitVec.ofNat 8 (v / 2 ^ (8 * k)) else mget m (a + k) := by
  induction n generalizing m a v be k with
  | zero => omega
  | succ n ih =>
    have hwf : Memory.wf (if be % 2 = 1 then mset m a (BitVec.ofNat 8 v) else m) = true := by
      split_ifs
      · exact wf_mset _ _ h
      · exact h
    rw [mwriteBe]
    cases k with
    | zero =>
      rw [mget_mwriteBe_outside n _ _ hwf (by omega), Nat.add_zero, Nat.testBit_zero, Nat.mul_zero, Nat.pow_zero, Nat.div_one]
      by_cases hbe : be % 2 = 1
      · simp only [hbe, if_true, decide_true, mget_mset_self _ _ h]
      · simp only [hbe, if_false, decide_false, Bool.false_eq_true]
    | succ k =>
      rw [div_byte_succ, Nat.testBit_succ, show a + (k + 1) = a + 1 + k by omega, ih _ _ hwf (by omega)]
      congr 1
      split_ifs
      · exact mget_mset_ne _ h (by omega)
      · rfl

theorem mget_mwriteBe (n : Nat) {m : Memory} (a v be q : Nat) (h : Memory.wf m = true) : mget (mwriteBe m a n v be) q =
    if a ≤ q ∧ q < a + n ∧ be.testBit (q - a) = true then BitVec.ofNat 8 (v / 2 ^ (8 * (q - a))) else mget m q := by
  by_cases hq : a ≤ q ∧ q < a + n
  · obtain ⟨hle, hlt⟩ := hq
    have hin := mget_mwriteBe_inside n (a := a) v be h (k := q - a) (by omega)
    rw [Nat.add_sub_cancel' hle] at hin
    simp only [hin, hle, hlt, true_and]
  · rw [mget_mwriteBe_outside n v be h (by omega), if_neg (by tauto)]

/-! ### What the parts of an access leave of the bytes -/

section
variable (s : State) (c : Nat)

theorem State.sp_modSp (f : Spad → Spad) : ((s.modSp c f).core c).sp = f (s.core c).sp :=
  congrArg Core.sp (s.core_modCore_self c _)

theorem State.setPar_sp (g row d t : Nat) : ((s.setPar c g row d t).core c).sp =
    { (s.core c).sp with par := mwrite (s.core c).sp.par (g * 131072 + row * 64) 64 d,
                         ptags := State.putTags (s.core c).sp.ptags (g * 131072 + row * 64) t } := s.sp_modSp ..

theorem State.setPar_data (g row d t : Nat) : ((s.setPar c g row d t).core c).sp.data = (s.core c).sp.data := by
  rw [State.setPar_sp]

theorem State.xorPar_data (g row d t : Nat) : ((s.xorPar c g row d t).core c).sp.data = (s.core c).sp.data := s.setPar_data ..

theorem State.stripeXor_data (g row d t : Nat) (of_ : Stripe → Bool) (f : Stripe → Stripe) :
    ((s.stripeXor c g row d t of_ f).core c).sp.data = (s.core c).sp.data := by
  rw [State.stripeXor, State.sp_modSp]

theorem State.memberWritten_data (w : PWrite) : ((s.memberWritten c w).core c).sp.data = (s.core c).sp.data :=
  (congrArg Spad.data (State.sp_modSp ..)).trans (s.stripeXor_data ..)

/-- An access changes the bytes that it writes, and no others. -/
theorem State.bankAccess_data (w : PWrite) : ((s.bankAccess c w).core c).sp.data = w.apply (s.core c).sp.data := by
  unfold State.bankAccess
  extract_lets sp a b g old oldTags data full dd dt now fill times made
  have hmade : (made.core c).sp.data = w.apply (s.core c).sp.data := congrArg Spad.data (s.sp_modSp ..)
  clear_value made
  split_ifs
  · exact (made.memberWritten_data ..).trans hmade
  · exact hmade
  · exact (made.setPar_data ..).trans hmade
  · exact (made.xorPar_data ..).trans hmade

theorem State.applyDelta_sp (d : Delta) : ((s.applyDelta c d).core c).sp.data = (s.core c).sp.data
    ∧ ∀ e ∈ ((s.applyDelta c d).core c).sp.deltas, e.wid ≠ d.wid := by
  unfold State.applyDelta
  extract_lets xored striped
  have hxored : (xored.core c).sp.data = (s.core c).sp.data := s.xorPar_data ..
  clear_value xored
  have hstriped : (striped.core c).sp.data = (s.core c).sp.data := (xored.stripeXor_data ..).trans hxored
  rw [State.sp_modSp]
  refine ⟨hstriped, fun e he => ?_⟩
  simpa using (List.mem_filter.1 he).2

end

/-! ### The argument of the step stays (R258 to R262, R304)

BANK_WAKE tests the words of its bank for queued RSTEs with the core that its argument names. -/

section

@[simp] theorem State.arg_ite (p : Prop) [Decidable p] (s t : State) : (if p then s else t).arg = if p then s.arg else t.arg :=
  apply_ite ..

@[simp] theorem foldl_arg {α : Type} (f : State → α → State) (l : List α) (s : State) (h : ∀ t a, (f t a).arg = t.arg) :
    (l.foldl f s).arg = s.arg := foldl_keeps State.arg h l s

variable (s : State) (c : Nat)

@[simp] theorem State.post_arg (r : Rec) : (s.post r).arg = s.arg := by simp [State.post]
@[simp] theorem State.cancelGin_arg (d gin : Nat) : (s.cancelGin d gin).arg = s.arg := rfl
@[simp] theorem State.yieldPrimary_arg (x : Nat) : (s.yieldPrimary c x).arg = s.arg := by simp [State.yieldPrimary]

@[simp] theorem State.dropHeld_arg (x : Nat) : (s.dropHeld c x).arg = s.arg :=
  foldl_arg _ _ _ fun _ _ => by split <;> rfl

@[simp] theorem State.endRequest_arg (x : Nat) : (s.endRequest c x).arg = s.arg := by simp [State.endRequest, State.pmEnd]
@[simp] theorem State.haltTrapped_arg (x : Nat) : (s.haltTrapped c x).arg = s.arg := by simp [State.haltTrapped]
@[simp] theorem State.modSp_arg (f : Spad → Spad) : (s.modSp c f).arg = s.arg := rfl
@[simp] theorem State.setPar_arg (g row d t : Nat) : (s.setPar c g row d t).arg = s.arg := rfl
@[simp] theorem State.xorPar_arg (g row d t : Nat) : (s.xorPar c g row d t).arg = s.arg := rfl
@[simp] theorem State.applyDelta_arg (d : Delta) : (s.applyDelta c d).arg = s.arg := rfl
@[simp] theorem State.memberWritten_arg (w : PWrite) : (s.memberWritten c w).arg = s.arg := rfl
@[simp] theorem State.freezeCore_arg : (s.freezeCore c).arg = s.arg := rfl
@[simp] theorem State.rsteActed_arg (m : Msg) : (s.rsteActed c m).arg = s.arg := rfl

@[simp] theorem State.coreRecord_arg (cause sub info d0 : Nat) : (s.coreRecord c cause sub info d0).arg = s.arg := by
  simp [State.coreRecord]

@[simp] theorem State.reconFault_arg (bank row : Nat) (chg : Option (Nat × Nat)) : (s.reconFault c bank row chg).arg = s.arg := by
  unfold State.reconFault
  split <;> simp

@[simp] theorem State.flushDelta_arg (d : Delta) : (s.flushDelta c d).arg = s.arg := by simp [State.flushDelta]
@[simp] theorem State.flushDeltas_arg (g : Nat) : (s.flushDeltas c g).arg = s.arg := by simp [State.flushDeltas]
@[simp] theorem State.retireBank_arg (b : Nat) : (s.retireBank c b).arg = s.arg := by simp [State.retireBank]

@[simp] theorem State.repair_arg (bank row : Nat) : (s.repair c bank row).arg = s.arg := by
  simp only [State.repair]
  split <;> simp

@[simp] theorem State.eccError_arg (e : EccErr) (chg : Option (Nat × Nat)) : (s.eccError c e chg).arg = s.arg := by
  simp [State.eccError]

@[simp] theorem State.bankAccess_arg (w : PWrite) : (s.bankAccess c w).arg = s.arg := by simp [State.bankAccess]
@[simp] theorem State.directAccess_arg (w : PWrite) : (s.directAccess c w).arg = s.arg := by simp [State.directAccess]

theorem State.tagChanged_arg (a : Nat) : (s.tagChanged c a).arg = s.arg := by
  unfold State.tagChanged
  (repeat' split) <;> simp

/-- Two folds agree where their steps agree on what the fold keeps. -/
theorem foldl_congr_of_keeps {σ α : Type} {P : σ → Prop} {f g : σ → α → σ} (hfg : ∀ s a, P s → f s a = g s a)
    (hg : ∀ s a, P s → P (g s a)) (l : List α) {s : σ} (hs : P s) : l.foldl f s = l.foldl g s := by
  induction l generalizing s with
  | nil => rfl
  | cons a l ih => rw [List.foldl_cons, List.foldl_cons, hfg s a hs, ih (hg s a hs)]

/-- Words tested on the core that the argument names: the same core for each. -/
theorem State.foldl_tagChanged (l : List Nat) (hc : s.arg.core = c) :
    l.foldl (fun t a => t.tagChanged t.arg.core a) s = l.foldl (fun t a => t.tagChanged c a) s :=
  foldl_congr_of_keeps (P := fun t : State => t.arg.core = c) (fun t a ht => congrArg (t.tagChanged · a) ht)
    (fun t a ht => (congrArg Arg.core (t.tagChanged_arg c a)).trans ht) l hc

end

/-! ### Draining (R150, R229, R249, R253) -/

section
variable (s : State)

theorem State.stoodStill_iff (c : Nat) :
    s.stoodStill c = true ↔ s.pcyc < (s.core c).freeze ∧ (s.core c).freeze ≤ s.pcyc + 24 := by
  rw [State.stoodStill, Bool.and_eq_true, decide_eq_true_eq, decide_eq_true_eq]
  rfl

theorem commitDrain_stops (h : s.pcyc < (s.core s.arg.core).stopDrain
    ∨ s.pcyc < (s.core s.arg.core).freeze ∧ (s.core s.arg.core).freeze ≤ s.pcyc + 24) : exec .commitDrain s = .next s := by
  refine if_pos ?_
  rwa [Bool.or_eq_true, decide_eq_true_eq, State.stoodStill_iff]

theorem commitDrain_drains (hgo : (s.core s.arg.core).stopDrain ≤ s.pcyc)
    (hstill : ¬ (s.pcyc < (s.core s.arg.core).freeze ∧ (s.core s.arg.core).freeze ≤ s.pcyc + 24)) :
    exec .commitDrain s = .next ((s.drainSpad s.arg.core).drainOther s.arg.core) := by
  refine if_neg ?_
  rw [Bool.or_eq_true, decide_eq_true_eq, State.stoodStill_iff, not_or]
  exact ⟨Nat.not_lt.2 hgo, hstill⟩

theorem State.tagWords_of_none {w : PWrite} (h : w.tset = 0#8) : State.tagWords w = [] := by
  simp [State.tagWords, h]

/-- The write of an entry, made: its bytes are in the bank and the entry has left the commit buffer. -/
def State.entryWritten (s : State) (c e : Nat) (w : PWrite) : State :=
  (s.bankAccess c w).modCore c (fun k => { k with cb := k.cb.filter (fun f => f.id != e) })

theorem drainWrite_writes {w : PWrite} {e : Nat} (hflag : s.arg.flag = false)
    (hfind : (s.core s.arg.core).sp.wr.find? (fun w => w.id = s.arg.id) = some w) (hread : w.read = false)
    (hsrc : w.src = .entry e) (htset : w.tset = 0#8) :
    exec .scratchpadDrainWrite s = .next (s.entryWritten s.arg.core e w) := by
  change execScratchpadDrainWrite s = _
  simp only [execScratchpadDrainWrite, hflag, hfind, hread, hsrc, State.tagWords_of_none htset, List.foldl_nil,
    Bool.false_eq_true, if_false, State.entryWritten]

theorem State.entryWritten_leaves {c e : Nat} {w : PWrite} (hread : w.read = false) (hred : w.red = none)
    (hwf : Memory.wf (s.core c).sp.data = true) :
    (∀ f ∈ ((s.entryWritten c e w).core c).cb, f.id ≠ e) ∧ (s.entryWritten c e w).mems = s.mems
    ∧ ∀ a, mget ((s.entryWritten c e w).core c).sp.data a =
        if w.addr ≤ a ∧ a < w.addr + 64 ∧ w.be.getLsbD (a - w.addr) = true then
          BitVec.ofNat 8 (w.data.toNat / 2 ^ (8 * (a - w.addr)))
        else mget (s.core c).sp.data a := by
  have happly : w.apply (s.core c).sp.data = mwriteBe (s.core c).sp.data w.addr 64 w.data.toNat w.be.toNat := by
    simp only [PWrite.apply, hread, hred]
  rw [State.entryWritten, State.core_modCore_self]
  refine ⟨fun f hf => ?_, s.bankAccess_mems .., fun a => ?_⟩
  · simpa using (List.mem_filter.1 hf).2
  · change mget ((s.bankAccess c w).core c).sp.data a = _
    rw [State.bankAccess_data, happly, mget_mwriteBe _ _ _ _ _ hwf]
    rfl

theorem parityDelta_applies {d : Delta} (h : (s.core s.arg.core).sp.deltas.find? (fun d => d.wid = s.arg.id) = some d) :
    exec .parityDeltaApply s = .next (s.applyDelta s.arg.core d) := by
  change execParityDeltaApply s = _
  simp only [execParityDeltaApply, h]

/-! ### The power of a bank (R263) -/

theorem State.modSp_congr {c : Nat} {f g : Spad → Spad} (h : f (s.core c).sp = g (s.core c).sp) : s.modSp c f = s.modSp c g := by
  simp only [State.modSp, State.modCore, h]

theorem bankSleep_sleeps (h : (s.core s.arg.core).sp.powerOf s.arg.n = .on) : ∃ t, exec .bankSleep s = .next t
    ∧ (t.core s.arg.core).sp = { (s.core s.arg.core).sp with power := tset (s.core s.arg.core).sp.power s.arg.n .sleep } := by
  refine ⟨_, rfl, ?_⟩
  rw [State.sp_modSp, h]

theorem bankSleep_stays (h : (s.core s.arg.core).sp.powerOf s.arg.n ≠ .on) :
    exec .bankSleep s = .next (s.modSp s.arg.core id) := by
  refine congrArg Host.Outcome.next (s.modSp_congr ?_)
  cases hpower : (s.core s.arg.core).sp.powerOf s.arg.n with
  | on => exact absurd hpower h
  | sleep | gated | waking => rfl

/-- The scratchpad after the clock in which a bank wakes (R263). -/
def Spad.woken (sp : Spad) (n : Nat) : Spad :=
  match sp.powerOf n with
  | .waking w gated =>
    let on : Spad := { sp with power := tset sp.power n .on, last := tset sp.last n w }
    if gated then
      { on with data := sp.data.filter (fun c => bankOf c.1 != n), full := sp.full.filter (fun a => bankOf a != n),
                errs := sp.errs.filter (fun e => e.bank != n), reb := tset sp.reb (groupOf n) w }
    else on
  | _ => sp

theorem bankWake_wakes {w : Nat} (h : (s.core s.arg.core).sp.powerOf s.arg.n = .waking w false) :
    exec .bankWake s = .next (s.modSp s.arg.core (fun sp => sp.woken s.arg.n)) := by
  change execBankWake s = _
  simp only [execBankWake, h, List.foldl_nil]
  rfl

theorem bankWake_empties {w : Nat} (h : (s.core s.arg.core).sp.powerOf s.arg.n = .waking w true) :
    exec .bankWake s = .next (((s.core s.arg.core).sp.full.filter (fun a => bankOf a = s.arg.n)).foldl
      (fun t a => t.tagChanged s.arg.core a) (s.modSp s.arg.core (fun sp => sp.woken s.arg.n))) := by
  rw [← State.foldl_tagChanged (s.modSp s.arg.core (fun sp => sp.woken s.arg.n)) s.arg.core _ rfl]
  change execBankWake s = _
  simp only [execBankWake, h]
  rfl

theorem Spad.woken_of_asleep {sp : Spad} {n w : Nat} (h : sp.powerOf n = .waking w false) :
    sp.woken n = { sp with power := tset sp.power n .on, last := tset sp.last n w } := by
  simp only [Spad.woken, h, Bool.false_eq_true, if_false]

/-- A bank that was gated, on its clock of waking: its bytes are zero, its tags empty, and its group rebuilds parity. -/
theorem Spad.woken_of_gated {sp : Spad} {n w : Nat} (h : sp.powerOf n = .waking w true) : (sp.woken n).powerOf n = .on
    ∧ (∀ a ∈ (sp.woken n).full, bankOf a ≠ n) ∧ (∀ p ∈ (sp.woken n).data, bankOf p.1 ≠ n)
    ∧ (∀ p ∈ sp.data, bankOf p.1 ≠ n → p ∈ (sp.woken n).data) ∧ tget (sp.woken n).reb (groupOf n) 0 = w := by
  simp only [Spad.woken, h, if_true]
  refine ⟨tget_tset_self .., fun a ha => ?_, fun p hp => ?_, fun p hp hne => List.mem_filter.2 ⟨hp, by simpa using hne⟩,
    tget_tset_self ..⟩
  · simpa using (List.mem_filter.1 ha).2
  · simpa using (List.mem_filter.1 hp).2

/-! ### A row that is rebuilt (R258, R263) -/

/-- Banks used change only the clocks of their last use. -/
theorem Spad.foldl_touch_keeps {β : Type} (g : Spad → β) (hg : ∀ sp last, g { sp with last := last } = g sp) (x : Nat)
    (f : Nat → Nat) (l : List Nat) (sp : Spad) : g (l.foldl (fun sp m => sp.touch x (f m)) sp) = g sp := by
  refine foldl_keeps g (fun sp m => ?_) l sp
  unfold Spad.touch
  split_ifs
  · rfl
  · exact hg ..

theorem parityRebuild_reads (hflag : s.arg.flag = true)
    (hclean : ∀ e ∈ (s.core s.arg.core).sp.errs, e.row ≠ s.arg.m ∨ 32 ≤ e.bank ∨ groupOf e.bank ≠ s.arg.n) :
    ∃ t, exec .parityRebuildRow s = .next t ∧ (t.core s.arg.core).sp.data = (s.core s.arg.core).sp.data
      ∧ (t.core s.arg.core).sp.par = (s.core s.arg.core).sp.par
      ∧ tget (t.core s.arg.core).sp.rebRow s.arg.n (0#512, 0#8) = (BitVec.ofNat 512 (s.memberXor s.arg.core s.arg.n s.arg.m).1,
          BitVec.ofNat 8 (s.memberXor s.arg.core s.arg.n s.arg.m).2) := by
  have hnone : (s.core s.arg.core).sp.errs.filter (fun e => e.bank < 32 && groupOf e.bank = s.arg.n && e.row = s.arg.m) = [] := by
    rw [List.filter_eq_nil_iff]
    intro e he
    simp only [Bool.and_eq_true, decide_eq_true_eq, not_and]
    intro hbank hrow
    rcases hclean e he with h | h | h
    · exact absurd hrow h
    · exact absurd hbank.1 (by omega)
    · exact absurd hbank.2 h
  refine ⟨_, show execParityRebuildRow s = _ by simp only [execParityRebuildRow, hflag, if_true, hnone, List.foldl_nil]; rfl,
    ?_, ?_, ?_⟩ <;> rw [State.sp_modSp]
  · rw [State.sp_modSp]
    exact Spad.foldl_touch_keeps Spad.data (fun _ _ => rfl) ..
  · rw [State.sp_modSp]
    exact Spad.foldl_touch_keeps Spad.par (fun _ _ => rfl) ..
  · exact tget_tset_self ..

theorem parityRebuild_writes (hflag : s.arg.flag = false) :
    ∃ t, exec .parityRebuildRow s = .next t ∧ (t.core s.arg.core).sp.data = (s.core s.arg.core).sp.data
      ∧ (t.core s.arg.core).sp.full = (s.core s.arg.core).sp.full
      ∧ (t.core s.arg.core).sp.par = mwrite (s.core s.arg.core).sp.par (s.arg.n * 131072 + s.arg.m * 64) 64
          (tget (s.core s.arg.core).sp.rebRow s.arg.n (0#512, 0#8)).1.toNat := by
  refine ⟨_, show execParityRebuildRow s = _ by simp only [execParityRebuildRow, hflag, Bool.false_eq_true, if_false]; rfl, ?_⟩
  simp only [State.sp_modSp, State.setPar_sp, and_self]

end

/-! ### Tiles whose signatures are compared (R228, R229) -/

section
variable (s : State)

theorem State.clu_sched (due route : Nat) (i : Instr) (a : Arg) (k : Nat) : (s.sched_ due route i a).clu k = s.clu k := rfl

theorem State.core_modClu (k : Nat) (f : Clus → Clus) (c : Nat) : (s.modClu k f).core c = s.core c := rfl

theorem State.hardyNext_cores (k : Nat) : (s.hardyNext k).cores = s.cores := by
  unfold State.hardyNext
  extract_lets h
  split <;> rfl

theorem State.hardyNext_queue (k : Nat) : ((s.hardyNext k).clu k).hardy.queue = (s.clu k).hardy.queue := by
  unfold State.hardyNext
  extract_lets h
  split
  · rw [State.clu_sched, State.clu_modClu_self]
  · rfl

/-- A closed tile of a core is done with. -/
def State.withoutTile (s : State) (c id : Nat) : State :=
  s.modCore c (fun k => { k with eng0 := { k.eng0 with closed := k.eng0.closed.filter (fun u => u.id != id) } })

section
variable {s} {t : Tile} (hclosed : s.closedTile s.arg.core s.arg.id = some t)
include hclosed

theorem tileComparison_agrees (h : t.siga = t.sigs) : exec .tileComparison s =
    .next ((s.withoutTile s.arg.core s.arg.id).releasePinned (clusOf s.arg.core)) := by
  change execTileComparison s = _
  simp only [execTileComparison, hclosed, if_pos h, State.withoutTile]

/-- A tile of core c has failed its comparison: draining stops and the Hardy has one more to decide (R229). -/
def State.tileFailed (s : State) (c id : Nat) : State :=
  (s.modCore c (fun k => { k with stopDrain := never, eng0 := { k.eng0 with
    closed := k.eng0.closed.map (fun u => if u.id = id then { u with failed := true } else u) } })).modClu (clusOf c)
      (fun u => { u with hardy := { u.hardy with queue := u.hardy.queue ++ [(c, id, s.pcyc)] } })

theorem tileComparison_disagrees (h : t.siga ≠ t.sigs) : exec .tileComparison s =
    .next ((s.tileFailed s.arg.core s.arg.id).hardyNext (clusOf s.arg.core)) := by
  change execTileComparison s = _
  simp only [execTileComparison, hclosed, if_neg h]
  rfl

end

theorem State.tileFailed_leaves (c id : Nat) : ((s.tileFailed c id).core c).stopDrain = never
    ∧ ((s.tileFailed c id).clu (clusOf c)).hardy.queue = (s.clu (clusOf c)).hardy.queue ++ [(c, id, s.pcyc)] := by
  rw [State.tileFailed, State.clu_modClu_self, State.core_modClu, State.core_modCore_self]
  exact ⟨rfl, rfl⟩

/-! ### The Hardy's decision (R229, R230) -/

/-- What follows every decision about a tile of core d: draining resumes, pinned lines are released, and the Hardy goes on. -/
def State.decided (u : State) (d k : Nat) (rest : List (Nat × Nat × Nat)) (extra : Nat) : State :=
  ((u.resumeDrain d rest extra).releasePinned k).hardyNext k

/-- The Hardy takes up the first comparison that waits. -/
def State.takenUp (s : State) (k : Nat) (rest : List (Nat × Nat × Nat)) : State :=
  s.modClu k (fun u => { u with hardy := { queue := rest, until_ := none } })

/-- The entries of a tile of core d. -/
def State.tileEntries (s : State) (d i : Nat) : List Entry :=
  (s.core d).cb.filter (fun e => match e.kind with | .drain _ _ _ _ j _ => j = i | _ => false)

/-- The entries of a tile take the bytes of its replay (R230). -/
def State.overwritten (s : State) (d : Nat) (out : List (Nat × Nat)) : State :=
  s.modCore d (fun k => { k with cb := k.cb.map (fun e => match e.kind, out.find? (fun o => o.1 = e.id) with
    | .drain a _ be g i f, some (_, v) => { e with kind := .drain a (BitVec.ofNat 512 v) be g i f }
    | _, _ => e) })

/-- Neither signature is the replay's: the graph of the tile's context is cancelled (R230). -/
def State.bothWrong (s : State) (d i : Nat) (t : Tile) (sig : Nat) : State :=
  let u := (s.tileRecord d t.ctx 0x1C 0 t sig).modCore d (fun k => { k with trip := k.trip + 1 })
  ((u.withoutTile d i).dropHeld d t.ctx).cancelGin (coreDie d) (u.launch (u.ctx d t.ctx).launch).gin

/-- What the Hardy's signature decides about tile i of core d, and the clocks of an overwrite. -/
def State.verdict (b : State) (d i : Nat) (t : Tile) : State × Nat :=
  let r := b.replay d t
  if decide (r.sig = t.siga.toNat) && decide (r.sig = t.sigs.toNat) then ((b.tileRecord d t.ctx 0x1B 0 t r.sig).withoutTile d i, 0)
  else if decide (r.sig = t.siga.toNat) then
    (((b.tileRecord d t.ctx 0x1B 1 t r.sig).suspect d t.ctx true t r.sig).withoutTile d i, 0)
  else if decide (r.sig = t.sigs.toNat) && !(b.tileEntries d i).any (·.read) then
    ((((b.tileRecord d t.ctx 0x1B 2 t r.sig).suspect d t.ctx false t r.sig).overwritten d r.out).withoutTile d i,
      (b.tileEntries d i).length)
  else if decide (r.sig = t.sigs.toNat) then
    ((((b.tileRecord d t.ctx 0x1B 3 t r.sig).suspect d t.ctx false t r.sig).withoutTile d i).rollback d t.ctx .rolling, 0)
  else (b.bothWrong d i t r.sig, 0)

theorem hardyDecision_decides {d i since extra : Nat} {rest : List (Nat × Nat × Nat)} {t : Tile} {u : State}
    (hqueue : (s.clu s.arg.n).hardy.queue = (d, i, since) :: rest)
    (hclosed : (s.takenUp s.arg.n rest).closedTile d i = some t) (hverdict : (s.takenUp s.arg.n rest).verdict d i t = (u, extra)) :
    exec .hardyDecision s = .next (u.decided d s.arg.n rest extra) := by
  have hexec : exec .hardyDecision s = .next (((s.takenUp s.arg.n rest).verdict d i t).1.decided d s.arg.n rest
      ((s.takenUp s.arg.n rest).verdict d i t).2) := by
    rw [State.takenUp] at *
    change execHardyDecision s = _
    simp only [execHardyDecision, hqueue, hclosed]
    rfl
  rw [hexec, hverdict]

/-! ### The outcomes of the decision -/

section
variable {s} {d i : Nat} {t : Tile}

theorem State.verdict_both (hA : (s.replay d t).sig = t.siga.toNat) (hS : (s.replay d t).sig = t.sigs.toNat) :
    s.verdict d i t = ((s.tileRecord d t.ctx 0x1B 0 t (s.replay d t).sig).withoutTile d i, 0) :=
  if_pos (by rw [decide_eq_true hA, decide_eq_true hS]; rfl)

theorem State.verdict_swage (hA : (s.replay d t).sig = t.siga.toNat) (hS : (s.replay d t).sig ≠ t.sigs.toNat) : s.verdict d i t =
    (((s.tileRecord d t.ctx 0x1B 1 t (s.replay d t).sig).suspect d t.ctx true t (s.replay d t).sig).withoutTile d i, 0) := by
  rw [State.verdict, decide_eq_true hA, decide_eq_false hS]
  rfl

section
variable (hA : (s.replay d t).sig ≠ t.siga.toNat)
include hA

section
variable (hS : (s.replay d t).sig = t.sigs.toNat)
include hS

theorem State.verdict_anvil (hread : (s.tileEntries d i).any (·.read) = false) : s.verdict d i t =
    ((((s.tileRecord d t.ctx 0x1B 2 t (s.replay d t).sig).suspect d t.ctx false t (s.replay d t).sig).overwritten d
      (s.replay d t).out).withoutTile d i, (s.tileEntries d i).length) := by
  rw [State.verdict, decide_eq_false hA, decide_eq_true hS, hread]
  rfl

theorem State.verdict_anvil_read (hread : (s.tileEntries d i).any (·.read) = true) : s.verdict d i t =
    ((((s.tileRecord d t.ctx 0x1B 3 t (s.replay d t).sig).suspect d t.ctx false t (s.replay d t).sig).withoutTile d i).rollback d
      t.ctx .rolling, 0) := by
  rw [State.verdict, decide_eq_false hA, decide_eq_true hS, hread]
  rfl

end

theorem State.verdict_neither (hS : (s.replay d t).sig ≠ t.sigs.toNat) :
    s.verdict d i t = (s.bothWrong d i t (s.replay d t).sig, 0) := by
  rw [State.verdict, decide_eq_false hA, decide_eq_false hS]
  rfl

end

end

/-! What is left of a core's entries, and its trips. -/

section
variable (d i : Nat) (t : Tile) (sig : Nat)

theorem State.preemptAll_cores (of : Launch → Bool) : (s.preemptAll d of).cores = s.cores := by
  unfold State.preemptAll
  extract_lets hit asked moved
  refine (foldl_keeps State.cores (fun _ _ => ?_) moved asked).trans (foldl_keeps State.cores (fun _ _ => ?_) hit s) <;> rfl

theorem State.tileRecord_core (x cause sub e : Nat) : (s.tileRecord d x cause sub t sig).core e = s.core e := s.post_core ..

theorem State.suspect_cb (x : Nat) (swage : Bool) : ((s.suspect d x swage t sig).core d).cb = (s.core d).cb := by
  unfold State.suspect
  extract_lets k last retire noted recorded
  have hnoted : (noted.core d).cb = (s.core d).cb := by
    refine s.core_modCore_keeps Core.cb (fun k => ?_) d d
    split <;> rfl
  split
  · have hrecorded : (recorded.core d).cb = (noted.core d).cb := congrArg Core.cb (State.tileRecord_core ..)
    rw [State.core, State.preemptAll_cores]
    exact hrecorded.trans hnoted
  · exact hnoted

theorem State.withoutTile_keeps {β : Type} (g : Core → β) (hg : ∀ k e, g { k with eng0 := e } = g k) :
    g ((s.withoutTile d i).core d) = g (s.core d) :=
  s.core_modCore_keeps g (by exact fun k => hg k _) d d

/-- An entry that is overwritten keeps its number and its place. -/
theorem State.overwritten_cb (out : List (Nat × Nat)) :
    ∀ f ∈ ((s.overwritten d out).core d).cb, ∃ e ∈ (s.core d).cb, f.id = e.id ∧ f.st = e.st := by
  rw [State.overwritten, State.core_modCore_self]
  intro f hf
  obtain ⟨e, he, rfl⟩ := List.mem_map.1 hf
  refine ⟨e, he, ?_⟩
  split
  · exact ⟨rfl, rfl⟩
  · exact ⟨rfl, rfl⟩

/-- The entries of the core once the Anvil is named suspect and its tile's bytes are replaced: as before, by number and place. -/
theorem State.replaced_cb (out : List (Nat × Nat)) :
    ∀ f ∈ ((((((s.tileRecord d t.ctx 0x1B 2 t sig).suspect d t.ctx false t sig).overwritten d out).withoutTile d i).core d).cb),
      ∃ e ∈ (s.core d).cb, f.id = e.id ∧ f.st = e.st := by
  intro f hf
  rw [State.withoutTile_keeps _ _ _ Core.cb (fun _ _ => rfl)] at hf
  obtain ⟨e, he, hsame⟩ := State.overwritten_cb _ d out f hf
  rw [State.suspect_cb, State.tileRecord_core] at he
  exact ⟨e, he, hsame⟩

theorem State.core_cancelGin (gin e : Nat) : (s.cancelGin d gin).core e = s.core e := rfl

theorem State.dropHeld_trip (x : Nat) : ((s.dropHeld d x).core d).trip = (s.core d).trip := by
  obtain ⟨u, resv, hcores, -, h⟩ := s.dropHeld_eq d x
  rw [h, State.core_modCtx_self, State.core_modCore_self, State.core, hcores, State.core]

theorem State.bothWrong_trip : ((s.bothWrong d i t sig).core d).trip = (s.core d).trip + 1 := by
  unfold State.bothWrong
  extract_lets u
  have hu : (u.core d).trip = (s.core d).trip + 1 := by
    rw [State.core_modCore_self, State.tileRecord_core]
  clear_value u
  rw [State.core_cancelGin, State.dropHeld_trip, State.withoutTile_keeps _ _ _ Core.trip (fun _ _ => rfl), hu]

end

end

/-! ### The obligation -/

/-- Settles O45: the scratchpad's events one by one, then the comparison of a tile and the Hardy's verdict. -/
theorem scratchpadEvents : Obligations.ScratchpadEvents := by
  unfold Obligations.ScratchpadEvents
  refine ⟨fun s => ?_, fun s t => ⟨tileComparison_agrees, fun hclosed hne => ?_, fun d i since rest => ?_⟩⟩
  · intro c sp n row still
    refine ⟨commitDrain_stops s, commitDrain_drains s, fun w e hflag hfind hread hsrc hred _ hwf htset => ?_,
      fun d hd => ⟨parityDelta_applies s hd, s.applyDelta_sp c d⟩, bankSleep_sleeps s, bankSleep_stays s, fun w hw => ?_,
      fun w hw => ?_, parityRebuild_reads s, parityRebuild_writes s⟩
    · obtain ⟨hcb, hmems, hdata⟩ := s.entryWritten_leaves (e := e) hread hred hwf
      obtain ⟨hmem, hhost⟩ := Prod.mk.inj hmems
      exact ⟨_, drainWrite_writes s hflag hfind hread hsrc htset, hcb, hmem, hhost, hdata⟩
    · exact ⟨_, bankWake_wakes s hw, (s.sp_modSp ..).trans (Spad.woken_of_asleep hw)⟩
    · have hsp := s.sp_modSp c (fun sp => sp.woken n)
      obtain ⟨hpower, hfull, hdata, hkept, hreb⟩ := Spad.woken_of_gated hw
      refine ⟨s.modSp c (fun sp => sp.woken n), ?_⟩
      rw [hsp]
      exact ⟨hpower, bankWake_empties s hw, hfull, hdata, hkept, hreb⟩
  · obtain ⟨hstop, hqueue⟩ := s.tileFailed_leaves s.arg.core s.arg.id
    refine ⟨_, tileComparison_disagrees hclosed hne, ?_, (State.hardyNext_queue ..).trans hqueue⟩
    rw [State.core, State.hardyNext_cores]
    exact hstop
  · intro k b hqueue hclosed x r eqA eqS held fin
    have hdecides (u : State) (n : Nat) (h : b.verdict d i t = (u, n)) : exec .hardyDecision s = .next (fin u n) :=
      hardyDecision_decides s hqueue hclosed h
    exact ⟨fun hA hS => hdecides _ _ (State.verdict_both hA hS), fun hA hS => hdecides _ _ (State.verdict_swage hA hS),
      fun hA hS hread => ⟨_, hdecides _ _ (State.verdict_anvil hA hS hread), b.replaced_cb d i t r.sig r.out⟩,
      fun hA hS hread => hdecides _ _ (State.verdict_anvil_read hA hS hread),
      fun hA hS => ⟨_, hdecides _ _ (State.verdict_neither hA hS), b.bothWrong_trip d i t r.sig⟩⟩

end Sys2Proof.Machine
end
